-- ==== Sys2Proof/Word.lean ====
section
/-!
DEFINITION. Words of Ngaura and the sparse tables that hold its large register files and memories.
-/
namespace Sys2Proof

/-- One byte (R8: words are stored little-endian in bytes). -/
abbrev Byte := BitVec 8

/-- A 32-bit word: one lane of a vector register (R59). -/
abbrev Word := BitVec 32

/-- A 64-bit word: a scalar register, an address (R59, R14). -/
abbrev Dword := BitVec 64

/-- A mask with one bit per lane; 64 bits serve the 32-lane groups and the firmware core's group (R59). -/
abbrev Mask := BitVec 64

/-- A sparse table: pairs of key and value in strictly rising key order (see Machine/Tab.lean). -/
abbrev Tab (α : Type) := List (Nat × α)

end Sys2Proof
end

