-- ==== Sys2Proof/Machine/Tab.lean ====
section
/-!
DEFINITION. Operations on sparse tables (pairs in rising key order) and on association lists keyed by agents. A default
makes a table total: a key not listed holds the default, and writing the default removes the key, so equal contents are
equal data.
-/
namespace Sys2Proof.Machine

variable {α : Type}

/-- The value at key `k`, if listed. -/
def tlook (k : Nat) : Tab α → Option α
  | [] => none
  | (j, v) :: r => if j = k then some v else tlook k r

/-- Lists value `v` at key `k`, keeping rising order. -/
def tput (k : Nat) (v : α) : Tab α → Tab α
  | [] => [(k, v)]
  | (j, w) :: r => if j = k then (k, v) :: r else if k < j then (k, v) :: (j, w) :: r else (j, w) :: tput k v r

/-- Removes key `k`. -/
def tdel (k : Nat) (t : Tab α) : Tab α :=
  t.filter fun e => e.1 ≠ k

/-- The value at key `k`, or the default `d`. -/
def tget (d : α) (k : Nat) (t : Tab α) : α :=
  (tlook k t).getD d

/-- Writes `v` at key `k` of a table whose default is `d`. -/
def tset [DecidableEq α] (d : α) (k : Nat) (v : α) (t : Tab α) : Tab α :=
  if v = d then tdel k t else tput k v t

/-- Keys rise strictly. -/
def trising : Tab α → Bool
  | [] => true
  | [_] => true
  | (j, _) :: (k, w) :: r => decide (j < k) && trising ((k, w) :: r)

/-- The canonical form: keys rise strictly and no entry holds the default. -/
def twf [DecidableEq α] (d : α) (t : Tab α) : Bool :=
  trising t && t.all fun e => decide (e.2 ≠ d)

variable {κ : Type} [DecidableEq κ]

/-- The value at key `k` of an association list. -/
def alook (k : κ) : List (κ × α) → Option α
  | [] => none
  | (j, v) :: r => if j = k then some v else alook k r

/-- Replaces the value at key `k`, or adds it at the end. -/
def aput (k : κ) (v : α) : List (κ × α) → List (κ × α)
  | [] => [(k, v)]
  | (j, w) :: r => if j = k then (k, v) :: r else (j, w) :: aput k v r

/-- Removes key `k`. -/
def adel (k : κ) (t : List (κ × α)) : List (κ × α) :=
  t.filter fun e => decide (e.1 ≠ k)

/-- Element `i` of a list, or `d`. -/
def lget (d : α) (l : List α) (i : Nat) : α := l.getD i d

/-- The bits of a mask that are set among the first `n`, rising. -/
def lanesOf (n : Nat) (m : Mask) : List Nat :=
  (List.range n).filter fun i => m.getLsbD i

/-- The mask with exactly the bits of `f` among the first `n` lanes. -/
def maskOf (n : Nat) (f : Nat → Bool) : Mask :=
  (List.range n).foldl (fun m i => if f i then m ||| (1#64 <<< i) else m) 0

/-- The mask of lane `l` alone. -/
def bitMask (l : Nat) : Mask := 1#64 <<< l

/-- The lowest set lane among the first `n`. -/
def lowest (n : Nat) (m : Mask) : Option Nat := (lanesOf n m).head?

end Sys2Proof.Machine
end

