-- ==== Sys2Proof/Syntax.lean ====
section
/-!
DEFINITION. The instructions of Ngaura and the other steps of the table of operations and events: one constructor for
each row of spec/opcode_table.json. An instruction row carries the fields of its 96-bit word (R9) with the operand codes
already decoded (R10); an event row carries what the outside, or the choice of the next mover, supplies.
-/
namespace Sys2Proof

/-- An agent that issues words of its own: a group of a block, a block's matrix stream, a phrase context (R28). -/
inductive Agent where
  /-- Group `g` of the resident or evicted block `b`. -/
  | group (b g : Nat)
  /-- The matrix stream of block `b` (R188). -/
  | mstream (b : Nat)
  /-- Phrase context `ctx` of the core numbered `core` (R208). -/
  | phrase (core ctx : Nat)
  deriving DecidableEq, Repr

/-- An operand code (R10). -/
inductive Opd where
  /-- Vector register. -/
  | v (n : BitVec 10)
  /-- Scalar register. -/
  | s (n : BitVec 8)
  /-- Queue port. -/
  | q (n : BitVec 4)
  /-- Tile register. -/
  | t (n : BitVec 6)
  /-- Predicate. -/
  | p (n : BitVec 4)
  /-- Codebook register. -/
  | k (n : BitVec 3)
  /-- Special register, numbered per R11. -/
  | sr (n : BitVec 6)
  /-- Supervisor vector. -/
  | xv (n : BitVec 3)
  /-- Supervisor scalar. -/
  | xs (n : BitVec 3)
  /-- Immediate `X`, sign-extended. -/
  | immS
  /-- Immediate `X`, zero-extended. -/
  | immZ
  /-- Absent operand. -/
  | absent
  deriving DecidableEq, Repr

/-- The fields of an instruction word but for `OPC`, which the constructor of `Instr` names (R9). -/
structure Fields where
  /-- Function or variant. -/
  fn : BitVec 4
  /-- Guard negate. -/
  gn : Bool
  /-- Guard predicate number. -/
  gp : BitVec 4
  /-- Lookahead count. -/
  la : BitVec 4
  /-- Reuse latch on operand A. -/
  ka : Bool
  /-- Yield hint. -/
  yh : Bool
  /-- Cache class. -/
  cc : BitVec 2
  /-- Destination operand, or the data source of a store. -/
  d : Opd
  /-- First source operand, or the base of a memory operand. -/
  a : Opd
  /-- Second source operand, or the index of a memory operand. -/
  b : Opd
  /-- Type, size, scope or rounding, per class. -/
  mod : BitVec 6
  /-- Immediate, third source, memory scale and offset, or extension. -/
  x : BitVec 32
  deriving DecidableEq, Repr

/-- A fabric frame: the header flit's fields and the data of its data flits (R382). -/
structure Frame where
  /-- The port by which it comes or goes. -/
  port : BitVec 4
  /-- MAC addresses as their six bytes stand, the first lowest. -/
  dmac : BitVec 48
  smac : BitVec 48
  etype : BitVec 16
  src : BitVec 16
  dst : BitVec 16
  kind : BitVec 8
  srcDie : BitVec 8
  hold : Bool
  opening : Bool
  /-- Data flits of 64 bytes. -/
  flits : BitVec 8
  seq : BitVec 32
  ack : BitVec 32
  addr : Dword
  /-- Byte count or signal value. -/
  value : Dword
  tag : Dword
  openNo : Dword
  data : List Byte
  /-- The frame check sequence is good. -/
  good : Bool
  deriving DecidableEq, Repr

/-- The rows of the table of operations and events. -/
inductive Instr where
  /-- IADD (R84), opcode 0x00. -/
  | iadd (f : Fields)
  /-- ISUB (R84), opcode 0x01. -/
  | isub (f : Fields)
  /-- IMUL (R84), opcode 0x02. -/
  | imul (f : Fields)
  /-- IMULH (R83), opcode 0x03. -/
  | imulh (f : Fields)
  /-- IMAD (R84), opcode 0x04. -/
  | imad (f : Fields)
  /-- IMADW (R85), opcode 0x05. -/
  | imadw (f : Fields)
  /-- IABS (R84), opcode 0x06. -/
  | iabs (f : Fields)
  /-- INEG (R84), opcode 0x07. -/
  | ineg (f : Fields)
  /-- IMIN (R83), opcode 0x08. -/
  | imin (f : Fields)
  /-- IMAX (R83), opcode 0x09. -/
  | imax (f : Fields)
  /-- ISAD (R84), opcode 0x0A. -/
  | isad (f : Fields)
  /-- AND (R83), opcode 0x0B. -/
  | and (f : Fields)
  /-- OR (R83), opcode 0x0C. -/
  | or (f : Fields)
  /-- XOR (R83), opcode 0x0D. -/
  | xor (f : Fields)
  /-- ANDN (R83), opcode 0x0E. -/
  | andn (f : Fields)
  /-- SHL (R86), opcode 0x0F. -/
  | shl (f : Fields)
  /-- SHR (R86), opcode 0x10. -/
  | shr (f : Fields)
  /-- SAR (R86), opcode 0x11. -/
  | sar (f : Fields)
  /-- ROT (R86), opcode 0x12. -/
  | rot (f : Fields)
  /-- BFX (R87), opcode 0x13. -/
  | bfx (f : Fields)
  /-- BFI (R87), opcode 0x14. -/
  | bfi (f : Fields)
  /-- POPC (R83), opcode 0x15. -/
  | popc (f : Fields)
  /-- CLZ (R83), opcode 0x16. -/
  | clz (f : Fields)
  /-- CTZ (R83), opcode 0x17. -/
  | ctz (f : Fields)
  /-- BREV (R83), opcode 0x18. -/
  | brev (f : Fields)
  /-- PRMB (R88), opcode 0x19. -/
  | prmb (f : Fields)
  /-- ICMP (R89), opcode 0x1A. -/
  | icmp (f : Fields)
  /-- SEL (R83), opcode 0x1B. -/
  | sel (f : Fields)
  /-- MOV (R90), opcode 0x1C. -/
  | mov (f : Fields)
  /-- MOVI (R90), opcode 0x1D. -/
  | movi (f : Fields)
  /-- LEA (R91), opcode 0x1E. -/
  | lea (f : Fields)
  /-- ICLMP (R83), opcode 0x1F. -/
  | iclmp (f : Fields)
  /-- FADD (R93), opcode 0x20. -/
  | fadd (f : Fields)
  /-- FSUB (R93), opcode 0x21. -/
  | fsub (f : Fields)
  /-- FMUL (R93), opcode 0x22. -/
  | fmul (f : Fields)
  /-- FFMA (R93), opcode 0x23. -/
  | ffma (f : Fields)
  /-- FMIN (R94), opcode 0x24. -/
  | fmin (f : Fields)
  /-- FMAX (R94), opcode 0x25. -/
  | fmax (f : Fields)
  /-- FCMP (R95), opcode 0x26. -/
  | fcmp (f : Fields)
  /-- FCLASS (R96), opcode 0x27. -/
  | fclass (f : Fields)
  /-- FDIV (R93), opcode 0x28. -/
  | fdiv (f : Fields)
  /-- FSQRT (R93), opcode 0x29. -/
  | fsqrt (f : Fields)
  /-- FRCP (R97), opcode 0x2A. -/
  | frcp (f : Fields)
  /-- FRSQ (R97), opcode 0x2B. -/
  | frsq (f : Fields)
  /-- FEXP2 (R97), opcode 0x2C. -/
  | fexp2 (f : Fields)
  /-- FLOG2 (R97), opcode 0x2D. -/
  | flog2 (f : Fields)
  /-- FSIN (R97), opcode 0x2E. -/
  | fsin (f : Fields)
  /-- FCOS (R97), opcode 0x2F. -/
  | fcos (f : Fields)
  /-- FRND (R98), opcode 0x30. -/
  | frnd (f : Fields)
  /-- CVT (R99), opcode 0x31. -/
  | cvt (f : Fields)
  /-- CVTFI (R99), opcode 0x32. -/
  | cvtfi (f : Fields)
  /-- CVTIF (R99), opcode 0x33. -/
  | cvtif (f : Fields)
  /-- FDOT2 (R100), opcode 0x34. -/
  | fdot2 (f : Fields)
  /-- HADD2 (R101), opcode 0x40. -/
  | hadd2 (f : Fields)
  /-- HSUB2 (R101), opcode 0x41. -/
  | hsub2 (f : Fields)
  /-- HMUL2 (R101), opcode 0x42. -/
  | hmul2 (f : Fields)
  /-- HFMA2 (R101), opcode 0x43. -/
  | hfma2 (f : Fields)
  /-- HMIN2 (R101), opcode 0x44. -/
  | hmin2 (f : Fields)
  /-- HMAX2 (R101), opcode 0x45. -/
  | hmax2 (f : Fields)
  /-- IADD2 (R102), opcode 0x46. -/
  | iadd2 (f : Fields)
  /-- ISUB2 (R102), opcode 0x47. -/
  | isub2 (f : Fields)
  /-- IMIN2 (R102), opcode 0x48. -/
  | imin2 (f : Fields)
  /-- IMAX2 (R102), opcode 0x49. -/
  | imax2 (f : Fields)
  /-- VACS2 (R103), opcode 0x4A. -/
  | vacs2 (f : Fields)
  /-- PACK2 (R104), opcode 0x4B. -/
  | pack2 (f : Fields)
  /-- UNPK2 (R104), opcode 0x4C. -/
  | unpk2 (f : Fields)
  /-- BDEC (R106), opcode 0x4D. -/
  | bdec (f : Fields)
  /-- BENC (R107), opcode 0x4E. -/
  | benc (f : Fields)
  /-- REQB (R109), opcode 0x4F. -/
  | reqb (f : Fields)
  /-- CBLD (R110), opcode 0x50. -/
  | cbld (f : Fields)
  /-- AMAX (R108), opcode 0x51. -/
  | amax (f : Fields)
  /-- SCL (R111), opcode 0x52. -/
  | scl (f : Fields)
  /-- NOP (R117), opcode 0x60. -/
  | nop (f : Fields)
  /-- BRA (R115), opcode 0x61. -/
  | bra (f : Fields)
  /-- BRX (R115), opcode 0x62. -/
  | brx (f : Fields)
  /-- BRZ (R116), opcode 0x63. -/
  | brz (f : Fields)
  /-- CALL (R115), opcode 0x64. -/
  | call (f : Fields)
  /-- RET (R115), opcode 0x65. -/
  | ret (f : Fields)
  /-- LOOP (R115), opcode 0x66. -/
  | loop (f : Fields)
  /-- EXIT (R121), opcode 0x67. -/
  | exit (f : Fields)
  /-- SPLIT (R119), opcode 0x68. -/
  | split (f : Fields)
  /-- FLIP (R119), opcode 0x69. -/
  | flip (f : Fields)
  /-- MERGE (R119), opcode 0x6A. -/
  | merge (f : Fields)
  /-- PAND (R122), opcode 0x6B. -/
  | pand (f : Fields)
  /-- POR (R122), opcode 0x6C. -/
  | por (f : Fields)
  /-- PXOR (R122), opcode 0x6D. -/
  | pxor (f : Fields)
  /-- PSET (R122), opcode 0x6E. -/
  | pset (f : Fields)
  /-- PMOV (R122), opcode 0x6F. -/
  | pmov (f : Fields)
  /-- YIELD (R123), opcode 0x70. -/
  | yield (f : Fields)
  /-- SLEEP (R123), opcode 0x71. -/
  | sleep (f : Fields)
  /-- GETSR (R124), opcode 0x72. -/
  | getsr (f : Fields)
  /-- SETSR (R125), opcode 0x73. -/
  | setsr (f : Fields)
  /-- TRAP (R126), opcode 0x74. -/
  | trap (f : Fields)
  /-- SYSC (R127), opcode 0x75. -/
  | sysc (f : Fields)
  /-- BKPT (R126), opcode 0x76. -/
  | bkpt (f : Fields)
  /-- ERET (R128), opcode 0x77. -/
  | eret (f : Fields)
  /-- SHFL (R130), opcode 0x80. -/
  | shfl (f : Fields)
  /-- BCAST (R130), opcode 0x81. -/
  | bcast (f : Fields)
  /-- VOTE (R131), opcode 0x82. -/
  | vote (f : Fields)
  /-- BALLOT (R131), opcode 0x83. -/
  | ballot (f : Fields)
  /-- MATCH (R131), opcode 0x84. -/
  | matchLanes (f : Fields)
  /-- GRED (R132), opcode 0x85. -/
  | gred (f : Fields)
  /-- GSCAN (R132), opcode 0x86. -/
  | gscan (f : Fields)
  /-- QXCH (R133), opcode 0x87. -/
  | qxch (f : Fields)
  /-- DDX (R134), opcode 0x88. -/
  | ddx (f : Fields)
  /-- DDY (R134), opcode 0x89. -/
  | ddy (f : Fields)
  /-- REGRP (R135), opcode 0x8A. -/
  | regrp (f : Fields)
  /-- LD (R156), opcode 0xA0. -/
  | ld (f : Fields)
  /-- ST (R159), opcode 0xA1. -/
  | st (f : Fields)
  /-- LDS (R156), opcode 0xA2. -/
  | lds (f : Fields)
  /-- STS (R159), opcode 0xA3. -/
  | sts (f : Fields)
  /-- LDK (R156), opcode 0xA4. -/
  | ldk (f : Fields)
  /-- ATOM (R157), opcode 0xA5. -/
  | atom (f : Fields)
  /-- RED (R157), opcode 0xA6. -/
  | red (f : Fields)
  /-- ATOM2 (R312), opcode 0xA7. -/
  | atom2 (f : Fields)
  /-- FENCE (R166), opcode 0xA8. -/
  | fence (f : Fields)
  /-- LOCK (R160), opcode 0xA9. -/
  | lock (f : Fields)
  /-- UNLOCK (R160), opcode 0xAA. -/
  | unlock (f : Fields)
  /-- PRF (R161), opcode 0xAB. -/
  | prf (f : Fields)
  /-- BARI (R168), opcode 0xAC. -/
  | bari (f : Fields)
  /-- BARA (R168), opcode 0xAD. -/
  | bara (f : Fields)
  /-- BARW (R168), opcode 0xAE. -/
  | barw (f : Fields)
  /-- RDCI (R314), opcode 0xAF. -/
  | rdci (f : Fields)
  /-- CLENT (R255), opcode 0xB0. -/
  | clent (f : Fields)
  /-- CLTRY (R255), opcode 0xB1. -/
  | cltry (f : Fields)
  /-- CLLV (R256), opcode 0xB2. -/
  | cllv (f : Fields)
  /-- CLABT (R256), opcode 0xB3. -/
  | clabt (f : Fields)
  /-- CLABT_RST (R256), opcode 0xB3. -/
  | clabtRst (f : Fields)
  /-- TDEF (R198), opcode 0xC0. -/
  | tdef (f : Fields)
  /-- TLD (R200), opcode 0xC1. -/
  | tld (f : Fields)
  /-- TST (R200), opcode 0xC2. -/
  | tst (f : Fields)
  /-- TSTAT (R199), opcode 0xC3. -/
  | tstat (f : Fields)
  /-- TREL (R199), opcode 0xC4. -/
  | trel (f : Fields)
  /-- MMA (R201), opcode 0xC5. -/
  | mma (f : Fields)
  /-- MMAQ (R202), opcode 0xC6. -/
  | mmaq (f : Fields)
  /-- LRMUL (R203), opcode 0xC7. -/
  | lrmul (f : Fields)
  /-- LRADD (R203), opcode 0xC8. -/
  | lradd (f : Fields)
  /-- LRC (R206), opcode 0xC9. -/
  | lrc (f : Fields)
  /-- LRDN (R204), opcode 0xCA. -/
  | lrdn (f : Fields)
  /-- LRFM (R203), opcode 0xCB. -/
  | lrfm (f : Fields)
  /-- MZERO (R204), opcode 0xCC. -/
  | mzero (f : Fields)
  /-- MTRN (R204), opcode 0xCD. -/
  | mtrn (f : Fields)
  /-- MSETP_CB (R205), opcode 0xCE. -/
  | msetpCb (f : Fields)
  /-- MSETP_RCAP (R205), opcode 0xCE. -/
  | msetpRcap (f : Fields)
  /-- PHRS (R231), opcode 0xCF. -/
  | phrs (f : Fields)
  /-- BSEAL (R232), opcode 0xD0. -/
  | bseal (f : Fields)
  /-- BWAIT (R232), opcode 0xD1. -/
  | bwait (f : Fields)
  /-- PADDR (R233), opcode 0xD2. -/
  | paddr (f : Fields)
  /-- PXFER (R234), opcode 0xD3. -/
  | pxfer (f : Fields)
  /-- PGATH (R218), opcode 0xD4. -/
  | pgath (f : Fields)
  /-- PSCAT (R218), opcode 0xD5. -/
  | pscat (f : Fields)
  /-- PLOOP (R235), opcode 0xD6. -/
  | ploop (f : Fields)
  /-- PQPSH (R234), opcode 0xD7. -/
  | pqpsh (f : Fields)
  /-- PARRV (R236), opcode 0xD8. -/
  | parrv (f : Fields)
  /-- PEND (R237), opcode 0xD9. -/
  | pend (f : Fields)
  /-- PCUR (R238), opcode 0xDA. -/
  | pcur (f : Fields)
  /-- PCUR_ST (R238), opcode 0xDA. -/
  | pcurSt (f : Fields)
  /-- VIEW (R284), opcode 0xDB. -/
  | view (f : Fields)
  /-- VSTAT (R285), opcode 0xDC. -/
  | vstat (f : Fields)
  /-- VCAN (R286), opcode 0xDD. -/
  | vcan (f : Fields)
  /-- TLBI_VA (R330), opcode 0xE0. -/
  | tlbiVa (f : Fields)
  /-- TLBI_ASID (R330), opcode 0xE0. -/
  | tlbiAsid (f : Fields)
  /-- TLBI_ALL (R330), opcode 0xE0. -/
  | tlbiAll (f : Fields)
  /-- TFENCE (R331), opcode 0xE1. -/
  | tfence (f : Fields)
  /-- PGMAP (R332), opcode 0xE2. -/
  | pgmap (f : Fields)
  /-- FBPOP (R333), opcode 0xE3. -/
  | fbpop (f : Fields)
  /-- LAUNCH (R371), opcode 0xE4. -/
  | launch (f : Fields)
  /-- JOIN (R372), opcode 0xE5. -/
  | join (f : Fields)
  /-- QCTL_STAT (R373), opcode 0xE6. -/
  | qctlStat (f : Fields)
  /-- QCTL_SETR (R373), opcode 0xE6. -/
  | qctlSetr (f : Fields)
  /-- QCTL_START (R373), opcode 0xE6. -/
  | qctlStart (f : Fields)
  /-- QCTL_STOP (R373), opcode 0xE6. -/
  | qctlStop (f : Fields)
  /-- CTXS_PART (R374), opcode 0xE7. -/
  | ctxsPart (f : Fields)
  /-- CTXS_FULL (R374), opcode 0xE7. -/
  | ctxsFull (f : Fields)
  /-- CTXS_REST (R374), opcode 0xE7. -/
  | ctxsRest (f : Fields)
  /-- CTXS_TERM (R374), opcode 0xE7. -/
  | ctxsTerm (f : Fields)
  /-- CTXS_RSM (R374), opcode 0xE7. -/
  | ctxsRsm (f : Fields)
  /-- NSIG (R391), opcode 0xE8. -/
  | nsig (f : Fields)
  /-- HALT (R375), opcode 0xE9. -/
  | halt (f : Fields)
  /-- REGISTER_RESULT_WRITE (R142). -/
  | registerResultWrite (a : Agent) (idx : Nat) (reg : Option Nat) (lanes : Mask)
  /-- DEP_PARK (R142). -/
  | depPark (a : Agent)
  /-- SLEEP_EXPIRY (R123). -/
  | sleepExpiry (a : Agent)
  /-- GROUP_SWAP (R146). -/
  | groupSwap (core slice : Nat)
  /-- SWAP_COMPLETE (R145). -/
  | swapComplete (core slice : Nat)
  /-- EVICTED_GROUP_RETURN (R171). -/
  | evictedGroupReturn (a : Agent)
  /-- PROGRESS_WINDOW_EXPIRY (R148). -/
  | progressWindowExpiry (core slice : Nat)
  /-- BARRIER_RELEASE (R168). -/
  | barrierRelease (a : Agent)
  /-- TILE_WAIT_RELEASE (R182). -/
  | tileWaitRelease (a : Agent)
  /-- QUEUE_PORT_WAKE (R222). -/
  | queuePortWake (a : Agent)
  /-- MATRIX_GRANT (R189). -/
  | matrixGrant (core : Nat)
  /-- MATRIX_COMPLETE (R181). -/
  | matrixComplete (core : Nat)
  /-- PHRASE_REQUEST_START (R208). -/
  | phraseRequestStart (core : Nat)
  /-- RANGE_LOCK_REGISTER (R216). -/
  | rangeLockRegister (core ctx slot : Nat)
  /-- PHRASE_CHUNK (R215). -/
  | phraseChunk (core ctx slot : Nat)
  /-- PHRASE_TRANSFER_COMPLETE (R215). -/
  | phraseTransferComplete (core ctx slot : Nat)
  /-- PHRASE_CONTEXT_RESUME (R229). -/
  | phraseContextResume (core ctx : Nat)
  /-- BWAIT_RELEASE (R232). -/
  | bwaitRelease (a : Agent)
  /-- CLAUSE_REQUEST (R254). -/
  | clauseRequest (a : Agent) (lane : Nat)
  /-- DEADLOCK_WALK (R257). -/
  | deadlockWalk (a : Agent) (lane : Nat)
  /-- LEVEL_UPDATE (R263). -/
  | levelUpdate (die : Nat)
  /-- LEAVE_GRANT (R264). -/
  | leaveGrant (die : Nat) (hold : Bool)
  /-- SLEW_HOLD_END (R366). -/
  | slewHoldEnd (die : Nat)
  /-- ENERGY_SETTLEMENT (R364). -/
  | energySettlement (die : Nat) (asid : BitVec 16)
  /-- CORE_GATE (R248). -/
  | coreGate (core : Nat)
  /-- CORE_UNGATE (R248). -/
  | coreUngate (core : Nat)
  /-- REMOTE_SCRATCHPAD_ACCESS (R245). -/
  | remoteScratchpadAccess (a : Agent)
  /-- VIEW_DICE (R272). -/
  | viewDice (die : Nat)
  /-- VIEW_ROW_SAMPLE (R288). -/
  | viewRowSample (die : Nat)
  /-- VIEW_ARRIVAL (R284). -/
  | viewArrival (view : Nat)
  /-- VIEW_KILL (R280). -/
  | viewKill (view : Nat)
  /-- VIEW_RECORD_WAKE (R284). -/
  | viewRecordWake (a : Agent)
  /-- BLOCK_PLACEMENT (R346). -/
  | blockPlacement (grid core base : Nat)
  /-- BLOCK_END (R170). -/
  | blockEnd (block : Nat)
  /-- GRID_COMPLETE (R347). -/
  | gridComplete (grid : Nat)
  /-- JOIN_RELEASE (R372). -/
  | joinRelease (a : Agent)
  /-- HALT_WAKE (R375). -/
  | haltWake (a : Agent)
  /-- FABRIC_WRITE (R386). -/
  | fabricWrite (f : Frame)
  /-- FABRIC_READ_REQUEST (R385). -/
  | fabricReadRequest (f : Frame)
  /-- FABRIC_READ_DATA (R387). -/
  | fabricReadData (f : Frame)
  /-- FABRIC_SIGNAL_SET (R391). -/
  | fabricSignalSet (f : Frame)
  /-- FABRIC_SIGNAL_ADD (R391). -/
  | fabricSignalAdd (f : Frame)
  /-- FABRIC_ACK (R383). -/
  | fabricAck (f : Frame)
  /-- FABRIC_NAK (R383). -/
  | fabricNak (f : Frame)
  /-- RETRANSMIT_TIMEOUT (R383). -/
  | retransmitTimeout (die pkg : Nat)
  /-- PORT_LINK_CHANGE (R388). -/
  | portLinkChange (port : Nat) (up : Bool) (media : BitVec 3)
  /-- KERNEL_RING_RECEIVE (R395). -/
  | kernelRingReceive (port : Nat) (data : List Byte) (good : Bool)
  /-- KERNEL_RING_TRANSMIT (R395). -/
  | kernelRingTransmit (port : Nat)
  /-- STORAGE_DEVICE_REQUEST (R394). -/
  | storageDeviceRequest (write : Bool) (addr : Dword) (len : Nat) (data : List Byte)
  /-- PCIE_LINK_CHANGE (R393). -/
  | pcieLinkChange (width speed : BitVec 4)
  /-- ATTCMD_WRITE (R369). -/
  | attcmdWrite (v : Dword)
  /-- KRING_WRITE (R395). -/
  | kringWrite (port : Nat) (v : Dword)
  /-- INTPEND_WRITE (R340). -/
  | intpendWrite (die : Nat) (v : Dword)
  /-- FBSTAT_WRITE (R324). -/
  | fbstatWrite (die : Nat) (v : Dword)
  /-- PACFG_WRITE (R265). -/
  | pacfgWrite (die : Nat) (v : Dword)
  /-- VIEWCFG_WRITE (R277). -/
  | viewcfgWrite (die : Nat) (v : Dword)
  /-- FTRING_WRITE (R321). -/
  | ftringWrite (die : Nat) (v : Dword)
  /-- QUEUE_CONFIG_WRITE (R349). -/
  | queueConfigWrite (q : Nat) (cfg : Bool) (v : Dword)
  /-- QCACHE_WRITE (R301). -/
  | qcacheWrite (q : Nat) (v : Dword)
  /-- FABCFG_WRITE (R380). -/
  | fabcfgWrite (v : Dword)
  /-- REGISTER_WRITE (R339). -/
  | registerWrite (die off : Nat) (v : Dword)
  /-- RESERVED_OPCODE (R30). -/
  | reservedOpcode (w : BitVec 96)
  /-- ALLOWANCE_REFILL (R262). -/
  | allowanceRefill (die : Nat)
  /-- PACKET_COMPLETION (R356). -/
  | packetCompletion (q idx : Nat)
  /-- FABRIC_FRAME_LOST (R382). -/
  | fabricFrameLost (f : Frame)
  /-- BOOT (R367). -/
  | boot
  /-- SC_PACKAGE_MARK (R307). -/
  | scPackageMark
  /-- FIRMWARE_STEP (R354). -/
  | firmwareStep
  /-- ATTESTATION_QUOTE (R369). -/
  | attestationQuote
  deriving DecidableEq, Repr

end Sys2Proof
end

