-- ==== Sys2Proof/Machine/Legality.lean ====
section
/-!
DEFINITION. Which words are legal: operand codes (R10 to R13), the fields that each entry accepts, the hints (R23, R25,
R27) and the profiles of the streams (R28, R29). A word that breaks one of these traps `ILLOP` when it has an active lane.
-/
namespace Sys2Proof

/-! ### Operand codes -/

/-- The 11-bit code of an operand (R10). -/
def opdCode : Opd → BitVec 11
  | .v n => 0#1 ++ n
  | .s n => 0b100#3 ++ n
  | .q n => 0b1010000#7 ++ n
  | .t n => 0b10101#5 ++ n
  | .p n => 0b1100000#7 ++ n
  | .k n => 0b11001000#8 ++ n
  | .sr n => 0b11010#5 ++ n
  | .xv n => 0b11011000#8 ++ n
  | .xs n => 0b11011001#8 ++ n
  | .immS => 0x700#11
  | .immZ => 0x701#11
  | .absent => 0x7FF#11

/-- The numbers that R11 gives to special registers. -/
def srKnown (n : BitVec 6) : Bool :=
  n.ule 0x0C#6 || (0x10#6).ule n && n.ule 0x13#6

/-- The operand that a code names; none for a reserved code (R10, R11). -/
def opdOf (c : BitVec 11) : Option Opd :=
  if c.getLsbD 10 = false then some (.v (c.setWidth 10))
  else if c.extractLsb' 8 2 = 0#2 then some (.s (c.setWidth 8))
  else if c.extractLsb' 4 6 = 0b010000#6 then some (.q (c.setWidth 4))
  else if c.extractLsb' 6 4 = 0b0101#4 then some (.t (c.setWidth 6))
  else if c.extractLsb' 4 6 = 0b100000#6 then some (.p (c.setWidth 4))
  else if c.extractLsb' 3 7 = 0b1001000#7 then some (.k (c.setWidth 3))
  else if c.extractLsb' 6 4 = 0b1010#4 then
    if srKnown (c.setWidth 6) then some (.sr (c.setWidth 6)) else none
  else if c.extractLsb' 3 7 = 0b1011000#7 then some (.xv (c.setWidth 3))
  else if c.extractLsb' 3 7 = 0b1011001#7 then some (.xs (c.setWidth 3))
  else if c = 0x700#11 then some .immS
  else if c = 0x701#11 then some .immZ
  else if c = 0x7FF#11 then some .absent
  else none

/-- A vector register, or the supervisor vector that stands for one (R12). -/
def Opd.isV : Opd → Bool
  | .v _ | .xv _ => true
  | _ => false

/-- A scalar register, or the supervisor scalar that stands for one (R12). -/
def Opd.isS : Opd → Bool
  | .s _ | .xs _ => true
  | _ => false

def Opd.isQ : Opd → Bool
  | .q _ => true
  | _ => false

def Opd.isT : Opd → Bool
  | .t _ => true
  | _ => false

def Opd.isP : Opd → Bool
  | .p _ => true
  | _ => false

def Opd.isK : Opd → Bool
  | .k _ => true
  | _ => false

def Opd.isSr : Opd → Bool
  | .sr _ => true
  | _ => false

def Opd.isImm : Opd → Bool
  | .immS | .immZ => true
  | _ => false

def Opd.isAbsent : Opd → Bool
  | .absent => true
  | _ => false

/-- A supervisor register. -/
def Opd.isX : Opd → Bool
  | .xv _ | .xs _ => true
  | _ => false

/-- The register number. -/
def Opd.num : Opd → Nat
  | .v n => n.toNat
  | .s n => n.toNat
  | .q n => n.toNat
  | .t n => n.toNat
  | .p n => n.toNat
  | .k n => n.toNat
  | .sr n => n.toNat
  | .xv n => n.toNat
  | .xs n => n.toNat
  | .immS | .immZ | .absent => 0

/-- A run of `k` registers from this one does not pass `XV7` or `XS7` (R12). -/
def Opd.runOk (o : Opd) (k : Nat) : Bool :=
  !o.isX || decide (o.num + k ≤ 8)

/-- A pair of vector registers starts at an even number; scalars hold 64 bits alone (R12). -/
def Opd.pairOk (o : Opd) : Bool :=
  !o.isV || decide (o.num % 2 = 0) && o.runOk 2

/-- The operand may hold a value of width `w`. -/
def Opd.widthOk (o : Opd) (w : Nat) : Bool :=
  w ≠ 64 || o.pairOk

/-! ### Types and fields of a word -/

/-- The integer types (R15, R44). -/
inductive IntTy where
  | i32 | n32 | i64 | n64 | i16 | n16 | i8 | n8
  deriving DecidableEq, Repr

/-- The integer type of a 3-bit code (R15). -/
def intTy (c : Nat) : IntTy :=
  match c with
  | 0 => .i32
  | 1 => .n32
  | 2 => .i64
  | 3 => .n64
  | 4 => .i16
  | 5 => .n16
  | 6 => .i8
  | _ => .n8

def IntTy.width : IntTy → Nat
  | .i32 | .n32 => 32
  | .i64 | .n64 => 64
  | .i16 | .n16 => 16
  | .i8 | .n8 => 8

def IntTy.signed : IntTy → Bool
  | .i32 | .i64 | .i16 | .i8 => true
  | _ => false

/-- The floating-point formats (R36). -/
inductive FFmt where
  | f32 | bf16 | f16 | f8e | f8p
  deriving DecidableEq, Repr

/-- The format of a 3-bit code (R15). -/
def fFmt (c : Nat) : FFmt :=
  match c with
  | 0 => .f32
  | 1 => .bf16
  | 2 => .f16
  | 3 => .f8e
  | _ => .f8p

def FFmt.bits : FFmt → Nat
  | .f32 => 32
  | .bf16 | .f16 => 16
  | .f8e | .f8p => 8

/-- The rounding modes (R40). -/
inductive RMode where
  | rn | rz | rp | rm
  deriving DecidableEq, Repr

def rMode (c : Nat) : RMode :=
  match c with
  | 0 => .rn
  | 1 => .rz
  | 2 => .rp
  | _ => .rm

/-- `MOD`[5:3]. -/
def Fields.ty (f : Fields) : Nat := (f.mod.extractLsb' 3 3).toNat

/-- `MOD`[2:1], the rounding field of the floating-point classes. -/
def Fields.rnd (f : Fields) : Nat := (f.mod.extractLsb' 1 2).toNat

/-- `MOD`[2:0], the size of the memory class. -/
def Fields.size (f : Fields) : Nat := (f.mod.extractLsb' 0 3).toNat

/-- `MOD`[0], `.FZ` of the floating-point classes. -/
def Fields.fz (f : Fields) : Bool := f.mod.getLsbD 0

/-- `MOD`[2], `.SAT` of the integer class. -/
def Fields.sat (f : Fields) : Bool := f.mod.getLsbD 2

def Fields.ity (f : Fields) : IntTy := intTy f.ty
def Fields.fty (f : Fields) : FFmt := fFmt f.ty
def Fields.mode (f : Fields) : RMode := rMode f.rnd
def Fields.fnn (f : Fields) : Nat := f.fn.toNat

/-- Bits [lo + n - 1 : lo] of `X`. -/
def Fields.xb (f : Fields) (lo n : Nat) : Nat := (f.x.toNat >>> lo) % 2 ^ n

/-- The third source operand of the three-source form (R13). -/
def Fields.c (f : Fields) : Opd := (opdOf (f.x.setWidth 11)).getD .absent

/-! ### Forms of `X` (R13) -/

/-- An immediate of width `w` (R12); a floating-point one stands under code 0x701. -/
def immOk (w : Nat) (flt : Bool) (o : Opd) (x : BitVec 32) : Bool :=
  match o with
  | .immS => !flt && (decide (w ≥ 32) || decide ((x.setWidth w).signExtend 32 = x))
  | .immZ => decide (w ≥ 32) || decide ((x.setWidth w).setWidth 32 = x)
  | _ => true

/-- At most one immediate among `D`, `A` and `B` (R12). -/
def oneImm (f : Fields) : Bool :=
  !(f.a.isImm && f.b.isImm) && !(f.a.isImm && f.d.isImm) && !(f.b.isImm && f.d.isImm)

/-- The immediate form: `X` is the immediate, or zero where there is none. -/
def xImm (f : Fields) : Bool :=
  oneImm f && (f.a.isImm || f.b.isImm || f.d.isImm || f.x = 0#32)

def xUnused (f : Fields) : Bool :=
  f.x = 0#32 && !f.a.isImm && !f.b.isImm && !f.d.isImm

/-- No immediate code stands in a word whose `X` carries something else. -/
def noImm (f : Fields) : Bool := !f.a.isImm && !f.b.isImm && !f.d.isImm

/-- The three-source form with a third operand that `ok` accepts. -/
def xThree (f : Fields) (ok : Opd → Bool) : Bool :=
  noImm f && f.x.extractLsb' 11 21 = 0#21 &&
    match opdOf (f.x.setWidth 11) with
    | some o => !o.isImm && ok o
    | none => false

/-- The memory form (R14): base, index and scale. -/
def xMem (f : Fields) : Bool :=
  noImm f && (f.a.isS || f.a.isV && f.a.pairOk || f.a.isAbsent) && (f.b.isV || f.b.isS || f.b.isAbsent) &&
    decide (f.xb 29 3 ≤ 4) && (!f.b.isAbsent || f.xb 29 3 = 0)

/-- The target form and the signed-offset form take any `X`. -/
def xAny (f : Fields) : Bool := noImm f

/-- The extension form with the bits at and above `n` zero. -/
def xExt (f : Fields) (n : Nat) : Bool := noImm f && decide (f.x.toNat < 2 ^ n)

/-! ### Operand kinds of the register classes (R79, R80) -/

/-- A source of the register classes: vector, scalar, queue port or immediate. -/
def srcOk (o : Opd) : Bool := o.isV || o.isS || o.isQ || o.isImm

/-- A third source of the register classes. -/
def src3Ok (o : Opd) : Bool := o.isV || o.isS || o.isQ

/-- With a scalar destination every source is a scalar, an immediate or absent (R80). -/
def scalarOk (f : Fields) (three : Bool) : Bool :=
  !f.d.isS || !f.a.isV && !f.a.isQ && !f.a.isP && !f.b.isV && !f.b.isQ && !f.b.isP &&
    (!three || !f.c.isV && !f.c.isQ && !f.c.isP)

/-- The integer class's `MOD`: [1:0] zero and `.SAT` only where allowed (R15, R81). -/
def intModOk (f : Fields) (sat : Bool) : Bool :=
  f.mod.extractLsb' 0 2 = 0#2 && (sat || !f.sat)

/-- Two-source integer instruction (R83); `bw` is the width at which B is read. -/
def intBin (f : Fields) (sat : Bool) (bw : Nat) : Bool :=
  f.fn = 0#4 && intModOk f sat && (f.d.isV || f.d.isS) && srcOk f.a && srcOk f.b && xImm f && scalarOk f false &&
    f.d.widthOk f.ity.width && f.a.widthOk f.ity.width && f.b.widthOk bw &&
    immOk f.ity.width false f.a f.x && immOk bw false f.b f.x

/-- One-source integer instruction (R83). -/
def intUn (f : Fields) (sat : Bool) : Bool :=
  f.fn = 0#4 && intModOk f sat && (f.d.isV || f.d.isS) && srcOk f.a && f.b.isAbsent && xImm f && scalarOk f false &&
    f.d.widthOk f.ity.width && f.a.widthOk f.ity.width && immOk f.ity.width false f.a f.x

/-- Three-source integer instruction (R83); widths of B, and of D and C. -/
def intTri (f : Fields) (sat : Bool) (bw dw : Nat) : Bool :=
  f.fn = 0#4 && intModOk f sat && (f.d.isV || f.d.isS) && src3Ok f.a && src3Ok f.b && xThree f src3Ok &&
    scalarOk f true && f.d.widthOk dw && f.a.widthOk f.ity.width && f.b.widthOk bw && f.c.widthOk dw

/-- The floating-point `MOD`: a type of `tys` and a rounding other than 00 only where used (R92). -/
def fltModOk (f : Fields) (tys : List Nat) (rnd : Bool) : Bool :=
  tys.contains f.ty && (rnd || f.rnd = 0)

/-- Two-source floating-point instruction (R92). -/
def fltBin (f : Fields) (rnd : Bool) : Bool :=
  f.fn = 0#4 && fltModOk f [0, 1, 2] rnd && (f.d.isV || f.d.isS) && srcOk f.a && srcOk f.b && xImm f && scalarOk f false &&
    immOk f.fty.bits true f.a f.x && immOk f.fty.bits true f.b f.x

/-- One-source floating-point instruction (R92). -/
def fltUn (f : Fields) (tys : List Nat) (rnd : Bool) : Bool :=
  f.fn = 0#4 && fltModOk f tys rnd && (f.d.isV || f.d.isS) && srcOk f.a && f.b.isAbsent && xImm f && scalarOk f false &&
    immOk f.fty.bits true f.a f.x

/-- Two-source packed instruction on 32-bit words (R101, R102). An immediate that stands for a packed word is 32 bits under either
code, also where its halves are `BF16` or `F16`: R12 does not say whether such a word is a floating-point immediate (DESIGN CHOICE,
notes/assumptions/87.md; `UNPK2` likewise). -/
def packBin (f : Fields) : Bool :=
  (f.d.isV || f.d.isS) && srcOk f.a && srcOk f.b && xImm f && scalarOk f false

/-- The types and rounding of the packed integer instructions (R102). -/
def packIntMod (f : Fields) : Bool := (f.ty = 5 || f.ty = 6) && f.rnd = 0

/-- Element capacity of a block format code of `MOD`[5:3] or header byte 0 (R51). -/
def blkCap (c : Nat) : Nat :=
  match c with
  | 1 | 2 => 30
  | 3 | 4 | 6 => 60
  | _ => 120

/-- Header byte 2 lies in the range of its format (R50). -/
def byte2Ok (c b : Nat) : Bool :=
  match c with
  | 5 => decide (b ≤ 7)
  | 6 => true
  | 7 => decide (b ≤ 15)
  | _ => b = 0

/-- `BENC` and `AMAX` (R107, R108). -/
def encOk (f : Fields) (rnd : Bool) : Bool :=
  f.fn = 0#4 && f.ty ≠ 0 && (rnd || f.rnd = 0) && (f.ty ≠ 5 || f.rnd = 0) && f.d.isV && f.a.isV && f.b.isAbsent &&
    xExt f 16 && decide (f.xb 0 8 ≤ blkCap f.ty) && byte2Ok f.ty (f.xb 8 8) &&
    f.a.runOk (((if f.xb 0 8 = 0 then blkCap f.ty else f.xb 0 8) + 15) / 16)

/-! ### Memory class (R152, R153) -/

/-- The scope code of `MOD`[5:3] is one of the five (R15). -/
def scopeOk (f : Fields) : Bool := decide (f.ty ≤ 4)

/-- A data register of a size code (R153). -/
def dataOk (o : Opd) (size : Nat) : Bool :=
  match size with
  | 3 => o.isS || o.isV && o.pairOk
  | 4 => o.isV && o.num % 4 = 0 && o.runOk 4
  | _ => o.isS || o.isV

/-- A scalar destination or scalar data takes a scalar address (R153). -/
def oneAddr (f : Fields) : Bool := !f.d.isS || !f.a.isV && !f.b.isV

/-- `LD` and `LDS` (R152). -/
def loadOk (f : Fields) (scalar : Bool) : Bool :=
  scopeOk f && decide (f.size ≤ 4) && !f.fn.getLsbD 3 && f.fn.extractLsb' 0 2 ≠ 2#2 &&
    (!f.fn.getLsbD 2 || decide (f.size ≤ 2)) && dataOk f.d f.size && (scalar || f.d.isV) && xMem f && oneAddr f

/-- `ST` and `STS` (R152). -/
def storeOk (f : Fields) : Bool :=
  scopeOk f && decide (f.size ≤ 4) && f.fn.extractLsb' 2 2 = 0#2 && f.fn.extractLsb' 0 2 ≠ 1#2 && dataOk f.d f.size &&
    xMem f && oneAddr f

/-- `[base+off]` of the atomics (R157, R311). -/
def atomAddr (f : Fields) : Bool := noImm f && (f.a.isS || f.a.isV && f.a.pairOk) && f.xb 29 3 = 0

/-- `ATOM` and `RED` (R157). -/
def atomOk (f : Fields) (red : Bool) : Bool :=
  scopeOk f && (f.size = 2 || f.size = 3) && f.fn.extractLsb' 2 2 = 0#2 && atomAddr f && (f.b.isV || f.b.isS) &&
    f.b.widthOk (if f.size = 3 then 64 else 32) && decide (f.xb 24 5 ≤ 0xB) && !(f.xb 24 5 = 0xB && f.size = 3) &&
    if red then f.d.isAbsent && f.xb 24 5 ≠ 9 && !f.fn.getLsbD 0
    else f.d.isV && f.d.widthOk (if f.size = 3 then 64 else 32)

/-- `LOCK`, `UNLOCK`, `PRF` (R152). -/
def lineOk (f : Fields) (d : Bool) : Bool :=
  f.mod = 0#6 && !f.fn.getLsbD 3 && f.fn.extractLsb' 0 2 = 0#2 && (if d then f.d.isV else f.d.isAbsent) && xMem f

/-! ### The other classes -/

def isSI (o : Opd) : Bool := o.isS || o.isImm

/-- A clause key: an even pair, a scalar or an immediate (R253). -/
def keyOk (o : Opd) : Bool := o.isV && o.pairOk || o.isS || o.isImm

/-- A clause sequence (R253). -/
def seqOk (o : Opd) : Bool := o.isV || o.isS || o.isImm

/-- A scalar or an even vector pair. -/
def sPair (o : Opd) : Bool := o.isS || o.isV && o.pairOk

/-- All three operand fields are absent. -/
def noOpd (f : Fields) : Bool := f.d.isAbsent && f.a.isAbsent && f.b.isAbsent

/-- An endpoint operand of a kind code (R213). -/
def endOk (o : Opd) (kind : Nat) : Bool := if kind = 2 then o.isT else o.isS

/-- The float operations of `GRED` and `GSCAN` (R132). -/
def redMod (f : Fields) : Bool :=
  match f.fnn with
  | 0 => f.mod.extractLsb' 0 2 = 0#2
  | 1 | 2 | 3 | 4 | 5 => f.mod.extractLsb' 0 3 = 0#3
  | 6 => decide (f.ty ≤ 2)
  | 7 | 8 => decide (f.ty ≤ 2) && f.rnd = 0
  | _ => false

/-- The width at which `GRED` and `GSCAN` read their operand. -/
def redWidth (f : Fields) : Nat := if f.fnn ≤ 5 then f.ity.width else 32

/-- The fields that the entry of opcode `opc` accepts, hints aside. `SCL` (0x52) accepts an `S` destination: it is taken for none of
the block instructions of R80 (DESIGN CHOICE, notes/assumptions/95.md). -/
def entryOk (opc : Nat) (f : Fields) : Bool :=
  match opc with
  | 0x00 | 0x01 | 0x02 => intBin f true f.ity.width
  | 0x03 => intBin f false f.ity.width
  | 0x04 => intTri f true f.ity.width f.ity.width
  | 0x05 => decide (f.ty ≤ 1) && intTri f false 32 64 && !f.c.isQ
  | 0x06 | 0x07 => f.ity.signed && intUn f true
  | 0x08 | 0x09 => intBin f false f.ity.width
  | 0x0A => intTri f true f.ity.width f.ity.width
  | 0x0B | 0x0C | 0x0D | 0x0E | 0x0F | 0x10 | 0x11 | 0x12 => intBin f false f.ity.width
  | 0x13 => intBin f false 32
  | 0x14 => intTri f false 32 f.ity.width
  | 0x15 | 0x16 | 0x17 | 0x18 => intUn f false
  | 0x19 => decide (f.ty ≤ 1) && intTri f false 32 32
  | 0x1A =>
    decide (f.fnn ≤ 5) && intModOk f false && f.d.isP && srcOk f.a && srcOk f.b && xImm f && f.a.widthOk f.ity.width &&
      f.b.widthOk f.ity.width && immOk f.ity.width false f.a f.x && immOk f.ity.width false f.b f.x
  | 0x1B =>
    f.fn = 0#4 && intModOk f false && (f.d.isV || f.d.isS) && src3Ok f.a && src3Ok f.b && xThree f Opd.isP &&
      scalarOk f true && f.d.widthOk f.ity.width && f.a.widthOk f.ity.width && f.b.widthOk f.ity.width
  | 0x1C =>
    f.fn = 0#4 && intModOk f false && (f.d.isV || f.d.isS || f.d.isP) && (srcOk f.a || f.a.isP) && f.b.isAbsent &&
      xImm f && scalarOk f false && f.d.widthOk f.ity.width && f.a.widthOk f.ity.width && immOk f.ity.width false f.a f.x
  | 0x1D =>
    f.mod.extractLsb' 0 3 = 0#3 && (f.d.isV || f.d.isS) && f.a = .immZ && f.b.isAbsent &&
      (decide (f.ty ≤ 1) && f.fn = 0#4 || (f.ty = 2 || f.ty = 3) && decide (f.fnn ≤ 1)) && f.d.widthOk f.ity.width
  | 0x1E =>
    f.fn = 0#4 && (f.ty = 2 || f.ty = 3) && f.mod.extractLsb' 0 3 = 0#3 && sPair f.d && xMem f && oneAddr f
  | 0x1F => intTri f false f.ity.width f.ity.width
  | 0x20 | 0x21 | 0x22 | 0x28 => fltBin f true
  | 0x23 =>
    f.fn = 0#4 && fltModOk f [0, 1, 2] true && (f.d.isV || f.d.isS) && src3Ok f.a && src3Ok f.b && xThree f src3Ok &&
      scalarOk f true
  | 0x24 | 0x25 => fltBin f false
  | 0x26 =>
    decide (f.fnn ≤ 7) && fltModOk f [0, 1, 2] false && f.d.isP && srcOk f.a && srcOk f.b && xImm f &&
      immOk f.fty.bits true f.a f.x && immOk f.fty.bits true f.b f.x
  | 0x27 => !f.fz && fltUn f [0, 1, 2, 3, 4] false
  | 0x29 | 0x30 => fltUn f [0, 1, 2] true
  | 0x2A | 0x2B | 0x2C | 0x2D | 0x2E | 0x2F => fltUn f [0, 1, 2] false
  | 0x31 =>
    decide (f.ty ≤ 4) && decide (f.fnn ≤ 4) && (f.d.isV || f.d.isS) && srcOk f.a && f.b.isAbsent && xImm f &&
      scalarOk f false && immOk (fFmt f.fnn).bits true f.a f.x
  | 0x32 =>
    decide (f.ty ≤ 4) && decide (f.fnn ≤ 7) && (f.d.isV || f.d.isS) && f.d.widthOk (intTy f.fnn).width && srcOk f.a &&
      f.b.isAbsent && xImm f && scalarOk f false && immOk f.fty.bits true f.a f.x
  | 0x33 =>
    decide (f.ty ≤ 4) && decide (f.fnn ≤ 7) && (f.d.isV || f.d.isS) && f.a.widthOk (intTy f.fnn).width && srcOk f.a &&
      f.b.isAbsent && xImm f && scalarOk f false && immOk (intTy f.fnn).width false f.a f.x
  | 0x34 =>
    f.fn = 0#4 && (f.ty = 1 || f.ty = 2) && (f.d.isV || f.d.isS) && src3Ok f.a && src3Ok f.b && xThree f src3Ok &&
      scalarOk f true
  | 0x40 | 0x41 | 0x42 => f.fn = 0#4 && fltModOk f [1, 2] true && packBin f
  | 0x43 =>
    f.fn = 0#4 && fltModOk f [1, 2] true && (f.d.isV || f.d.isS) && src3Ok f.a && src3Ok f.b && xThree f src3Ok &&
      scalarOk f true
  | 0x44 | 0x45 => f.fn = 0#4 && fltModOk f [1, 2] false && packBin f
  | 0x46 | 0x47 => decide (f.fnn ≤ 3) && packIntMod f && packBin f
  | 0x48 | 0x49 => (f.fn = 0#4 || f.fn = 2#4) && packIntMod f && packBin f
  | 0x4A => !f.fn.getLsbD 0 && packIntMod f && f.d.isV && src3Ok f.a && src3Ok f.b && xThree f src3Ok
  | 0x4B =>
    f.fn = 0#4 && packBin f && ((f.ty = 1 || f.ty = 2) && immOk 32 true f.a f.x && immOk 32 true f.b f.x || packIntMod f)
  | 0x4C =>
    decide (f.fnn ≤ 1) && (f.ty = 1 || f.ty = 2 || f.ty = 5 || f.ty = 6) && f.rnd = 0 && f.d.isV && srcOk f.a &&
      f.b.isAbsent && xImm f
  | 0x4D => f.fn = 0#4 && fltModOk f [0, 1, 2] true && f.d.isV && f.a.isV && (f.b.isV || f.b.isS || f.b.isImm) && xImm f
  | 0x4E => encOk f true
  | 0x4F => f.fn = 0#4 && f.ty = 0 && f.d.isV && f.a.isV && isSI f.b && xImm f
  | 0x50 => f.fn = 0#4 && f.mod = 0#6 && f.d.isK && f.a.isV && f.b.isAbsent && xUnused f
  | 0x51 => encOk f false
  | 0x52 =>
    f.fn = 0#4 && fltModOk f [0, 1, 2] true && (f.d.isV || f.d.isS) && srcOk f.a && (f.b.isV || isSI f.b) && xImm f &&
      scalarOk f false && immOk f.fty.bits true f.a f.x
  | 0x60 | 0x70 | 0x77 => f.fn = 0#4 && f.mod = 0#6 && noOpd f && xUnused f
  | 0x61 => f.fn = 0#4 && f.mod = 0#6 && noOpd f
  | 0x62 => f.fn = 0#4 && f.mod = 0#6 && f.d.isAbsent && f.a.isS && f.b.isAbsent
  | 0x63 =>
    f.mod = 0#6 && f.d.isAbsent && f.b.isAbsent && (f.a.isP && decide (f.fnn ≤ 1) || f.a.isS && f.fn = 0#4)
  | 0x64 => f.mod = 0#6 && f.d.isS && f.b.isAbsent && (f.fn = 0#4 && f.a.isAbsent || f.fn = 1#4 && f.a.isS)
  | 0x65 => f.fn = 0#4 && f.mod = 0#6 && f.d.isAbsent && f.a.isS && f.b.isAbsent && xUnused f
  | 0x66 => f.fn = 0#4 && f.mod = 0#6 && f.d.isS && f.a.isAbsent && f.b.isAbsent
  | 0x67 =>
    f.mod = 0#6 && f.d.isAbsent && f.b.isAbsent &&
      (f.fn = 0#4 && f.a.isAbsent && f.x = 0#32 || f.fn = 1#4 && f.a.isS)
  | 0x68 => f.fn = 0#4 && f.mod = 0#6 && f.d.isS && f.a.isP && f.b.isAbsent && !f.gn && f.gp = 15#4
  | 0x69 => f.fn = 0#4 && f.mod = 0#6 && f.d.isAbsent && f.a.isS && f.b.isAbsent && !f.gn && f.gp = 15#4
  | 0x6A => f.fn = 0#4 && f.mod = 0#6 && f.d.isAbsent && f.a.isS && f.b.isAbsent && xUnused f && !f.gn && f.gp = 15#4
  | 0x6B | 0x6C | 0x6D => decide (f.fnn ≤ 3) && f.mod = 0#6 && f.d.isP && f.a.isP && f.b.isP && xUnused f
  | 0x6E => f.fn = 0#4 && f.mod = 0#6 && f.d.isP && isSI f.a && f.b.isAbsent && xImm f
  | 0x6F => f.fn = 0#4 && f.mod = 0#6 && f.d.isS && f.a.isP && f.b.isAbsent && xUnused f
  | 0x71 => f.fn = 0#4 && f.mod = 0#6 && f.d.isAbsent && isSI f.a && f.b.isAbsent && xImm f
  | 0x72 => f.fn = 0#4 && f.mod = 0#6 && (f.d.isV || f.d.isS) && f.a.isSr && f.b.isAbsent && xUnused f
  | 0x73 => f.fn = 0#4 && f.mod = 0#6 && f.d.isSr && isSI f.a && f.b.isAbsent && xImm f
  | 0x74 | 0x76 => f.fn = 0#4 && f.mod = 0#6 && noOpd f && xExt f 16
  | 0x75 => f.mod = 0#6 && f.d.isV && f.d.pairOk && f.a.isV && f.a.runOk 8 && f.b.isAbsent && xExt f 16
  | 0x80 => decide (f.fnn ≤ 3) && f.mod = 0#6 && f.d.isV && f.a.isV && (f.b.isV || isSI f.b) && xImm f
  | 0x81 => f.fn = 0#4 && f.mod = 0#6 && (f.d.isV || f.d.isS) && f.a.isV && isSI f.b && xImm f
  | 0x82 =>
    decide (f.fnn ≤ 5) && f.mod = 0#6 && f.d.isP && f.a.isP && (if f.fnn = 5 then isSI f.b else f.b.isAbsent) && xImm f
  | 0x83 => decide (f.fnn ≤ 1) && f.mod = 0#6 && (f.d.isV || f.d.isS) && f.a.isP && f.b.isAbsent && xUnused f
  | 0x84 =>
    decide (f.fnn ≤ 1) && (f.ty = 0 || f.ty = 2) && f.size = 0 && f.d.isV && f.a.isV && f.b.isAbsent && xUnused f &&
      f.a.widthOk f.ity.width
  | 0x85 =>
    redMod f && (f.d.isV || f.d.isS) && f.a.isV && f.b.isAbsent && xUnused f && f.a.widthOk (redWidth f) &&
      f.d.widthOk (redWidth f)
  | 0x86 =>
    redMod f && f.d.isV && f.a.isV && f.b.isAbsent && xExt f 1 && f.a.widthOk (redWidth f) && f.d.widthOk (redWidth f)
  | 0x87 =>
    (f.fn.ule 2#4 || (4#4).ule f.fn && f.fn.ule 7#4) && f.mod = 0#6 && f.d.isV && f.a.isV && f.b.isAbsent && xUnused f
  | 0x88 | 0x89 => f.fn = 0#4 && decide (f.ty ≤ 2) && f.d.isV && f.a.isV && f.b.isAbsent && xUnused f
  | 0x8A => f.fn = 0#4 && decide (f.ty ≤ 1) && f.size = 0 && f.d.isV && f.a.isV && f.b.isAbsent && xUnused f
  | 0xA0 => loadOk f true
  | 0xA1 | 0xA3 => storeOk f
  | 0xA2 => loadOk f false
  | 0xA4 =>
    f.fn = 0#4 && scopeOk f && f.size = 0 && f.d.isK && xMem f && (f.a.isS || f.a.isAbsent) && (f.b.isS || f.b.isAbsent)
  | 0xA5 => atomOk f false
  | 0xA6 => atomOk f true
  | 0xA7 =>
    scopeOk f && f.size = 2 && f.fn.extractLsb' 2 2 = 0#2 && atomAddr f && (f.b.isV || f.b.isS) &&
      (f.d.isV || f.d.isAbsent) && decide (f.xb 24 5 ≤ 1)
  | 0xA8 => f.fn.extractLsb' 2 2 = 0#2 && scopeOk f && f.size = 0 && noOpd f && xUnused f
  | 0xA9 => lineOk f true
  | 0xAA | 0xAB => lineOk f false
  | 0xAC => f.mod = 0#6 && f.d.isAbsent && isSI f.a && f.b.isAbsent && xImm f
  | 0xAD =>
    f.mod.extractLsb' 1 5 = 0#5 && f.d.isAbsent && (isSI f.a || f.a.isAbsent) && f.b.isAbsent && xImm f
  | 0xAE => f.mod = 0#6 && noOpd f && xUnused f
  | 0xAF => decide (f.fnn ≤ 2) && f.mod = 0#6 && f.d.isAbsent && f.a.isS && isSI f.b && xImm f
  | 0xB0 => f.fn = 0#4 && f.mod = 0#6 && f.d.isAbsent && keyOk f.a && seqOk f.b && xImm f
  | 0xB1 =>
    f.fn = 0#4 && f.mod = 0#6 && (f.d.isP || f.d.isS) && keyOk f.a && seqOk f.b && xImm f && scalarOk f false
  | 0xB2 => f.fn = 0#4 && f.mod = 0#6 && f.d.isAbsent && keyOk f.a && f.b.isAbsent && xImm f
  | 0xB3 =>
    f.mod = 0#6 && f.d.isAbsent && keyOk f.a && xImm f &&
      (f.fn = 0#4 && f.b.isAbsent || f.fn = 1#4 && seqOk f.b)
  | 0xC0 => f.fn = 0#4 && f.mod = 0#6 && f.d.isT && isSI f.a && f.b.isAbsent && xImm f
  | 0xC1 => decide (f.fnn ≤ 1) && f.ty = 0 && f.d.isV && f.a.isT && isSI f.b && xImm f
  | 0xC2 => decide (f.fnn ≤ 1) && f.ty = 0 && f.d.isT && f.a.isV && isSI f.b && xImm f
  | 0xC3 => f.fn = 0#4 && f.mod = 0#6 && sPair f.d && f.a.isT && f.b.isAbsent && xUnused f
  | 0xC4 | 0xCC => f.fn = 0#4 && f.mod = 0#6 && f.d.isT && f.a.isAbsent && f.b.isAbsent && xUnused f
  | 0xC5 | 0xC7 | 0xC8 => f.fn = 0#4 && f.mod = 0#6 && f.d.isT && f.a.isT && f.b.isT && xUnused f
  | 0xC6 => f.fn = 0#4 && f.mod = 0#6 && f.d.isT && f.a.isS && f.b.isS && xExt f 8 && f.xb 0 8 ≠ 0
  | 0xC9 | 0xCA | 0xCD => f.fn = 0#4 && f.mod = 0#6 && f.d.isT && f.a.isT && f.b.isAbsent && xUnused f
  | 0xCB => f.fn = 0#4 && f.mod = 0#6 && f.d.isT && f.a.isT && f.b.isT && xExt f 4
  | 0xCE =>
    f.mod = 0#6 && f.b.isAbsent &&
      (f.fn = 0#4 && f.d.isAbsent && f.a.isS && xExt f 3 || f.fn = 1#4 && f.d.isT && isSI f.a && xImm f)
  | 0xCF =>
    f.fn = 0#4 && f.mod = 0#6 && f.a.isS && f.b.isS && xExt f 8 && decide (f.xb 4 4 ≤ 8) &&
      (if f.xb 4 4 = 0 then f.d.isAbsent else f.d.isV && f.d.runOk (f.xb 4 4))
  | 0xD0 => f.fn = 0#4 && f.mod = 0#6 && (f.d.isS || f.d.isAbsent) && f.a.isAbsent && f.b.isAbsent && xUnused f
  | 0xD1 => f.fn = 0#4 && f.mod = 0#6 && (f.d.isS || f.d.isAbsent) && f.a.isAbsent && f.b.isAbsent && xExt f 4
  | 0xD2 => f.fn = 0#4 && f.mod = 0#6 && f.d.isS && f.a.isS && f.b.isS && xUnused f
  | 0xD3 =>
    let dk := f.fnn % 4
    let sk := f.fnn / 4
    f.mod = 0#6 && endOk f.d dk && endOk f.a sk && f.b.isS && xExt f 20 && !(dk = 2 && sk = 2) &&
      (dk ≠ 3 || sk = 0) && (sk ≠ 3 || dk = 0) && (dk = 2 || f.xb 0 10 = 0) && (sk = 2 || f.xb 10 10 = 0)
  | 0xD4 =>
    let dk := f.fnn % 4
    f.mod = 0#6 && decide (f.fnn < 3) && endOk f.d dk && f.a.isS && f.b.isS && xExt f 10 && (dk = 2 || f.xb 0 10 = 0)
  | 0xD5 =>
    let sk := f.fnn / 4
    f.mod = 0#6 && f.fnn % 4 = 0 && sk ≠ 3 && f.d.isS && endOk f.a sk && f.b.isS && xExt f 20 && f.xb 0 10 = 0 &&
      (sk = 2 || f.xb 10 10 = 0)
  | 0xD6 => decide (1 ≤ f.fnn) && decide (f.fnn ≤ 5) && f.mod = 0#6 && f.d.isS && f.a.isS && f.b.isAbsent && xAny f
  | 0xD7 =>
    let sk := f.fnn / 4
    f.mod = 0#6 && f.fnn % 4 = 0 && sk ≠ 3 && f.d.isQ && endOk f.a sk && f.b.isS && xExt f 20 && f.xb 0 10 = 0 &&
      (sk = 2 || f.xb 10 10 = 0)
  | 0xD8 =>
    f.mod.ule 2#6 && f.d.isAbsent && (isSI f.a || f.a.isAbsent) && f.b.isAbsent && xImm f
  | 0xD9 => f.fn = 0#4 && f.mod = 0#6 && f.d.isAbsent && (isSI f.a || f.a.isAbsent) && f.b.isAbsent && xImm f
  | 0xDA =>
    f.mod = 0#6 && f.d.isS && f.b.isAbsent && (f.fn = 0#4 && isSI f.a && xImm f || f.fn = 1#4 && f.a.isAbsent && xUnused f)
  | 0xDB =>
    f.fn = 0#4 && f.mod = 0#6 && f.d.isT && f.a.isS && f.b.isS && xExt f 8 && f.xb 6 2 ≠ 3
  | 0xDC => f.fn = 0#4 && f.mod = 0#6 && sPair f.d && f.a.isT && f.b.isAbsent && xUnused f
  | 0xDD => f.fn = 0#4 && f.mod = 0#6 && f.d.isT && f.a.isAbsent && f.b.isAbsent && xUnused f
  | 0xE0 =>
    f.mod = 0#6 && f.d.isAbsent && !f.fn.getLsbD 3 &&
      match f.fnn % 4 with
      | 0 => f.a.isS && f.b.isS && xExt f 2
      | 1 => f.fn = 1#4 && f.a.isS && f.b.isAbsent && xUnused f
      | 2 => f.fn = 2#4 && f.a.isAbsent && f.b.isAbsent && xUnused f
      | _ => false
  | 0xE1 => f.fn = 0#4 && f.mod = 0#6 && (f.d.isS || f.d.isAbsent) && f.a.isAbsent && f.b.isAbsent && xUnused f
  | 0xE2 => f.fn = 0#4 && f.mod = 0#6 && f.d.isV && sPair f.a && f.b.isAbsent && xUnused f
  | 0xE3 => f.fn = 0#4 && f.mod = 0#6 && f.d.isS && f.a.isS && f.b.isS && xUnused f
  | 0xE4 => f.fn = 0#4 && f.mod = 0#6 && f.d.isS && sPair f.a && f.b.isAbsent && xExt f 4
  | 0xE5 =>
    f.fn = 0#4 && f.mod = 0#6 && (f.d.isS || f.d.isAbsent) && f.a.isS && f.b.isAbsent && xExt f 4 &&
      decide (1 ≤ f.xb 0 4) && decide (f.xb 0 4 ≤ 8) && f.a.runOk (f.xb 0 4)
  | 0xE6 =>
    decide (f.fnn ≤ 3) && f.mod = 0#6 && f.d.isS && isSI f.a && (if f.fnn = 1 then isSI f.b else f.b.isAbsent) && xImm f
  | 0xE7 =>
    decide (f.fnn ≤ 4) && f.mod = 0#6 && f.d.isS && f.a.isS &&
      (if f.fnn = 0 || f.fnn = 2 || f.fnn = 4 then f.b.isS else f.b.isAbsent) && xUnused f
  | 0xE8 =>
    decide (f.fnn ≤ 1) && f.mod = 0#6 && (f.d.isS || f.d.isAbsent) && f.a.isS && f.a.runOk 2 && sPair f.b && xExt f 4
  | 0xE9 => f.fn = 0#4 && f.mod = 0#6 && noOpd f && xUnused f
  | _ => false

/-- The long-latency opcodes (R23, R34). -/
def longLatency (opc : Nat) : Bool :=
  (decide (0x28 ≤ opc) && decide (opc ≤ 0x2F)) || [0xA0, 0xA2, 0xA4, 0xA5, 0xA7, 0xB1, 0xC1].contains opc

/-- The opcodes that access memory and so carry a cache class (R27, R152, R230, R311). -/
def hasClass (opc : Nat) : Bool :=
  (decide (0xA0 ≤ opc) && decide (opc ≤ 0xA7)) || [0xA9, 0xAA, 0xAB, 0xD3, 0xD4, 0xD5, 0xD7].contains opc

/-- The hints are legal: `LA`, `CC`, `KA` (R23, R25, R27). -/
def hintsOk (opc : Nat) (f : Fields) : Bool :=
  (f.la = 0#4 || longLatency opc) && (f.cc = 0#2 || hasClass opc) && !(f.ka && f.a.isQ)

/-- The operand's code is assigned: a special register has one of the numbers of R11 (R10, R11). -/
def Opd.known : Opd → Bool
  | .sr n => srKnown n
  | _ => true

/-- A word of opcode `opc` that is legal in some stream. -/
def legal (opc : Nat) (f : Fields) : Bool :=
  entryOk opc f && hintsOk opc f && f.d.known && f.a.known && f.b.known

/-! ### Streams and profiles (R28, R29) -/

/-- The four profiles. -/
inductive Stream where
  | execute | matrix | access | system
  deriving DecidableEq, Repr

/-- The opcodes of the execute profile. -/
def inExecute (opc : Nat) : Bool :=
  decide (opc ≤ 0x34) || (decide (0x40 ≤ opc) && decide (opc ≤ 0x52)) || (decide (0x60 ≤ opc) && decide (opc ≤ 0x77)) ||
    (decide (0x80 ≤ opc) && decide (opc ≤ 0x8A)) || (decide (0xA0 ≤ opc) && decide (opc ≤ 0xB3)) ||
    (decide (0xC0 ≤ opc) && decide (opc ≤ 0xC4)) || [0xCF, 0xD0, 0xD1, 0xDB, 0xDC, 0xDD, 0xE2, 0xE4, 0xE5, 0xE6, 0xE8].contains opc

/-- The words that the matrix and access streams share with groups. -/
def inUniform (opc : Nat) : Bool :=
  decide (opc ≤ 0x1F) || [0x60, 0x61, 0x62, 0x63, 0x64, 0x65, 0x66, 0x67, 0x72, 0x73, 0x74, 0x76].contains opc

/-- The profile of each stream (R28). -/
def inProfile (opc : Nat) : Stream → Bool
  | .execute => inExecute opc
  | .matrix => inUniform opc || [0x77, 0xAC, 0xAD, 0xAE].contains opc || (decide (0xC0 ≤ opc) && decide (opc ≤ 0xCE))
  | .access => inUniform opc || (decide (0xD2 ≤ opc) && decide (opc ≤ 0xDA))
  | .system =>
    inExecute opc && !(decide (0xC0 ≤ opc) && decide (opc ≤ 0xDD)) && !([0x87, 0x88, 0x89].contains opc) ||
      [0xE0, 0xE1, 0xE3, 0xE7, 0xE9].contains opc

/-- A special register that a stream without lanes may name (R29, R67). -/
def srUniform (n : BitVec 6) : Bool := n ≠ 0x00#6 && n ≠ 0x01#6 && n.ule 0x0C#6

/-- An operand that a stream without lanes may name (R29). -/
def opdUniform (opc : Nat) (o : Opd) : Bool :=
  match o with
  | .s _ | .immS | .immZ | .absent | .t _ => true
  | .q _ => opc = 0xD7
  | .sr n => srUniform n
  | _ => false

/-- The third operand where the opcode has one. -/
def hasC (opc : Nat) : Bool := [0x04, 0x05, 0x0A, 0x14, 0x19, 0x1B, 0x1F, 0x23, 0x34, 0x43, 0x4A].contains opc

/-- `GETSR` may read the special register in a stream (R67, R124): the lane-scope registers into a vector register only,
and the 64-bit ones into a pair; the block's registers and `VDEPTH` are not there in the system profile. -/
def srReadable (n : BitVec 6) (d : Opd) (st : Stream) : Bool :=
  (!(n = 0x00#6 || n = 0x01#6) || d.isV) && (!(n = 0x03#6 || n = 0x07#6) || d.pairOk) &&
    (st ≠ .system || !(n = 0x06#6 || n = 0x0A#6 || n = 0x0B#6 || n = 0x0C#6))

/-- `SETSR` names a register that some code of the stream may write (R67). -/
def srWritable (n : BitVec 6) (st : Stream) : Bool :=
  n = 0x08#6 || n = 0x09#6 || (n = 0x0A#6 || n = 0x0B#6 || n = 0x0C#6) && (st = .execute || st = .matrix) ||
    (n = 0x10#6 || n = 0x13#6) && (st = .execute || st = .system)

/-- The access rules of R67 for the words that name a special register. -/
def srOk (opc : Nat) (f : Fields) (st : Stream) : Bool :=
  match f.a, f.d with
  | .sr n, _ => opc ≠ 0x72 || srReadable n f.d st
  | _, .sr n => opc ≠ 0x73 || srWritable n st
  | _, _ => true

/-- What R29, R67, R81 and R121 add by stream; queue ports are read in the execute stream only. -/
def legalIn (opc : Nat) (f : Fields) (st : Stream) : Bool :=
  srOk opc f st &&
  match st with
  | .execute => true
  | .system => !f.a.isQ && !f.b.isQ && !(hasC opc && f.c.isQ)
  | st =>
    !f.gn && f.gp = 15#4 && opdUniform opc f.d && opdUniform opc f.a && opdUniform opc f.b &&
      (!hasC opc || opdUniform opc f.c) && !(decide (opc ≤ 0x1F) && f.sat) && !(opc = 0x67 && f.fn ≠ 0#4) &&
      (st = .matrix || f.la = 0#4)

/-! ### The opcode of each row (R34) -/

/-- The opcode and the fields of an instruction row; an event row and a reserved opcode have none. -/
def instrForm : Instr → Option (Nat × Fields)
  | .iadd f => some (0x00, f)
  | .isub f => some (0x01, f)
  | .imul f => some (0x02, f)
  | .imulh f => some (0x03, f)
  | .imad f => some (0x04, f)
  | .imadw f => some (0x05, f)
  | .iabs f => some (0x06, f)
  | .ineg f => some (0x07, f)
  | .imin f => some (0x08, f)
  | .imax f => some (0x09, f)
  | .isad f => some (0x0A, f)
  | .and f => some (0x0B, f)
  | .or f => some (0x0C, f)
  | .xor f => some (0x0D, f)
  | .andn f => some (0x0E, f)
  | .shl f => some (0x0F, f)
  | .shr f => some (0x10, f)
  | .sar f => some (0x11, f)
  | .rot f => some (0x12, f)
  | .bfx f => some (0x13, f)
  | .bfi f => some (0x14, f)
  | .popc f => some (0x15, f)
  | .clz f => some (0x16, f)
  | .ctz f => some (0x17, f)
  | .brev f => some (0x18, f)
  | .prmb f => some (0x19, f)
  | .icmp f => some (0x1A, f)
  | .sel f => some (0x1B, f)
  | .mov f => some (0x1C, f)
  | .movi f => some (0x1D, f)
  | .lea f => some (0x1E, f)
  | .iclmp f => some (0x1F, f)
  | .fadd f => some (0x20, f)
  | .fsub f => some (0x21, f)
  | .fmul f => some (0x22, f)
  | .ffma f => some (0x23, f)
  | .fmin f => some (0x24, f)
  | .fmax f => some (0x25, f)
  | .fcmp f => some (0x26, f)
  | .fclass f => some (0x27, f)
  | .fdiv f => some (0x28, f)
  | .fsqrt f => some (0x29, f)
  | .frcp f => some (0x2A, f)
  | .frsq f => some (0x2B, f)
  | .fexp2 f => some (0x2C, f)
  | .flog2 f => some (0x2D, f)
  | .fsin f => some (0x2E, f)
  | .fcos f => some (0x2F, f)
  | .frnd f => some (0x30, f)
  | .cvt f => some (0x31, f)
  | .cvtfi f => some (0x32, f)
  | .cvtif f => some (0x33, f)
  | .fdot2 f => some (0x34, f)
  | .hadd2 f => some (0x40, f)
  | .hsub2 f => some (0x41, f)
  | .hmul2 f => some (0x42, f)
  | .hfma2 f => some (0x43, f)
  | .hmin2 f => some (0x44, f)
  | .hmax2 f => some (0x45, f)
  | .iadd2 f => some (0x46, f)
  | .isub2 f => some (0x47, f)
  | .imin2 f => some (0x48, f)
  | .imax2 f => some (0x49, f)
  | .vacs2 f => some (0x4A, f)
  | .pack2 f => some (0x4B, f)
  | .unpk2 f => some (0x4C, f)
  | .bdec f => some (0x4D, f)
  | .benc f => some (0x4E, f)
  | .reqb f => some (0x4F, f)
  | .cbld f => some (0x50, f)
  | .amax f => some (0x51, f)
  | .scl f => some (0x52, f)
  | .nop f => some (0x60, f)
  | .bra f => some (0x61, f)
  | .brx f => some (0x62, f)
  | .brz f => some (0x63, f)
  | .call f => some (0x64, f)
  | .ret f => some (0x65, f)
  | .loop f => some (0x66, f)
  | .exit f => some (0x67, f)
  | .split f => some (0x68, f)
  | .flip f => some (0x69, f)
  | .merge f => some (0x6A, f)
  | .pand f => some (0x6B, f)
  | .por f => some (0x6C, f)
  | .pxor f => some (0x6D, f)
  | .pset f => some (0x6E, f)
  | .pmov f => some (0x6F, f)
  | .yield f => some (0x70, f)
  | .sleep f => some (0x71, f)
  | .getsr f => some (0x72, f)
  | .setsr f => some (0x73, f)
  | .trap f => some (0x74, f)
  | .sysc f => some (0x75, f)
  | .bkpt f => some (0x76, f)
  | .eret f => some (0x77, f)
  | .shfl f => some (0x80, f)
  | .bcast f => some (0x81, f)
  | .vote f => some (0x82, f)
  | .ballot f => some (0x83, f)
  | .matchLanes f => some (0x84, f)
  | .gred f => some (0x85, f)
  | .gscan f => some (0x86, f)
  | .qxch f => some (0x87, f)
  | .ddx f => some (0x88, f)
  | .ddy f => some (0x89, f)
  | .regrp f => some (0x8A, f)
  | .ld f => some (0xA0, f)
  | .st f => some (0xA1, f)
  | .lds f => some (0xA2, f)
  | .sts f => some (0xA3, f)
  | .ldk f => some (0xA4, f)
  | .atom f => some (0xA5, f)
  | .red f => some (0xA6, f)
  | .atom2 f => some (0xA7, f)
  | .fence f => some (0xA8, f)
  | .lock f => some (0xA9, f)
  | .unlock f => some (0xAA, f)
  | .prf f => some (0xAB, f)
  | .bari f => some (0xAC, f)
  | .bara f => some (0xAD, f)
  | .barw f => some (0xAE, f)
  | .rdci f => some (0xAF, f)
  | .clent f => some (0xB0, f)
  | .cltry f => some (0xB1, f)
  | .cllv f => some (0xB2, f)
  | .clabt f => some (0xB3, f)
  | .clabtRst f => some (0xB3, f)
  | .tdef f => some (0xC0, f)
  | .tld f => some (0xC1, f)
  | .tst f => some (0xC2, f)
  | .tstat f => some (0xC3, f)
  | .trel f => some (0xC4, f)
  | .mma f => some (0xC5, f)
  | .mmaq f => some (0xC6, f)
  | .lrmul f => some (0xC7, f)
  | .lradd f => some (0xC8, f)
  | .lrc f => some (0xC9, f)
  | .lrdn f => some (0xCA, f)
  | .lrfm f => some (0xCB, f)
  | .mzero f => some (0xCC, f)
  | .mtrn f => some (0xCD, f)
  | .msetpCb f => some (0xCE, f)
  | .msetpRcap f => some (0xCE, f)
  | .phrs f => some (0xCF, f)
  | .bseal f => some (0xD0, f)
  | .bwait f => some (0xD1, f)
  | .paddr f => some (0xD2, f)
  | .pxfer f => some (0xD3, f)
  | .pgath f => some (0xD4, f)
  | .pscat f => some (0xD5, f)
  | .ploop f => some (0xD6, f)
  | .pqpsh f => some (0xD7, f)
  | .parrv f => some (0xD8, f)
  | .pend f => some (0xD9, f)
  | .pcur f => some (0xDA, f)
  | .pcurSt f => some (0xDA, f)
  | .view f => some (0xDB, f)
  | .vstat f => some (0xDC, f)
  | .vcan f => some (0xDD, f)
  | .tlbiVa f => some (0xE0, f)
  | .tlbiAsid f => some (0xE0, f)
  | .tlbiAll f => some (0xE0, f)
  | .tfence f => some (0xE1, f)
  | .pgmap f => some (0xE2, f)
  | .fbpop f => some (0xE3, f)
  | .launch f => some (0xE4, f)
  | .join f => some (0xE5, f)
  | .qctlStat f => some (0xE6, f)
  | .qctlSetr f => some (0xE6, f)
  | .qctlStart f => some (0xE6, f)
  | .qctlStop f => some (0xE6, f)
  | .ctxsPart f => some (0xE7, f)
  | .ctxsFull f => some (0xE7, f)
  | .ctxsRest f => some (0xE7, f)
  | .ctxsTerm f => some (0xE7, f)
  | .ctxsRsm f => some (0xE7, f)
  | .nsig f => some (0xE8, f)
  | .halt f => some (0xE9, f)
  | .reservedOpcode _ => none
  | .boot => none
  | .registerResultWrite _ _ _ _ => none
  | .depPark _ => none
  | .sleepExpiry _ => none
  | .groupSwap _ _ => none
  | .swapComplete _ _ => none
  | .evictedGroupReturn _ => none
  | .progressWindowExpiry _ _ => none
  | .barrierRelease _ => none
  | .tileWaitRelease _ => none
  | .queuePortWake _ => none
  | .matrixGrant _ => none
  | .matrixComplete _ => none
  | .phraseRequestStart _ => none
  | .rangeLockRegister _ _ _ => none
  | .phraseChunk _ _ _ => none
  | .phraseTransferComplete _ _ _ => none
  | .phraseContextResume _ _ => none
  | .bwaitRelease _ => none
  | .clauseRequest _ _ => none
  | .deadlockWalk _ _ => none
  | .levelUpdate _ => none
  | .leaveGrant _ _ => none
  | .slewHoldEnd _ => none
  | .energySettlement _ _ => none
  | .coreGate _ => none
  | .coreUngate _ => none
  | .remoteScratchpadAccess _ => none
  | .scPackageMark => none
  | .viewDice _ => none
  | .viewRowSample _ => none
  | .viewArrival _ => none
  | .viewKill _ => none
  | .viewRecordWake _ => none
  | .blockPlacement _ _ _ => none
  | .blockEnd _ => none
  | .gridComplete _ => none
  | .joinRelease _ => none
  | .haltWake _ => none
  | .firmwareStep => none
  | .fabricWrite _ => none
  | .fabricReadRequest _ => none
  | .fabricReadData _ => none
  | .fabricSignalSet _ => none
  | .fabricSignalAdd _ => none
  | .fabricAck _ => none
  | .fabricNak _ => none
  | .retransmitTimeout _ _ => none
  | .portLinkChange _ _ _ => none
  | .kernelRingReceive _ _ _ => none
  | .kernelRingTransmit _ => none
  | .storageDeviceRequest _ _ _ _ => none
  | .pcieLinkChange _ _ => none
  | .attestationQuote => none
  | .attcmdWrite _ => none
  | .kringWrite _ _ => none
  | .intpendWrite _ _ => none
  | .fbstatWrite _ _ => none
  | .pacfgWrite _ _ => none
  | .viewcfgWrite _ _ => none
  | .ftringWrite _ _ => none
  | .queueConfigWrite _ _ _ => none
  | .qcacheWrite _ _ => none
  | .fabcfgWrite _ => none
  | .registerWrite _ _ _ => none
  | .allowanceRefill _ => none
  | .packetCompletion _ _ => none
  | .fabricFrameLost _ => none

/-- The opcodes that are reserved (R30). -/
def reservedOpc (opc : Nat) : Bool :=
  decide (0x35 ≤ opc) && decide (opc ≤ 0x3F) || decide (0x53 ≤ opc) && decide (opc ≤ 0x5F) ||
    decide (0x78 ≤ opc) && decide (opc ≤ 0x7F) || decide (0x8B ≤ opc) && decide (opc ≤ 0x9F) ||
    decide (0xB4 ≤ opc) && decide (opc ≤ 0xBF) || opc = 0xDE || opc = 0xDF || decide (0xEA ≤ opc)

/-- The row that an opcode and its fields name; none where the opcode is reserved, or where `FN` names no row. -/
def instrOf (opc : Nat) (f : Fields) : Option Instr :=
  match opc with
  | 0x00 => some (.iadd f)
  | 0x01 => some (.isub f)
  | 0x02 => some (.imul f)
  | 0x03 => some (.imulh f)
  | 0x04 => some (.imad f)
  | 0x05 => some (.imadw f)
  | 0x06 => some (.iabs f)
  | 0x07 => some (.ineg f)
  | 0x08 => some (.imin f)
  | 0x09 => some (.imax f)
  | 0x0A => some (.isad f)
  | 0x0B => some (.and f)
  | 0x0C => some (.or f)
  | 0x0D => some (.xor f)
  | 0x0E => some (.andn f)
  | 0x0F => some (.shl f)
  | 0x10 => some (.shr f)
  | 0x11 => some (.sar f)
  | 0x12 => some (.rot f)
  | 0x13 => some (.bfx f)
  | 0x14 => some (.bfi f)
  | 0x15 => some (.popc f)
  | 0x16 => some (.clz f)
  | 0x17 => some (.ctz f)
  | 0x18 => some (.brev f)
  | 0x19 => some (.prmb f)
  | 0x1A => some (.icmp f)
  | 0x1B => some (.sel f)
  | 0x1C => some (.mov f)
  | 0x1D => some (.movi f)
  | 0x1E => some (.lea f)
  | 0x1F => some (.iclmp f)
  | 0x20 => some (.fadd f)
  | 0x21 => some (.fsub f)
  | 0x22 => some (.fmul f)
  | 0x23 => some (.ffma f)
  | 0x24 => some (.fmin f)
  | 0x25 => some (.fmax f)
  | 0x26 => some (.fcmp f)
  | 0x27 => some (.fclass f)
  | 0x28 => some (.fdiv f)
  | 0x29 => some (.fsqrt f)
  | 0x2A => some (.frcp f)
  | 0x2B => some (.frsq f)
  | 0x2C => some (.fexp2 f)
  | 0x2D => some (.flog2 f)
  | 0x2E => some (.fsin f)
  | 0x2F => some (.fcos f)
  | 0x30 => some (.frnd f)
  | 0x31 => some (.cvt f)
  | 0x32 => some (.cvtfi f)
  | 0x33 => some (.cvtif f)
  | 0x34 => some (.fdot2 f)
  | 0x40 => some (.hadd2 f)
  | 0x41 => some (.hsub2 f)
  | 0x42 => some (.hmul2 f)
  | 0x43 => some (.hfma2 f)
  | 0x44 => some (.hmin2 f)
  | 0x45 => some (.hmax2 f)
  | 0x46 => some (.iadd2 f)
  | 0x47 => some (.isub2 f)
  | 0x48 => some (.imin2 f)
  | 0x49 => some (.imax2 f)
  | 0x4A => some (.vacs2 f)
  | 0x4B => some (.pack2 f)
  | 0x4C => some (.unpk2 f)
  | 0x4D => some (.bdec f)
  | 0x4E => some (.benc f)
  | 0x4F => some (.reqb f)
  | 0x50 => some (.cbld f)
  | 0x51 => some (.amax f)
  | 0x52 => some (.scl f)
  | 0x60 => some (.nop f)
  | 0x61 => some (.bra f)
  | 0x62 => some (.brx f)
  | 0x63 => some (.brz f)
  | 0x64 => some (.call f)
  | 0x65 => some (.ret f)
  | 0x66 => some (.loop f)
  | 0x67 => some (.exit f)
  | 0x68 => some (.split f)
  | 0x69 => some (.flip f)
  | 0x6A => some (.merge f)
  | 0x6B => some (.pand f)
  | 0x6C => some (.por f)
  | 0x6D => some (.pxor f)
  | 0x6E => some (.pset f)
  | 0x6F => some (.pmov f)
  | 0x70 => some (.yield f)
  | 0x71 => some (.sleep f)
  | 0x72 => some (.getsr f)
  | 0x73 => some (.setsr f)
  | 0x74 => some (.trap f)
  | 0x75 => some (.sysc f)
  | 0x76 => some (.bkpt f)
  | 0x77 => some (.eret f)
  | 0x80 => some (.shfl f)
  | 0x81 => some (.bcast f)
  | 0x82 => some (.vote f)
  | 0x83 => some (.ballot f)
  | 0x84 => some (.matchLanes f)
  | 0x85 => some (.gred f)
  | 0x86 => some (.gscan f)
  | 0x87 => some (.qxch f)
  | 0x88 => some (.ddx f)
  | 0x89 => some (.ddy f)
  | 0x8A => some (.regrp f)
  | 0xA0 => some (.ld f)
  | 0xA1 => some (.st f)
  | 0xA2 => some (.lds f)
  | 0xA3 => some (.sts f)
  | 0xA4 => some (.ldk f)
  | 0xA5 => some (.atom f)
  | 0xA6 => some (.red f)
  | 0xA7 => some (.atom2 f)
  | 0xA8 => some (.fence f)
  | 0xA9 => some (.lock f)
  | 0xAA => some (.unlock f)
  | 0xAB => some (.prf f)
  | 0xAC => some (.bari f)
  | 0xAD => some (.bara f)
  | 0xAE => some (.barw f)
  | 0xAF => some (.rdci f)
  | 0xB0 => some (.clent f)
  | 0xB1 => some (.cltry f)
  | 0xB2 => some (.cllv f)
  | 0xB3 =>
    match f.fnn with
    | 0 => some (.clabt f)
    | 1 => some (.clabtRst f)
    | _ => none
  | 0xC0 => some (.tdef f)
  | 0xC1 => some (.tld f)
  | 0xC2 => some (.tst f)
  | 0xC3 => some (.tstat f)
  | 0xC4 => some (.trel f)
  | 0xC5 => some (.mma f)
  | 0xC6 => some (.mmaq f)
  | 0xC7 => some (.lrmul f)
  | 0xC8 => some (.lradd f)
  | 0xC9 => some (.lrc f)
  | 0xCA => some (.lrdn f)
  | 0xCB => some (.lrfm f)
  | 0xCC => some (.mzero f)
  | 0xCD => some (.mtrn f)
  | 0xCE =>
    match f.fnn with
    | 0 => some (.msetpCb f)
    | 1 => some (.msetpRcap f)
    | _ => none
  | 0xCF => some (.phrs f)
  | 0xD0 => some (.bseal f)
  | 0xD1 => some (.bwait f)
  | 0xD2 => some (.paddr f)
  | 0xD3 => some (.pxfer f)
  | 0xD4 => some (.pgath f)
  | 0xD5 => some (.pscat f)
  | 0xD6 => some (.ploop f)
  | 0xD7 => some (.pqpsh f)
  | 0xD8 => some (.parrv f)
  | 0xD9 => some (.pend f)
  | 0xDA =>
    match f.fnn with
    | 0 => some (.pcur f)
    | 1 => some (.pcurSt f)
    | _ => none
  | 0xDB => some (.view f)
  | 0xDC => some (.vstat f)
  | 0xDD => some (.vcan f)
  | 0xE0 =>
    match f.fnn % 4 with
    | 0 => some (.tlbiVa f)
    | 1 => some (.tlbiAsid f)
    | 2 => some (.tlbiAll f)
    | _ => none
  | 0xE1 => some (.tfence f)
  | 0xE2 => some (.pgmap f)
  | 0xE3 => some (.fbpop f)
  | 0xE4 => some (.launch f)
  | 0xE5 => some (.join f)
  | 0xE6 =>
    match f.fnn with
    | 0 => some (.qctlStat f)
    | 1 => some (.qctlSetr f)
    | 2 => some (.qctlStart f)
    | 3 => some (.qctlStop f)
    | _ => none
  | 0xE7 =>
    match f.fnn with
    | 0 => some (.ctxsPart f)
    | 1 => some (.ctxsFull f)
    | 2 => some (.ctxsRest f)
    | 3 => some (.ctxsTerm f)
    | 4 => some (.ctxsRsm f)
    | _ => none
  | 0xE8 => some (.nsig f)
  | 0xE9 => some (.halt f)
  | _ => none

end Sys2Proof
end

