-- ==== Sys2Proof/Machine/Num.lean ====
section
/-!
DEFINITION. Number formats and exact arithmetic (R36 to R58): the value of an encoding, exact sums and products, the single
rounding, conversions to integers, and the codebook and offset-binary codes.
-/
namespace Sys2Proof

/-! ### Flags (R69) -/

/-- Flags at their bit positions in `GST`. -/
abbrev Flags := BitVec 32

def fIV : Flags := 0x1
def fDZ : Flags := 0x2
def fOF : Flags := 0x4
def fUF : Flags := 0x8
def fIX : Flags := 0x10
def fSCUF : Flags := 0x20
def fBLKERR : Flags := 0x40
def fQDERR : Flags := 0x80
def fSATF : Flags := 0x100

/-- The flag `f` where `b` holds. -/
def flagIf (b : Bool) (f : Flags) : Flags := if b then f else 0

/-! ### Exact values -/

/-- An exact real: (−1)^neg × m × 2^e, or, where `sticky`, a real strictly between that and (−1)^neg × (m + 1) × 2^e. -/
structure Ex where
  neg : Bool
  m : Nat
  e : Int
  sticky : Bool
  deriving DecidableEq, Repr

/-- A value: NaN (signalling or quiet), an infinity, or an exact real. -/
inductive Val where
  | nan (sig : Bool)
  | inf (neg : Bool)
  | fin (x : Ex)
  deriving DecidableEq, Repr

def Ex.zero (neg : Bool) : Ex := { neg := neg, m := 0, e := 0, sticky := false }

/-- An integer as an exact real. -/
def Ex.ofInt (i : Int) : Ex := { neg := decide (i < 0), m := i.natAbs, e := 0, sticky := false }

/-- The real is zero. -/
def Ex.isZero (x : Ex) : Bool := x.m = 0 && !x.sticky

/-- m × 2^(x.e − e) as a signed integer, for e ≤ x.e. -/
def Ex.scaled (x : Ex) (e : Int) : Int :=
  let v : Int := (x.m <<< (x.e - e).toNat : Nat)
  if x.neg then -v else v

/-- The exact sum of two exact reals; a zero sum takes the sign `z`. -/
def Ex.addZ (x y : Ex) (z : Bool) : Ex :=
  if x.m = 0 ∧ y.m = 0 then { x with neg := if x.neg = y.neg then x.neg else z, e := 0 }
  else if x.m = 0 then y
  else if y.m = 0 then x
  else
    let e := min x.e y.e
    let v := x.scaled e + y.scaled e
    { neg := if v = 0 then z else decide (v < 0), m := v.natAbs, e := if v = 0 then 0 else e, sticky := false }

/-- The exact product. -/
def Ex.mul (x y : Ex) : Ex := { neg := x.neg != y.neg, m := x.m * y.m, e := x.e + y.e, sticky := false }

/-- x × 2^k. -/
def Ex.scale2 (x : Ex) (k : Int) : Ex := { x with e := x.e + k }

/-- x < y, for exact reals. -/
def Ex.lt (x y : Ex) : Bool :=
  let e := min x.e y.e
  decide (x.scaled e < y.scaled e)

/-- x = y as numbers. -/
def Ex.eq (x y : Ex) : Bool :=
  let e := min x.e y.e
  decide (x.scaled e = y.scaled e)

def Ex.abs (x : Ex) : Ex := { x with neg := false }
def Ex.negate (x : Ex) : Ex := { x with neg := !x.neg }

/-! ### Formats (R36, R37, R39) -/

/-- Fraction width. -/
def FFmt.frac : FFmt → Nat
  | .f32 => 23
  | .bf16 => 7
  | .f16 => 10
  | .f8e => 2
  | .f8p => 3

def FFmt.bias : FFmt → Nat
  | .f32 | .bf16 => 127
  | .f16 | .f8e => 15
  | .f8p => 8

/-- The largest biased exponent of a finite number. -/
def FFmt.topExp : FFmt → Nat
  | .f32 | .bf16 => 254
  | .f16 | .f8e => 30
  | .f8p => 15

/-- Exponent of the smallest normal. -/
def FFmt.emin (t : FFmt) : Int := 1 - (t.bias : Int)

/-- Exponent of the largest finite number. -/
def FFmt.emax (t : FFmt) : Int := (t.topExp : Int) - (t.bias : Int)

/-- The canonical NaN (R38). -/
def FFmt.cnan : FFmt → Nat
  | .f32 => 0x7FC00000
  | .bf16 => 0x7FC0
  | .f16 => 0x7E00
  | .f8e => 0x7E
  | .f8p => 0x80

/-- An encoding with a sign. -/
def FFmt.signed (t : FFmt) (neg : Bool) (mag : Nat) : Nat := if neg then 2 ^ (t.bits - 1) + mag else mag

/-- The encoding of infinity. -/
def FFmt.infEnc (t : FFmt) (neg : Bool) : Nat := t.signed neg ((t.topExp + 1) <<< t.frac)

/-- The largest finite magnitude. -/
def FFmt.maxEnc (t : FFmt) (neg : Bool) : Nat := t.signed neg ((t.topExp <<< t.frac) + (2 ^ t.frac - 1))

/-- The zero of a sign; `F8P` has one zero (R39). -/
def FFmt.zeroEnc (t : FFmt) (neg : Bool) : Nat := if t = .f8p then 0 else t.signed neg 0

/-- `Widen`: the value of an encoding. -/
def widen (t : FFmt) (b : Nat) : Val :=
  let b := b % 2 ^ t.bits
  let neg := decide (b / 2 ^ (t.bits - 1) = 1)
  let mag := b % 2 ^ (t.bits - 1)
  let E := mag >>> t.frac
  let f := mag % 2 ^ t.frac
  if t = .f8p ∧ b = 0x80 then .nan false
  else if E > t.topExp then if f = 0 then .inf neg else .nan (decide (f < 2 ^ (t.frac - 1)))
  else if E = 0 then .fin { neg := neg, m := f, e := t.emin - t.frac, sticky := false }
  else .fin { neg := neg, m := 2 ^ t.frac + f, e := (E : Int) - t.bias - t.frac, sticky := false }

/-- An encoding is subnormal. -/
def isSubnormal (t : FFmt) (b : Nat) : Bool :=
  let mag := b % 2 ^ (t.bits - 1)
  mag >>> t.frac = 0 && mag ≠ 0

/-- An operand under `.FZ`: a subnormal reads as zero of its sign (R42). -/
def widenFz (t : FFmt) (fz : Bool) (b : Nat) : Val :=
  if fz && isSubnormal t b then .fin (Ex.zero (decide (b % 2 ^ t.bits / 2 ^ (t.bits - 1) = 1))) else widen t b

/-! ### Rounding (R40, R41) -/

/-- The multiple of a spacing is raised by one: `n` is its quotient, `cmp` the place of the rest beside one half (0 none,
1 below, 2 half, 3 above). -/
def roundUp (mode : RMode) (neg : Bool) (n cmp : Nat) : Bool :=
  match mode with
  | .rn => cmp = 3 || cmp = 2 && n % 2 = 1
  | .rz => false
  | .rp => !neg && cmp ≠ 0
  | .rm => neg && cmp ≠ 0

/-- The quotient of m × 2^e (sticky as given) by 2^q, and the place of its rest. -/
def quotRest (m : Nat) (e q : Int) (sticky : Bool) : Nat × Nat :=
  if q ≤ e then (m <<< (e - q).toNat, if sticky then 1 else 0)
  else
    let sh := (q - e).toNat
    if sh > m.log2 + 2 then (0, if m = 0 && !sticky then 0 else 1)
    else
      let r := m % 2 ^ sh
      let h := 2 ^ (sh - 1)
      (m >>> sh,
        if r = 0 && !sticky then 0 else if r < h then 1 else if r = h && !sticky then 2 else 3)

/-- `Round` of an exact real that is not an infinity: encoding and flags (R41). -/
def roundEx (t : FFmt) (mode : RMode) (fz : Bool) (x : Ex) : Nat × Flags :=
  if x.isZero then (t.zeroEnc x.neg, 0)
  else
    let top : Int := if x.m = 0 then x.e - 1 else x.e + x.m.log2
    let ovf : Nat × Flags :=
      (if t ≠ .f8p && (mode = .rn || mode = .rp && !x.neg || mode = .rm && x.neg) then t.infEnc x.neg else t.maxEnc x.neg,
        fOF ||| fIX)
    if t.emax + 2 < top then ovf
    else
      let e := max top t.emin
      let q := e - t.frac
      let nr := quotRest x.m x.e q x.sticky
      let n := if roundUp mode x.neg nr.1 nr.2 then nr.1 + 1 else nr.1
      let inexact := decide (nr.2 ≠ 0)
      let fl := flagIf inexact fIX ||| flagIf (inexact && decide (top < t.emin)) fUF
      let carry := decide (n = 2 ^ (t.frac + 1))
      if t.emax < (if carry then e + 1 else e) then (ovf.1, fl ||| ovf.2)
      else if n = 0 then (t.zeroEnc x.neg, fl)
      else if n < 2 ^ t.frac then
        if fz then (t.zeroEnc x.neg, fl ||| fUF ||| fIX) else (t.signed x.neg n, fl)
      else
        let E := (e - t.emin + 1).toNat
        (t.signed x.neg ((E <<< t.frac) + (n - 2 ^ t.frac)), fl)

/-- `Round` (R41). -/
def roundVal (t : FFmt) (mode : RMode) (fz : Bool) (v : Val) : Nat × Flags :=
  match v with
  | .nan _ => (t.cnan, 0)
  | .inf neg => if t = .f8p then (0x80, fIV) else (t.infEnc neg, 0)
  | .fin x => roundEx t mode fz x

/-! ### Operations (R93, R100) -/

def Val.isNan : Val → Bool
  | .nan _ => true
  | _ => false

def Val.isSig : Val → Bool
  | .nan s => s
  | _ => false

def Val.neg? : Val → Bool
  | .nan _ => false
  | .inf n => n
  | .fin x => x.neg

def Val.negate : Val → Val
  | .nan s => .nan s
  | .inf n => .inf (!n)
  | .fin x => .fin x.negate

/-- A value times 2^k. -/
def Val.scale2 (v : Val) (k : Int) : Val :=
  match v with
  | .fin x => .fin (x.scale2 k)
  | w => w

/-- The NaN result of operands of which one is NaN: `IV` for a signalling one. -/
def sigFlag (l : List Val) : Flags := flagIf (l.any Val.isSig) fIV

/-- The exact product of two values that are not NaN; an invalid case is NaN with `IV`. -/
def vmul (a b : Val) : Val × Flags :=
  match a, b with
  | .nan s, _ => (.nan s, 0)
  | _, .nan s => (.nan s, 0)
  | .inf n, .inf m => (.inf (n != m), 0)
  | .inf n, .fin x => if x.isZero then (.nan false, fIV) else (.inf (n != x.neg), 0)
  | .fin x, .inf n => if x.isZero then (.nan false, fIV) else (.inf (n != x.neg), 0)
  | .fin x, .fin y => (.fin (x.mul y), 0)

/-- The exact sum of two values; a zero sum of opposite signs is −0 under `.RM` and +0 otherwise (R93). -/
def vadd (mode : RMode) (a b : Val) : Val × Flags :=
  match a, b with
  | .nan s, _ => (.nan s, 0)
  | _, .nan s => (.nan s, 0)
  | .inf n, .inf m => if n = m then (.inf n, 0) else (.nan false, fIV)
  | .inf n, _ => (.inf n, 0)
  | _, .inf n => (.inf n, 0)
  | .fin x, .fin y => (.fin (x.addZ y (mode = .rm)), 0)

/-- Infinities of both signs stand among the values. -/
def oppositeInf (vs : List Val) : Bool := vs.contains (.inf true) && vs.contains (.inf false)

/-- The exact sum of products, from the first one on (R57): `IV` for an invalid product, infinities of both signs, or a
signalling operand. -/
def sumProds (ps : List (Val × Val)) : Val × Flags :=
  let vs := ps.map fun p => vmul p.1 p.2
  let fl := vs.foldl (fun m v => m ||| v.2) (sigFlag (ps.flatMap fun p => [p.1, p.2]))
  let ws := vs.map Prod.fst
  let both := oppositeInf ws
  if both || ws.any Val.isNan then (.nan false, fl ||| flagIf both fIV)
  else
    match ws with
    | [] => (.fin (Ex.zero false), fl)
    | w :: r => (r.foldl (fun acc v => (vadd .rn acc v).1) w, fl)

/-- One rounding of a value with flags already raised. -/
def roundOff (t : FFmt) (mode : RMode) (fz : Bool) (fl : Flags) (r : Val × Flags) : Nat × Flags :=
  let o := roundVal t mode fz r.1
  (o.1, fl ||| r.2 ||| o.2)

def fAdd (t : FFmt) (mode : RMode) (fz : Bool) (a b : Val) : Nat × Flags :=
  roundOff t mode fz (sigFlag [a, b]) (vadd mode a b)

def fSub (t : FFmt) (mode : RMode) (fz : Bool) (a b : Val) : Nat × Flags :=
  roundOff t mode fz (sigFlag [a, b]) (vadd mode a b.negate)

def fMul (t : FFmt) (mode : RMode) (fz : Bool) (a b : Val) : Nat × Flags :=
  roundOff t mode fz (sigFlag [a, b]) (vmul a b)

/-- `FFMA`: 0 × ∞ is invalid even where c is a quiet NaN. -/
def fFma (t : FFmt) (mode : RMode) (fz : Bool) (a b c : Val) : Nat × Flags :=
  let p := vmul a b
  let r := vadd mode p.1 c
  roundOff t mode fz (sigFlag [a, b, c]) (r.1, p.2 ||| r.2)

/-- `FDOT2`'s exact a.lo × b.lo + a.hi × b.hi + c (R100): infinities of opposite sign among the products and c are invalid beside
a NaN too. A sum that is exactly zero takes its sign by the word's mode, as R93's sums do (DEDUCED, notes/assumptions/17.md). -/
def fDot2 (t : FFmt) (mode : RMode) (fz : Bool) (al ah bl bh c : Val) : Nat × Flags :=
  let p := vmul al bl
  let q := vmul ah bh
  let u := vadd mode p.1 q.1
  let r := vadd mode u.1 c
  roundOff t mode fz (sigFlag [al, ah, bl, bh, c]) (r.1, p.2 ||| q.2 ||| u.2 ||| r.2 ||| flagIf (oppositeInf [p.1, q.1, c]) fIV)

/-- m / d to `p` further bits, sticky where a rest remains. -/
def divEx (x y : Ex) (p : Nat) : Ex :=
  let sh := p + y.m.log2 + 1
  let n := x.m <<< sh
  { neg := x.neg != y.neg, m := n / y.m, e := x.e - y.e - sh, sticky := decide (n % y.m ≠ 0) }

/-- `FDIV`: division of a finite nonzero value by zero is ∞ with `DZ` (R93). -/
def fDiv (t : FFmt) (mode : RMode) (fz : Bool) (a b : Val) : Nat × Flags :=
  let r : Val × Flags :=
    match a, b with
    | .nan s, _ => (.nan s, 0)
    | _, .nan s => (.nan s, 0)
    | .inf _, .inf _ => (.nan false, fIV)
    | .inf n, .fin y => (.inf (n != y.neg), 0)
    | .fin x, .inf n => (.fin (Ex.zero (x.neg != n)), 0)
    | .fin x, .fin y =>
      if y.isZero then if x.isZero then (.nan false, fIV) else (.inf (x.neg != y.neg), fDZ)
      else if x.isZero then (.fin (Ex.zero (x.neg != y.neg)), 0)
      else (.fin (divEx x y 40), 0)
  roundOff t mode fz (sigFlag [a, b]) r

/-- The integer square root by bits from `k` down, from `r`. -/
def isqrtFrom (n : Nat) : Nat → Nat → Nat
  | 0, r => r
  | k + 1, r =>
    let c := r + 2 ^ k
    isqrtFrom n k (if c * c ≤ n then c else r)

/-- ⌊√n⌋. -/
def isqrt (n : Nat) : Nat := isqrtFrom n (n.log2 / 2 + 1) 0

/-- √(m × 2^e), to 40 bits and more, sticky where it is not exact. -/
def sqrtEx (x : Ex) : Ex :=
  let sh : Nat := if (x.e - 80) % 2 = 0 then 80 else 81
  let n := x.m <<< sh
  let r := isqrt n
  { neg := false, m := r, e := (x.e - sh) / 2, sticky := decide (r * r ≠ n) }

/-- `FSQRT` (R93). -/
def fSqrt (t : FFmt) (mode : RMode) (fz : Bool) (a : Val) : Nat × Flags :=
  let r : Val × Flags :=
    match a with
    | .nan s => (.nan s, 0)
    | .inf n => if n then (.nan false, fIV) else (.inf false, 0)
    | .fin x =>
      if x.isZero then (.fin x, 0) else if x.neg then (.nan false, fIV) else (.fin (sqrtEx x), 0)
  roundOff t mode fz (sigFlag [a]) r

/-- The magnitude of a value orders encodings of one sign; −0 stands below +0 (R94). -/
def vless (a b : Val) : Bool :=
  match a, b with
  | .inf n, .inf m => n && !m
  | .inf n, _ => n
  | _, .inf m => !m
  | .fin x, .fin y => if x.isZero && y.isZero then x.neg && !y.neg else x.lt y
  | _, _ => false

/-- `FMIN` and `FMAX`: the chosen operand's encoding (R94). -/
def fMinMax (t : FFmt) (fz isMax : Bool) (a b : Nat) : Nat × Flags :=
  let va := widenFz t fz a
  let vb := widenFz t fz b
  let enc (x : Nat) : Nat :=
    if fz && isSubnormal t x then t.zeroEnc (decide (x % 2 ^ t.bits / 2 ^ (t.bits - 1) = 1)) else x % 2 ^ t.bits
  let fl := sigFlag [va, vb]
  if va.isNan && vb.isNan then (t.cnan, fl)
  else if va.isNan then (enc b, fl)
  else if vb.isNan then (enc a, fl)
  else if isMax then (if vless va vb then enc b else enc a, fl)
  else (if vless vb va then enc b else enc a, fl)

/-- Numeric comparison: none where the pair is unordered; otherwise less, equal. -/
def vcmp (a b : Val) : Option (Bool × Bool) :=
  match a, b with
  | .nan _, _ => none
  | _, .nan _ => none
  | .inf n, .inf m => some (n && !m, n = m)
  | .inf n, _ => some (n, false)
  | _, .inf m => some (!m, false)
  | .fin x, .fin y => some (x.lt y, x.eq y)

/-- The conditions of `FCMP` (R95). -/
def fCond (c : Nat) (r : Option (Bool × Bool)) : Bool :=
  match r with
  | none => c = 1 || c = 6
  | some (lt, eq) =>
    match c with
    | 0 => eq
    | 1 => !eq
    | 2 => lt
    | 3 => lt || eq
    | 4 => !lt && !eq
    | 5 => !lt
    | 6 => false
    | _ => true

/-- The class bit of an encoding (R96). -/
def fClass (t : FFmt) (b : Nat) : Nat :=
  match widen t b with
  | .nan s => if s then 2 ^ 8 else 2 ^ 9
  | .inf n => if n then 2 ^ 0 else 2 ^ 7
  | .fin x =>
    if x.isZero then if x.neg then 2 ^ 3 else 2 ^ 4
    else if isSubnormal t b then if x.neg then 2 ^ 2 else 2 ^ 5
    else if x.neg then 2 ^ 1 else 2 ^ 6

/-- An exact real rounded to an integer, and whether that changed it (R40 with spacing 1). -/
def roundInt (mode : RMode) (x : Ex) : Int × Bool :=
  let nr := quotRest x.m x.e 0 x.sticky
  let n := if roundUp mode x.neg nr.1 nr.2 then nr.1 + 1 else nr.1
  (if x.neg then -(n : Int) else n, decide (nr.2 ≠ 0))

/-- `FRND` (R98): an integral value of the format; a zero takes the sign of the operand; no flag but `IV`. -/
def fRnd (t : FFmt) (mode : RMode) (fz : Bool) (a : Val) : Nat × Flags :=
  match a with
  | .nan s => (t.cnan, flagIf s fIV)
  | .inf n => (t.infEnc n, 0)
  | .fin x =>
    let i := (roundInt mode x).1
    ((roundEx t .rn fz { neg := x.neg, m := i.natAbs, e := 0, sticky := false }).1, 0)

/-! ### Integer types (R44, R45) -/

def IntTy.min (t : IntTy) : Int := if t.signed then -(2 ^ (t.width - 1) : Int) else 0
def IntTy.max (t : IntTy) : Int := if t.signed then 2 ^ (t.width - 1) - 1 else 2 ^ t.width - 1

/-- The value that the low bits of a register have as type `t` (R81). -/
def IntTy.value (t : IntTy) (v : Dword) : Int :=
  let n := v.toNat % 2 ^ t.width
  if t.signed && decide (2 ^ (t.width - 1) ≤ n) then (n : Int) - 2 ^ t.width else n

/-- `Fit`: saturates, or reduces modulo 2^n; the pattern extended to 64 bits, with flags (R84). -/
def IntTy.fit (t : IntTy) (sat : Bool) (x : Int) : Dword × Flags :=
  if sat then
    if x < t.min then (BitVec.ofInt 64 t.min, fSATF)
    else if t.max < x then (BitVec.ofInt 64 t.max, fSATF)
    else (BitVec.ofInt 64 x, 0)
  else (BitVec.ofInt 64 (t.value (BitVec.ofInt 64 x)), 0)

/-- A value converted to an integer type (R45). -/
def toInt (t : IntTy) (mode : RMode) (a : Val) : Dword × Flags :=
  match a with
  | .nan _ => (0, fIV)
  | .inf n => (BitVec.ofInt 64 (if n then t.min else t.max), fIV)
  | .fin x =>
    let r := roundInt mode x
    if r.1 < t.min then (BitVec.ofInt 64 t.min, fIV)
    else if t.max < r.1 then (BitVec.ofInt 64 t.max, fIV)
    else (BitVec.ofInt 64 r.1, flagIf r.2 fIX)

/-! ### Codebook and offset-binary codes (R46 to R49) -/

/-- The entry of a codebook among 16 that is nearest to an exact real: the lower code wins a tie (R47). -/
def nearest (ents : List (Nat × Ex)) (x : Ex) : Option (Nat × Ex) :=
  ents.foldl
    (fun best c =>
      match best with
      | none => some c
      | some b =>
        let d (y : Ex) : Ex := (x.addZ y.negate false).abs
        if (d c.2).lt (d b.2) then some c else best)
    none

/-- The entries of a codebook that are finite, with their codes. -/
def finEntries (cb : List Nat) : List (Nat × Ex) :=
  (List.range 16).filterMap fun j =>
    match widen .bf16 (cb.getD j 0) with
    | .fin x => some (j, x)
    | _ => none

/-- The code of an infinite value: the largest, or smallest, entry that is not NaN. -/
def extremeCode (cb : List Nat) (neg : Bool) : Option (Nat × Val) :=
  (List.range 16).foldl
    (fun best j =>
      let v := widen .bf16 (cb.getD j 0)
      if v.isNan then best
      else
        match best with
        | none => some (j, v)
        | some b =>
          match vcmp v b.2 with
          | some (lt, eq) => if (if neg then lt else !lt && !eq) then some (j, v) else best
          | none => best)
    none

/-- The nearest entry that is not NaN to a finite value; an infinite entry is nearest only where no entry is finite. Where a NaN
takes code 0 for want of a NaN entry, and where no entry is a number, `IV` is set alone and `IX` is not (DESIGN CHOICE,
notes/assumptions/70.md). -/
def encodeC4 (cb : List Nat) (v : Val) : Nat × Flags :=
  let anyReal := (List.range 16).any fun j => !(widen .bf16 (cb.getD j 0)).isNan
  match v with
  | .nan s =>
    let k := (List.range 16).find? fun j => (widen .bf16 (cb.getD j 0)).isNan
    match k with
    | some j => if anyReal then (j, flagIf s fIV) else (0, fIV)
    | none => (0, fIV)
  | .inf n =>
    match extremeCode cb n with
    | none => (0, fIV)
    | some (j, w) => (j, flagIf (w ≠ .inf n) fIX)
  | .fin x =>
    match nearest (finEntries cb) x with
    | some (j, y) => (j, flagIf (!x.eq y) fIX)
    | none =>
      match (List.range 16).find? fun j => !(widen .bf16 (cb.getD j 0)).isNan with
      | some j => (j, fIX)
      | none => (0, fIV)

/-- Encoding into `O8` or `O4` (R49): `n` bits, zero point `z`. -/
def encodeOff (n z : Nat) (mode : RMode) (v : Val) : Nat × Flags :=
  let top := 2 ^ n - 1
  match v with
  | .nan _ => (z, fIV)
  | .inf neg => (if neg then 0 else top, fSATF ||| fIV)
  | .fin x =>
    let r := roundInt mode x
    let q := r.1 + z
    if q < 0 then (0, fSATF ||| flagIf r.2 fIX)
    else if (top : Int) < q then (top, fSATF ||| flagIf r.2 fIX)
    else (q.toNat, flagIf r.2 fIX)

end Sys2Proof
end

