-- ==== Sys2Proof/WellFormed.lean ====
section
/-!
DEFINITION. Which instructions are well formed: the entry of the opcode accepts every field (R12 to R15, the entries),
the hints are legal (R23, R25, R27), and `FN` is one that the row has. What a stream's profile adds (R28, R29) depends on
the agent that issues the word and is checked at issue. An event row is no word, so every payload is well formed.
-/
namespace Sys2Proof

/-- The instruction is well formed. -/
def Instr.wf (i : Instr) : Bool :=
  match instrForm i with
  | some (opc, f) => legal opc f && decide (instrOf opc f = some i)
  | none =>
    match i with
    | .reservedOpcode w => reservedOpc (w.extractLsb' 88 8).toNat
    | _ => true

/-- The instruction is well formed, as a proposition. -/
abbrev Instr.WellFormed (i : Instr) : Prop := i.wf = true

end Sys2Proof
end

