-- ==== Sys2Proof/Decode.lean ====
section
/-!
DEFINITION. The decoder: from the twelve bytes of an instruction to its row, total, refusing by name; and after it the
encoder, written from the same tables of the spec (R8 to R15, R34).
-/
namespace Sys2Proof

/-- Why a word is no instruction. Each is a reserved or illegal field, which traps `ILLOP` under an active lane (R31). -/
inductive DecodeError where
  /-- Fewer than twelve bytes. -/
  | tooShort
  /-- A reserved operand code in `D`, `A` or `B` (R10, R11). -/
  | reservedOperand
  /-- `FN` names no variant of the opcode (R9). -/
  | reservedFunction
  /-- A field that the opcode's entry does not accept, or an illegal hint (R12, R13, R15, R23, R25, R27). -/
  | illegalField
  deriving DecidableEq, Repr

/-- The fields of a word (R9); none where an operand code is reserved. -/
def fieldsOf (w : BitVec 96) : Option Fields :=
  match opdOf (w.extractLsb' 60 11), opdOf (w.extractLsb' 49 11), opdOf (w.extractLsb' 38 11) with
  | some d, some a, some b =>
    some { fn := w.extractLsb' 84 4, gn := w.getLsbD 83, gp := w.extractLsb' 79 4, la := w.extractLsb' 75 4,
           ka := w.getLsbD 74, yh := w.getLsbD 73, cc := w.extractLsb' 71 2, d := d, a := a, b := b,
           mod := w.extractLsb' 32 6, x := w.extractLsb' 0 32 }
  | _, _, _ => none

/-- The opcode of a word. -/
def opcodeOf (w : BitVec 96) : Nat := (w.extractLsb' 88 8).toNat

/-- Decodes a word (R9 to R15, R30). -/
def decodeWord (w : BitVec 96) : Except DecodeError Instr :=
  if reservedOpc (opcodeOf w) then .ok (.reservedOpcode w)
  else
    match fieldsOf w with
    | none => .error .reservedOperand
    | some f =>
      match instrOf (opcodeOf w) f with
      | none => .error .reservedFunction
      | some i => if legal (opcodeOf w) f then .ok i else .error .illegalField

/-- Four little-endian bytes as a word. -/
def le32 (b0 b1 b2 b3 : Byte) : BitVec 32 := b3 ++ b2 ++ b1 ++ b0

/-- The 96-bit word that twelve bytes hold: three little-endian 32-bit words, bits [31:0] first (R8). -/
def wordOfBytes : List Byte → Option (BitVec 96)
  | b0 :: b1 :: b2 :: b3 :: b4 :: b5 :: b6 :: b7 :: b8 :: b9 :: b10 :: b11 :: _ =>
    some (le32 b8 b9 b10 b11 ++ le32 b4 b5 b6 b7 ++ le32 b0 b1 b2 b3)
  | _ => none

/-- Decodes the instruction at the head of a list of bytes. -/
def decode (bs : List Byte) : Except DecodeError Instr :=
  match wordOfBytes bs with
  | none => .error .tooShort
  | some w => decodeWord w

/-- The twelve bytes of a word, lowest address first (R8). -/
def bytesOfWord (w : BitVec 96) : List Byte :=
  [w.extractLsb' 0 8, w.extractLsb' 8 8, w.extractLsb' 16 8, w.extractLsb' 24 8, w.extractLsb' 32 8, w.extractLsb' 40 8,
   w.extractLsb' 48 8, w.extractLsb' 56 8, w.extractLsb' 64 8, w.extractLsb' 72 8, w.extractLsb' 80 8, w.extractLsb' 88 8]

/-- The word of an opcode and its fields (R9). -/
def wordOf (opc : Nat) (f : Fields) : BitVec 96 :=
  BitVec.ofNat 8 opc ++ f.fn ++ BitVec.ofBool f.gn ++ f.gp ++ f.la ++ BitVec.ofBool f.ka ++ BitVec.ofBool f.yh ++ f.cc ++
    opdCode f.d ++ opdCode f.a ++ opdCode f.b ++ f.mod ++ f.x

/-- The word of an instruction; an event row is no word. -/
def encode (i : Instr) : Option (BitVec 96) :=
  match i with
  | .reservedOpcode w => some w
  | _ => (instrForm i).map fun p => wordOf p.1 p.2

/-- The host's numbering of a word's bits: bit 0 is the least significant bit of the first word. -/
def decodeTableWord (_nbits w : Nat) : Option Instr :=
  match decode (bytesOfWord (BitVec.ofNat 96 w)) with
  | .ok i => some i
  | .error _ => none

end Sys2Proof
end

