-- ==== Sys2Proof/Config.lean ====
section
/-!
DEFINITION. The values that the spec leaves to each device: free values without a body, so that nothing proved can rest
on one of them (notes/assumptions/9.md).
-/
namespace Sys2Proof.Config

/-- The private part of the device identity key (R369): derived from fused secrets, it never leaves the security block. -/
opaque identityKey : Nat

/-- The secret number of an attempt to sign 128 bytes (R369). -/
opaque quoteNonce : List Byte → Nat → Nat

/-- The 8-byte package serial of a quote (R369). -/
opaque packageSerial : Nat → Byte

/-- Bits [63:32] of a die's open-number counter at reset, from the security block's random source (R383). -/
opaque openSeed : Nat → BitVec 32

/-- The MAC address of a port (R382: the spec gives none). -/
opaque portMac : Nat → BitVec 48

/-- The set of a line in a cache: level 1 for a core's L1, 2 for an L2 slice (R160, R295: the spec gives no index). -/
opaque cacheSet : Nat → Nat → Nat

/-- The ways of an L1 set (R139, R160: the spec gives none). -/
opaque l1Ways : Nat

/-- A value the spec does not fix, drawn with the counter `State.fresh`. -/
opaque freeValue : Nat → Dword

end Sys2Proof.Config
end

