-- ==== Sys2Proof/Machine/State.lean ====
section
/-!
DEFINITION. The state of a Ngaura package as plain data: the registers and waits of every issuing agent, the blocks, the
cores, the dies, the system die, physical memory, and the model's own fields that say which agent moves next.
-/
namespace Sys2Proof.Machine

/-- Why a step has no next state. Both are safe: no instruction of the spec ends so. -/
inductive Fault where
  /-- Raised by a meaning that is run while `State.cur` names no agent with registers; safe, since no word issues then. -/
  | noAgent
  deriving DecidableEq, Repr

/-- Why an instruction is refused. -/
inductive Refusal where
  /-- Raised by an arm of `exec` whose instruction has no meaning yet; safe. -/
  | notModelled (mnemonic : String)
  deriving DecidableEq, Repr

/-! ### Issuing agents -/

/-- Where a group stands (R141, R144); `ended` once its last lane has exited (R63). -/
inductive GState where
  | active | parked | pending | swapped | evicted | ended
  deriving DecidableEq, Repr

/-- The events that hold an agent (R142, R229). `halt` and `remote` are those of `HALT` (R375) and of a remote scratchpad access
(R245), which stop a group's issue without parking it, as `own` does for a group (R389, R391). -/
inductive Wait where
  | none | dep | bar | tile | clause | queue | fault | sleep | vrec | join | batch | kern | lockTable | pcur | own
  | halt | remote
  deriving DecidableEq, Repr

/-- A replay entry (R143, R162): the word, the lanes to replay and their addresses; `armed` once the group is resumed at
`pc` without redirection (R163). -/
structure Replay where
  word : BitVec 96
  pc : Dword
  lanes : Mask
  addrs : Tab Dword
  armed : Bool
  /-- Written by a deferred `ECCU`: the group goes on at its pc after the replay (R163). -/
  deferred : Bool
  deriving DecidableEq, Repr

/-- An outstanding register result of a long-latency instruction with a lookahead window (R23, R24). -/
structure Outstanding where
  /-- Words that may still issue before the result must be written. -/
  window : Nat
  /-- A word of the window has issued. -/
  opened : Bool
  word : BitVec 96
  pc : Dword
  /-- Vector writes: key 64 n + lane. -/
  vw : List (Nat × Word)
  sw : List (Nat × Dword)
  /-- Predicate writes: number, lanes, value. -/
  pw : List (Nat × Mask × Mask)
  /-- Codebook writes: key 16 n + j. -/
  kw : List (Nat × BitVec 16)
  flags : BitVec 32
  /-- Lanes whose data is uncorrectable (R327), with the detail code and their addresses. -/
  eccu : Mask
  ecode : BitVec 32
  addrs : Tab Dword
  deriving DecidableEq, Repr

/-- A region recorded by `TLBI.VA.CHK` (R330). -/
structure Region where
  asid : BitVec 16
  base : Nat
  size : Nat
  deriving DecidableEq, Repr

/-- A poisoned register lane (R327): a vector register lane (key 64 n + lane) or a scalar register; `stored` where the
error arose in the group store. -/
structure BadReg where
  scalar : Bool
  key : Nat
  stored : Bool
  deriving DecidableEq, Repr

/-- A scratchpad access with remote lanes that its target cores have not yet accepted (R245). -/
structure RemoteReq where
  opc : Nat
  f : Fields
  act : Mask
  deriving DecidableEq, Repr

/-- A `CLENT` that waits (R255): its word, its active lanes, the keys this issue entered with their home dies, and the lanes
that failed with cause and detail code. With `redo` a spill access of one of its requests, or of a `CLTRY`'s, has faulted (R252): the
word issues again, and goes on from what it has. -/
structure ClauseWait where
  word : BitVec 96
  act : Mask
  made : List (Nat × Dword)
  fails : List (Nat × Nat × BitVec 32)
  /-- Calling lanes' keys, by lane. -/
  keys : Tab Dword
  redo : Bool
  deriving DecidableEq, Repr

/-- An edge of a clause cycle (R258). -/
structure Evidence where
  key : Dword
  seq : Word
  grpno : Nat
  origid : Word
  holdOrigid : Word
  blkno : Dword
  core : Nat
  nseq : Word
  deriving DecidableEq, Repr

/-- A single-copy atomic access of a memory word that is not yet performed (R304): its lane, address as issued and physical
address, the page that translated it, the place among the lane's bytes, its length, the store data or operand with the compared
value, and the lanes that it serves. -/
structure Part where
  lane : Nat
  va : Nat
  phys : Nat
  page : Nat × Nat
  off : Nat
  len : Nat
  b : Nat
  d : Nat
  lanes : List Nat
  deriving DecidableEq, Repr

/-- What a trapped word hands to trap entry. -/
structure Trap where
  cause : Nat
  detail : BitVec 32
  /-- Trapping lanes (R73). -/
  lanes : Mask
  cdetail : Dword
  /-- Data addresses by lane (R74). -/
  addrs : Tab Dword
  evidence : List Evidence
  /-- The pc of the load of a deferred `ECCU` (R327). -/
  loadpc : Dword
  deriving DecidableEq, Repr

/-- A memory word that has issued and whose accesses are performed one at a time (R304): the accesses left, what those performed have
given by lane and place, the results that helper lanes receive, and how the word ends where lanes failed: with uncorrectable data
noted under a lookahead count (R327), or with a trap and a replay entry (R162). A `TLBI` has removed an entry that translated one of
its accesses where `stale` (R331). -/
structure MemJob where
  opc : Nat
  f : Fields
  act : Mask
  parts : List Part
  got : List (Nat × Nat × List Byte)
  zero : List Nat
  late : Mask
  ecode : BitVec 32
  addrs : Tab Dword
  fail : Option (Trap × Replay)
  stale : Bool
  deriving DecidableEq, Repr

/-- A `VIEW` that waits for a view record: what it took at its issue (R284). -/
structure ViewAsk where
  tile : Nat
  chan : Nat
  mode : Nat
  rows : Nat
  cols : Nat
  camAddr : Dword
  cut : Dword
  cam : List Byte
  /-- The place of the word in the order of issue (R278). -/
  age : Nat
  deriving DecidableEq, Repr

/-- The registers of one issuing agent (R59, R188, R209) and its waits (R142 to R144). A matrix stream and a phrase context
use the scalar registers only. `P15` is not stored: it reads as ones (R61). -/
structure Thread where
  pc : Dword
  /-- Vector registers: key 64 n + lane. -/
  v : Tab Word
  s : Tab Dword
  /-- Predicates: one mask each. -/
  p : Tab Mask
  /-- Codebook registers: key 16 n + j. -/
  k : Tab (BitVec 16)
  /-- Supervisor vectors: key 64 n + lane. -/
  xv : Tab Word
  xs : Tab Dword
  exm : Mask
  live : Mask
  help : Mask
  /-- Group status; bit 31 is `SUP` (R69). -/
  gst : BitVec 32
  origid : Tab Word
  /-- Vector registers allocated (R60). -/
  nalloc : Nat
  /-- `MSUP` of a matrix stream (R192). -/
  msup : Bool
  gstate : GState
  wait : Wait
  warg : BitVec 6
  /-- A parked trap: cause, detail code, trapping lanes, cause detail, lanes' addresses (R143, R144). -/
  cause : BitVec 8
  detail : BitVec 32
  tlanes : Mask
  cdetail : Dword
  taddrs : Tab Dword
  /-- Remaining `SLEEP` cycles (R123). -/
  sleep : Nat
  /-- Cycles ready without issue (R147). -/
  ready : Nat
  /-- Issued in the current cycle of its cluster (R147). -/
  issued : Bool
  /-- Launch sequence number (R143). -/
  age : Nat
  prio : BitVec 3
  vdepth : BitVec 2
  replay : Option Replay
  outstanding : List Outstanding
  /-- The operand held by the reuse latch, with the length of its run (R25). -/
  latch : Option (Opd × Nat)
  /-- The last word had `YH`: another ready group is preferred for the next issue slot (R26, R147). -/
  yh : Bool
  /-- Groups that must have their issue opportunity before this one (R123). -/
  yieldTo : List Agent
  /-- The group has yielded and has neither issued nor given up its place since (R123). -/
  yielding : Bool
  /-- Cycles the next word has waited on a register result (R142). -/
  depWait : Nat
  /-- Cycles since the group parked, by which the longest wait is told (R146, R148). -/
  waited : Nat
  regions : List Region
  remote : Option RemoteReq
  bad : List BadReg
  clause : Option ClauseWait
  /-- A memory word whose accesses are being performed (R304). -/
  job : Option MemJob
  /-- A view that waits for a record (R284). -/
  ask : Option ViewAsk
  deriving DecidableEq, Repr

/-! ### Phrase engines -/

/-- A tensor layout record (R210). -/
structure Layout where
  kind : Nat
  esz : Nat
  ndim : Nat
  fill : BitVec 32
  base : Dword
  ext : List Nat
  str : List Dword
  idxbase : Dword
  ibound : Nat
  tw : Nat
  th : Nat
  swz : Nat
  deriving DecidableEq, Repr

/-- A transfer's endpoint as read at issue (R213, R214). -/
inductive Endpoint where
  | mem (recAddr : Dword) (l : Layout) (origin : List Dword)
  | spad (addr : Dword)
  | tile (t start : Nat)
  | fab (pkg : Dword) (addr : Dword)
  | port (q : Nat)
  deriving DecidableEq, Repr

/-- A transfer slot of a phrase context (R215, R224). -/
structure PhSlot where
  opc : Nat
  f : Fields
  pc : Dword
  /-- Stopped on a fault (R224). -/
  stopped : Bool
  /-- Range locks registered (R216). -/
  locked : Bool
  n : Nat
  cursor : Nat
  esz : Nat
  dst : Endpoint
  src : Endpoint
  /-- Order of issue, for transfers that overlap (R215). -/
  order : Nat
  asked : Bool
  leave : Bool
  /-- The operation tag of the frame of the chunk at the cursor that is in flight (R387). -/
  sent : Option Dword
  deriving DecidableEq, Repr

/-- A phrase context beside its registers (R209, R229). -/
structure PCtx where
  launched : Bool
  block : Nat
  issuer : Nat
  batch : BitVec 32
  status : BitVec 32
  slots : Tab PhSlot
  /-- The most recent data instruction: its order, its count, and its cursor once it has completed (R238). -/
  last : Option (Nat × Nat × Nat)
  nextOrder : Nat
  /-- A phrase engine runs the context; the engine that runs it or ran it last (R208). -/
  running : Bool
  engine : Nat
  deriving DecidableEq, Repr

/-- A queued `PHRS` request (R231). -/
structure PReq where
  block : Nat
  grp : Nat
  prog : Dword
  recAddr : Dword
  vals : List Word
  lane : Nat
  batch : BitVec 32
  deriving DecidableEq, Repr

/-! ### Blocks -/

/-- A counted barrier (R167, R175). -/
structure Barrier where
  exp : Nat
  cnt : Nat
  ph : Bool
  arr : Mask
  tv : Mask
  tp : Mask
  deriving DecidableEq, Repr

/-- A tile's `STATE` (R178). -/
inductive TState where
  | empty | filling | ready | draining
  deriving DecidableEq, Repr

/-- A tile's format (R178). -/
inductive TFmt where
  | d32 | d16b | d16h | lrf
  deriving DecidableEq, Repr

/-- Who holds a tile that is `FILLING` or `DRAINING` (R181). -/
inductive Filler where
  | nobody | matrix | view | phrase
  deriving DecidableEq, Repr

/-- A tile register's descriptor (R178) and view status word, bits [31:0] of R276. -/
structure Tile where
  st : TState
  by' : Filler
  sbase : Nat
  nslot : Nat
  rcap : Nat
  rank : Nat
  fmt : TFmt
  rows : Nat
  cols : Nat
  vstat : BitVec 32
  deriving DecidableEq, Repr

/-- A sealed or open batch: number, status of its ended programs (R219). -/
structure Batch where
  num : BitVec 32
  status : BitVec 32
  deriving DecidableEq, Repr

/-- The batches of one group (R219). -/
structure Batches where
  ob : Batch
  sealedB : List Batch
  acc : BitVec 32
  deriving DecidableEq, Repr

/-- A matrix word waiting for its grant (R189) and how far its leave is (R264). -/
structure MxHead where
  opc : Nat
  f : Fields
  pc : Dword
  asked : Bool
  leave : Bool
  deriving DecidableEq, Repr

/-- A phrase context that a full eviction took off its core (R227): the context it held there, and its registers. -/
structure SavedCtx where
  ctx : Nat
  p : PCtx
  t : Thread
  deriving DecidableEq, Repr

/-- A resident or evicted block (R149, R167, R177, R188, R222). -/
structure Block where
  grid : Nat
  blkno : Dword
  asid : BitVec 16
  /-- Bits [31:16] of the register `ASID`, which name no address space (R67, R125). -/
  asidHi : BitVec 16
  /-- Core on which it is resident, or the last one (R174). -/
  core : Nat
  pos : Nat
  base : Nat
  resident : Bool
  ngrp : Nat
  /-- Groups not ended, groups whose records are in memory (R173). -/
  notEnded : Mask
  inMem : Mask
  nalloc : Nat
  spadBytes : Nat
  hasMs : Bool
  hasAp : Bool
  msEnded : Bool
  apEnded : Bool
  /-- Context of the access program: core and context number. -/
  apCtx : Nat
  tol : Word
  vc : Word
  tctl : Word
  bars : List Barrier
  /-- Evicted groups whose recorded barrier wait a completion has ended (R171). -/
  barDone : Mask
  nt : Nat
  ns : Nat
  wb : Nat
  ws : Nat
  tiles : Tab Tile
  /-- Slot bytes: key 256 slot + byte (R179). -/
  slots : Tab Byte
  /-- Poisoned 32-byte granules: 8 slot + granule (R327). -/
  badSlots : List Nat
  /-- Matrix codebooks: key 16 n + j (R195). -/
  cbs : Tab (BitVec 16)
  spad : Tab Byte
  /-- Entries of the queue ports, oldest first (R222). -/
  ports : Tab (List (List Word))
  batches : Tab Batches
  mq : Option MxHead
  /-- Save area held (R346). -/
  save : Nat
  /-- Phrase contexts and queued requests that a full eviction took off the core (R227). -/
  saved : List SavedCtx
  requests : List PReq
  /-- Runs untranslated, as the boot process leaves the resident kernel (notes/assumptions/7.md). -/
  physical : Bool
  deriving DecidableEq, Repr

/-! ### Cores -/

/-- A byte of a cache: its value and whether it is dirty (R297, R151); of a dirty byte the class of its store, as it goes on under it:
its retention below L1 and its cache index (R300, R301). -/
structure CByte where
  val : Byte
  dirty : Bool
  ret : Nat := 0
  cidx : Nat := 0
  deriving DecidableEq, Repr

/-- A line that a cache holds: who allocated it, by cache index, and its retention level (R300, R302). -/
structure Tag where
  line : Nat
  owner : Nat
  ret : Nat
  deriving DecidableEq, Repr

/-- A timestamp of the SC order (R307). -/
structure ScTime where
  t : BitVec 48
  c : Nat
  deriving DecidableEq, Repr

/-- A cached entry (R320): the addresses it covers, the entry, where it stands, its level, and whether it is a leaf. -/
structure TlbEnt where
  asid : BitVec 16
  base : Nat
  size : Nat
  pte : Dword
  pteAddr : Nat
  level : Nat
  leaf : Bool
  deriving DecidableEq, Repr

/-- A translation buffer (R320): of a core, of the units of a die (16 the system die), of the network port or of the storage port. -/
inductive TlbAt where
  | core (c : Nat)
  | die (d : Nat)
  | net
  | storage
  deriving DecidableEq, Repr

/-- Power gating of a core (R248, R367). -/
inductive Gating where
  | on | gating | gated
  deriving DecidableEq, Repr

/-- A matrix instruction in progress with the result it will write (R189, R190). -/
structure MxJob where
  block : Nat
  /-- Destination tile and its descriptor on completion. -/
  dst : Option (Nat × Tile)
  /-- Slot bytes written on completion: key 256 slot + byte. -/
  bytes : List (Nat × Byte)
  /-- Flags ORed into `TCTL` (R186). -/
  flags : Word
  cbs : List (Nat × BitVec 16)
  cycles : Nat
  deriving DecidableEq, Repr

/-- A swap in progress on a slice (R145). -/
structure Swap where
  inn : Option Agent
  out : Option Agent
  deriving DecidableEq, Repr

/-- A core: compute core, system core (0x1000 + n) or firmware core (0x1020) (R139, R337). -/
structure Core where
  gating : Gating
  l1 : Tab CByte
  /-- Lines allocated in L1, the most recently used first (R300). -/
  l1Tags : List Tag
  /-- Pinned L1 lines with their context (R160). -/
  pins : List (Nat × BitVec 16)
  /-- Bytes of the core store that are scratchpad (R149). -/
  spadShare : Nat
  progwin : Word
  /-- Cycles without issue of each slice (R148). -/
  noIssue : Tab Nat
  /-- Lamport clock (R307), and the greatest timestamp performed at the core's L1 (R308). -/
  lamport : BitVec 48
  scMax : ScTime
  mx : Option MxJob
  /-- Placement position last granted (R189). -/
  lastGrant : Nat
  preq : List PReq
  pctx : Tab PCtx
  tlb : List TlbEnt
  swaps : Tab Swap
  /-- Issue slots taken in this cycle: slices 0 to 15, and 16 the uniform sequencer (R140, R189). -/
  used : List Nat
  /-- Placement position whose stream issued last (R189). -/
  turn : Nat
  deriving DecidableEq, Repr

/-! ### Dies -/

/-- The identity of a clause's holder (R250); the core is not part of it (R259). -/
structure Holder where
  block : Nat
  grp : Nat
  origid : Word
  deriving DecidableEq, Repr

/-- A lane that waits on a key: its group, lane, sequence, cycles waited (R250, R257). -/
structure Waiter where
  block : Nat
  grp : Nat
  lane : Nat
  origid : Word
  seq : Word
  cycles : Nat
  deriving DecidableEq, Repr

/-- A clause key table entry (R250). -/
structure KeyEnt where
  key : Dword
  asid : BitVec 16
  nseq : Word
  poison : Bool
  holder : Option Holder
  waiters : List Waiter
  deriving DecidableEq, Repr

/-- Who registered a range lock: a transfer slot, or a frame at the network port (R216, R386). -/
inductive LockOwner where
  | slot (core ctx slot : Nat)
  /-- A slot of a context that a full eviction saved: block, place among its saved contexts, slot (R227). -/
  | saved (block idx slot : Nat)
  | port
  /-- A request of the device behind the storage port (R309). -/
  | device
  deriving DecidableEq, Repr

/-- A range lock: bytes `lo` to `hi - 1` of an address space (R216). -/
structure RLock where
  asid : BitVec 16
  lo : Nat
  hi : Nat
  write : Bool
  owner : LockOwner
  deriving DecidableEq, Repr

/-- A held clause as the records list it (R260). -/
structure HeldEnt where
  key : Dword
  seq : Word
  grpno : Nat
  origid : Word
  poison : Bool
  deriving DecidableEq, Repr

/-- A fault record (R323). -/
structure FaultRec where
  cause : BitVec 8
  agent : Nat
  kind : Nat
  asid : BitVec 16
  core : Nat
  detail : BitVec 32
  cdetail : Dword
  pc : Dword
  word : BitVec 96
  lanes : Mask
  blkno : Dword
  gridRec : Dword
  grpno : Nat
  ctx : Nat
  slot : Nat
  batch : BitVec 32
  cursor : Nat
  addr : Dword
  nclauses : Nat
  clauses : List HeldEnt
  loadpc : Dword
  xs : List Dword
  addrs : Tab Dword
  evidence : List Evidence
  deriving DecidableEq, Repr

/-- What asks for leave (R264). -/
inductive LeaveFor where
  | matrix (block : Nat)
  | chunk (core ctx slot : Nat)
  | row (view : Nat)
  deriving DecidableEq, Repr

/-- A leave request (R264). -/
structure LeaveReq where
  who : LeaveFor
  cost : Nat
  prio : Nat
  /-- Cycles it has waited (R147, R264). -/
  wait : Nat
  deriving DecidableEq, Repr

/-- A die: 0 to 15 compute, 16 the system die. -/
structure Die where
  clk : Dword
  fbovf : Bool
  fbuf : List FaultRec
  held : List FaultRec
  errcnt : Dword
  ftring : Dword
  ftidx : Dword
  viewcfg : Dword
  pacfg : Dword
  count : Int
  level : Nat
  heldcyc : Nat
  /-- The update of the level at the end of this cycle is due (R263). -/
  levelDue : Bool
  /-- Debits of the current cycle (R262). -/
  debit : Nat
  cbok : Bool
  slewEvents : BitVec 24
  slewCycles : BitVec 24
  slewHold : Bool
  /-- Cycles of the hold so far (R366). -/
  slewLen : Nat
  intpend : Dword
  introute : Dword
  keys : List KeyEnt
  locks : List RLock
  rdc : Tab CByte
  /-- Lines of the remote-data cache and of the L2, the most recently used first (R295, R297, R300). -/
  rdcTags : List Tag
  l2Tags : List Tag
  pins : List (Nat × BitVec 16)
  /-- Child grids in the pending pool, by index, and the generation of each index (R360, R371). -/
  pool : Tab Nat
  gens : Tab Word
  /-- Of an index whose child a `JOIN` has freed and no `LAUNCH` has used since: the child's parent and its status (R372). -/
  joined : Tab (Nat × Nat)
  leaves : List LeaveReq
  /-- The greatest timestamp performed at each slice, and, under key 64, at the remote-data cache (R307). -/
  scMax : Tab ScTime
  /-- Energy debit of each context, contexts stopped (R364). -/
  ctxDebit : Tab Nat
  stopped : List (BitVec 16)
  /-- Translation buffer of the view unit and the key table (R320). -/
  tlb : List TlbEnt
  /-- Open-number counter, once its random half is drawn (R383). -/
  openNo : Option Dword
  deriving DecidableEq, Repr

/-! ### Grids and views -/

/-- A parsed kernel descriptor with its tile initialisation table (R343). -/
structure Kernel where
  entry : Dword
  mstream : Dword
  access : Dword
  nalloc : Nat
  ngrp : Nat
  nt : Nat
  ns : Nat
  spad : Nat
  tiles : List (Nat × Word)
  deriving DecidableEq, Repr

/-- The lane inputs of a shading group (R273). -/
structure Shade where
  view : Nat
  launch : Mask
  helpers : Mask
  vregs : List (Nat × Word)
  /-- Vertex columns and rows of the subgrid. -/
  a : Nat
  b : Nat
  sub : Nat
  deriving DecidableEq, Repr

/-- A grid: its record, where its blocks may go and how far it is (R344 to R348, R360). -/
structure Grid where
  recAddr : Dword
  asid : BitVec 16
  dies : BitVec 16
  prio : BitVec 3
  queue : Option Nat
  packet : Nat
  age : Nat
  kernel : Kernel
  nblk : Nat
  nlane : Nat
  hq : Bool
  signal : Dword
  args : List Dword
  placed : Nat
  endedBlocks : Nat
  parent : Option Nat
  /-- Pool record of a child grid: die and index. -/
  poolRec : Option (Nat × Nat)
  shade : Option Shade
  terminated : Bool
  /-- 0 running, 1 status written, 2 complete; and whether the completion waits on a fault (R347). -/
  stage : Nat
  stalled : Bool
  status : BitVec 16
  vdepth : BitVec 2
  deriving DecidableEq, Repr

/-- A point or vector with exact `F32` coordinates kept as their encodings. -/
structure Vec3 where
  x : Word
  y : Word
  z : Word
  deriving DecidableEq, Repr

/-- A primitive record as read (R269). -/
structure Prim where
  quad : Bool
  motion : Bool
  ident : Word
  p : List Vec3
  q : List Vec3
  colour : Word
  deriving DecidableEq, Repr

/-- A subgrid whose shading is in flight or done (R272, R273). -/
structure Sub where
  prim : Nat
  nu : Nat
  nv : Nat
  k : Nat
  m : Nat
  a : Nat
  b : Nat
  /-- Position and colour of each vertex, row by row, as diced or as shaded. -/
  verts : List (Vec3 × Word)
  done : Bool
  deriving DecidableEq, Repr

/-- Where a view is (R278). -/
inductive VPhase where
  | dice | shade | sample | resolved
  deriving DecidableEq, Repr

/-- A view in flight (R284): requester, tile, camera copy, cut, channel and mode. -/
structure View where
  block : Nat
  grp : Nat
  tile : Nat
  die : Nat
  pc : Dword
  level : Nat
  asid : BitVec 16
  prio : BitVec 3
  grid : Nat
  camAddr : Dword
  cam : List Byte
  cut : Dword
  chan : Nat
  mode : Nat
  rows : Nat
  cols : Nat
  age : Nat
  phase : VPhase
  fault : Bool
  /-- Withdrawn by `VCAN` or ended: the image is discarded (R286). -/
  withdrawn : Bool
  /-- The bytes of the cut record and of the primitive array that have been read (R287). -/
  cutBytes : List Byte
  primBytes : List Byte
  prims : List Prim
  subs : List Sub
  shadesLeft : Nat
  bg : Word
  row : Nat
  pixels : List Word
  asked : Bool
  leave : Bool
  deriving DecidableEq, Repr

/-! ### System die -/

/-- An access of a taken `ADD32` or `WRITE64` packet that is not yet performed (R352). -/
structure InFlight where
  idx : Nat
  /-- The place of its word among those of the firmware group: the lanes of one word have one. -/
  order : Nat
  is64 : Bool
  va : Nat
  phys : Nat
  /-- The page of the entry that translated it: its base and its size. -/
  page : Nat × Nat
  value : Dword
  /-- A `TLBI` has removed the entry that translated it (R331). -/
  stale : Bool
  deriving DecidableEq, Repr

/-- A command queue (R349, R301). -/
structure Queue where
  qbase : Dword
  qcfg : Dword
  qcache : Dword
  qstate : BitVec 3
  ecode : BitVec 5
  hcode : BitVec 8
  outst : BitVec 16
  ridx : Word
  /-- Failed attempts of the gang at `RIDX` (R359). -/
  attempts : Nat
  /-- Dies on which no other work is placed until the gang at `RIDX` commits (R359). -/
  drain : BitVec 16
  flight : List InFlight
  /-- Grid and gang packets in flight: packet index and the grids of the packet. -/
  gangs : List (Nat × List Nat)
  deriving DecidableEq, Repr

/-- What a frame in flight belongs to (R384, R387): a chunk by its place, a signal with the identity of its group, read data with the
lock that its request holds until it is sent (R386). -/
inductive FrameFor where
  | chunk (core ctx slot : Nat)
  | signal (block grp : Nat) (asid : BitVec 16) (blkno gridRec : Dword)
  | reply (lock : RLock)
  deriving DecidableEq, Repr

/-- The sending side of a flow (R383). -/
structure Flow where
  die : Nat
  pkg : Nat
  openNo : Dword
  nextSeq : Word
  unacked : List (Frame × FrameFor)
  /-- The last so many of `unacked` have found no port yet (R388). -/
  unsent : Nat
  /-- Frames for which the flow has no room yet. -/
  waiting : List (Frame × FrameFor)
  timeouts : Nat
  port : Option Nat
  held : Bool
  acked : Bool
  deriving DecidableEq, Repr

/-- A frame that a fault holds, with the peer entry read for it and its range lock (R381, R385, R386). -/
structure HeldFrame where
  frame : Frame
  peer : List Byte
  lock : RLock
  deriving DecidableEq, Repr

/-- The receiving side of a flow (R383); `frame` is one that a fault holds (R385). -/
structure RxFlow where
  pkg : Nat
  die : Nat
  openNo : Dword
  expected : Word
  frame : Option HeldFrame
  deriving DecidableEq, Repr

/-- The kernel ring of a port as the port last read its record (R395): where the record stands and its fields. -/
structure KRing where
  at' : Nat
  tx : Nat
  rx : Nat
  size : Nat
  txTail : Nat
  txHead : Nat
  rxTail : Nat
  rxHead : Nat
  deriving DecidableEq, Repr

/-- The system die's words and units. -/
structure Sys where
  kvec : Dword
  ctxbase : Dword
  bootstat : Dword
  attcmd : Dword
  queues : Tab Queue
  fabcfg : Dword
  retx : Word
  flowfail : BitVec 16
  peertab : Dword
  spcfg : Dword
  portstat : Tab Dword
  kring : Tab Dword
  /-- The rings as their ports have read them, and the ports that a write of `KRING` has told to read (R379, R395). -/
  rings : Tab KRing
  ringDue : List Nat
  flows : List Flow
  rxflows : List RxFlow
  /-- The operation tag of the next chunk's frame (R382). -/
  tagNo : Dword
  /-- Boot has run; it succeeded, so cores may run (R367, R368). -/
  booted : Bool
  running : Bool
  fuseHash : BitVec 256
  fuseFw : Dword
  fuseKernel : Dword
  fwHash : BitVec 256
  kernelHash : BitVec 256
  /-- A quote was started and its buffer (R369). -/
  quote : Option Dword
  /-- The mark that the system die last sent to every core: no clock is below it (R307). -/
  scMark : BitVec 48
  /-- Translation buffers of the network port and of the storage port (R320). -/
  netTlb : List TlbEnt
  storageTlb : List TlbEnt
  /-- Frames lost on reception (R382). -/
  lost : Nat
  /-- Frames handed to the network, newest last. -/
  wire : List Frame
  /-- Kernel-ring frames transmitted, newest last. -/
  sentRaw : List (List Byte)
  deriving DecidableEq, Repr

/-! ### The machine -/

/-- A soft error's place (R327). -/
inductive ErrUnit where
  | line (addr : Nat)
  | l1Line (core addr : Nat)
  | reg (a : Agent) (b : BadReg)
  | granule (block key : Nat)
  deriving DecidableEq, Repr

/-- What moves next. Rows of the table and issues stand beside the movements of cached data, which no row names. -/
inductive Move where
  /-- The agent's next word issues. -/
  | issue (a : Agent)
  /-- An event row. -/
  | event (i : Instr)
  /-- A core forwards the dirty bytes of an L1 line, or drops its clean bytes (R151). -/
  | l1Forward (core line : Nat)
  | l1Drop (core line : Nat)
  /-- A remote-data cache writes back, or drops the clean bytes of, a line (R297). -/
  | rdcForward (die line : Nat)
  | rdcDrop (die line : Nat)
  /-- The remaining bytes of a line that a core's L1, or a die's remote-data cache, holds or was asked for (R161, R296). -/
  | l1Fill (core line : Nat)
  | rdcFill (die line : Nat)
  /-- A translation buffer forgets one of its entries (R320). -/
  | tlbDrop (b : TlbAt) (i : Nat)
  /-- The agent's next word issues, and its accesses are performed one at a time (R304). -/
  | issueParts (a : Agent)
  /-- One of the accesses that an agent's word has left is performed. -/
  | access (a : Agent) (i : Nat)
  /-- A remote scratchpad store is accepted and performed at its target later (R245, R247). -/
  | postStore (a : Agent)
  | posted (i : Nat)
  /-- The resident kernel splits a core's store: units of 64 KiB that are scratchpad (R149). -/
  | storeSplit (core units : Nat)
  /-- A port reads its ring record after a write of `KRING` (R395); an uncorrectable codeword arises on its link (R380). -/
  | ringRead (port : Nat)
  | codeword (port : Nat)
  /-- A request of the device reaches the storage port: its bytes are locked until it is performed (R216, R309). -/
  | deviceLock (write : Bool) (addr : Dword) (len : Nat)
  /-- A correctable or uncorrectable error arises (R327). -/
  | softError (die : Nat) (u : Option ErrUnit)
  deriving DecidableEq, Repr

/-- A remote scratchpad store that its target core has accepted and not yet performed (R245, R247). -/
structure Posted where
  core : Nat
  block : Nat
  off : Nat
  bytes : List Byte
  deriving DecidableEq, Repr

/-- A package. -/
structure State where
  mem : Tab Byte
  /-- Poisoned memory lines (R327). -/
  badLines : List Nat
  threads : List (Agent × Thread)
  blocks : Tab Block
  cores : Tab Core
  dies : Tab Die
  grids : Tab Grid
  views : Tab View
  sys : Sys
  nvme : Tab Byte
  /-- Block size of the namespace (R367), which the device behind the storage port brings (notes/assumptions/8.md). -/
  nvmeBlock : Nat
  /-- Accepted remote stores, oldest first. -/
  posted : List Posted
  nextBlock : Nat
  nextGrid : Nat
  nextView : Nat
  nextAge : Nat
  cur : Agent
  agenda : List Move
  fresh : Nat
  deriving DecidableEq, Repr

/-! ### Reset -/

/-- A core after reset (R67, R149): PROGWIN 65,536, half of the store scratchpad. -/
def Core.reset : Core :=
  { gating := .on, l1 := [], l1Tags := [], scMax := ⟨0, 0⟩, pins := [], spadShare := 0x100000, progwin := 65536, noIssue := [], lamport := 0, mx := none,
    lastGrant := 15, preq := [], pctx := [], tlb := [], swaps := [], used := [], turn := 15 }

/-- `PACFG` after reset (R265). -/
def pacfgReset : Dword := 0x2EE0100000040100#64

/-- `VIEWCFG` after reset (R277). -/
def viewcfgReset : Dword := 0x0004100410041000#64

/-- A die after reset (R265, R277, R321, R324, R328, R340). -/
def Die.reset : Die :=
  { clk := 0, fbovf := false, fbuf := [], held := [], errcnt := 0, ftring := 0, ftidx := 0, viewcfg := viewcfgReset,
    pacfg := pacfgReset, count := 0x100000, level := 0, heldcyc := 0, levelDue := false, debit := 0, cbok := false, slewEvents := 0,
    slewCycles := 0, slewHold := false, slewLen := 0, intpend := 0, introute := 0, keys := [], locks := [], rdc := [], rdcTags := [], l2Tags := [],
    pins := [],
    pool := [], gens := [], joined := [], leaves := [], scMax := [], ctxDebit := [], stopped := [], tlb := [], openNo := none }

/-- A command queue after reset (R349): `STOPPED`, `LOGN` 4. -/
def Queue.reset : Queue :=
  { qbase := 0, qcfg := 4, qcache := 0, qstate := 5, ecode := 0, hcode := 0, outst := 0, ridx := 0, attempts := 0, drain := 0,
    flight := [], gangs := [] }

/-- The system die after reset (R339, R349, R380). -/
def Sys.reset : Sys :=
  { kvec := 0, ctxbase := 0, bootstat := 0, attcmd := 0, queues := [], fabcfg := 0xFFFF88B500000010#64, retx := 0,
    flowfail := 0, peertab := 0, spcfg := 0, portstat := [], kring := [], rings := [], ringDue := [], flows := [], rxflows := [], tagNo := 0, booted := false,
    running := false, fuseHash := 0, fuseFw := 0, fuseKernel := 0, fwHash := 0, kernelHash := 0, quote := none, scMark := 0, netTlb := [],
    storageTlb := [], lost := 0,
    wire := [], sentRaw := [] }

/-- The package right after reset: no block is placed and the boot ROM of system core 0 is what runs first (R367). -/
def State.reset : State :=
  { mem := [], badLines := [], threads := [], blocks := [], cores := [], dies := [], grids := [], views := [],
    sys := Sys.reset, nvme := [], nvmeBlock := 4096, posted := [], nextBlock := 0, nextGrid := 0, nextView := 0, nextAge := 0, cur := .group 0 0, agenda := [],
    fresh := 0 }

end Sys2Proof.Machine
end

