-- ==== Sys2Proof/Machine/Access.lean ====
section
/-!
DEFINITION. Reading and replacing the parts of a state: threads, blocks, cores, dies; and where an agent stands (R28, R59,
R67).
-/
namespace Sys2Proof.Machine

def State.thread? (s : State) (a : Agent) : Option Thread := alook a s.threads
def State.setThread (s : State) (a : Agent) (t : Thread) : State := { s with threads := aput a t s.threads }
def State.block? (s : State) (b : Nat) : Option Block := tlook b s.blocks
def State.setBlock (s : State) (b : Nat) (k : Block) : State := { s with blocks := tput b k s.blocks }
def State.core (s : State) (c : Nat) : Core := tget Core.reset c s.cores
def State.setCore (s : State) (c : Nat) (k : Core) : State := { s with cores := tput c k s.cores }
def State.die (s : State) (d : Nat) : Die := tget Die.reset d s.dies
def State.setDie (s : State) (d : Nat) (x : Die) : State := { s with dies := tput d x s.dies }
def State.queue (s : State) (q : Nat) : Queue := tget Queue.reset q s.sys.queues
def State.setQueue (s : State) (q : Nat) (x : Queue) : State :=
  { s with sys := { s.sys with queues := tput q x s.sys.queues } }

/-- The number of the firmware core, and of the first system core (R67). -/
def firmwareCore : Nat := 0x1020
def systemCore0 : Nat := 0x1000

/-- The die of a core: 16 is the system die (R67). -/
def dieOfCore (c : Nat) : Nat := if c < systemCore0 then c / 96 else 16

/-- Lanes of a group on a core (R59). -/
def lanesOnCore (c : Nat) : Nat := if c = firmwareCore then 64 else if c < systemCore0 then 32 else 1

/-- The block of an agent. -/
def State.blockNo (s : State) (a : Agent) : Nat :=
  match a with
  | .group b _ => b
  | .mstream b => b
  | .phrase c x =>
    match tlook x (s.core c).pctx with
    | some p => p.block
    | none => 0

/-- The core an agent stands on, or last stood on. -/
def State.coreNo (s : State) (a : Agent) : Nat :=
  match a with
  | .group b _ | .mstream b =>
    match s.block? b with
    | some k => k.core
    | none => 0
  | .phrase c _ => c

def State.dieNo (s : State) (a : Agent) : Nat := dieOfCore (s.coreNo a)

/-- The stream an agent runs (R28). -/
def State.stream (s : State) (a : Agent) : Stream :=
  match a with
  | .group _ _ => if s.coreNo a < systemCore0 then .execute else .system
  | .mstream _ => .matrix
  | .phrase _ _ => .access

/-- Lanes of an agent: a stream without lanes counts as one lane, always active (R29). -/
def State.lanes (s : State) (a : Agent) : Nat :=
  match a with
  | .group _ _ => lanesOnCore (s.coreNo a)
  | _ => 1

def State.asidOf (s : State) (a : Agent) : BitVec 16 :=
  match s.block? (s.blockNo a) with
  | some k => k.asid
  | none => 0

/-- The number of an agent among the agents of its block (R167). -/
def agentIndex : Agent → Nat
  | .group _ g => g
  | .mstream _ => 32
  | .phrase _ _ => 33

/-- The grid of an agent. -/
def State.gridNo (s : State) (a : Agent) : Nat :=
  match s.block? (s.blockNo a) with
  | some k => k.grid
  | none => 0

def State.grid? (s : State) (g : Nat) : Option Grid := tlook g s.grids

/-- The next free value (notes/assumptions/9.md). -/
def State.free (s : State) : Dword × State := (Config.freeValue s.fresh, { s with fresh := s.fresh + 1 })

/-- Ones in the first `n` lanes. -/
def fullMask (n : Nat) : Mask := BitVec.ofNat 64 (2 ^ n - 1)

/-- A thread as it stands at launch: every register zero but the lane masks (R59). -/
def Thread.launch (pc : Dword) (nalloc : Nat) (live help : Mask) : Thread :=
  { pc := pc, v := [], s := [], p := [], k := [], xv := [], xs := [], exm := live, live := live, help := help, gst := 0,
    origid := (lanesOf 64 live).map fun l => (l, BitVec.ofNat 32 l), nalloc := nalloc, msup := false, gstate := .active,
    wait := .none, warg := 0, cause := 0, detail := 0, tlanes := 0, cdetail := 0, taddrs := [], sleep := 0, ready := 0, issued := false,
    age := 0, prio := 0, vdepth := 0, replay := none, outstanding := [], latch := none, yh := false, yieldTo := [], yielding := false, depWait := 0, waited := 0,
    regions := [], remote := none, bad := [], clause := none, job := none, ask := none }

/-- The agent is parked on a trap. -/
def Thread.onTrap (t : Thread) : Bool := t.wait = .fault || t.wait = .kern

end Sys2Proof.Machine
end

