-- ==== Sys2Proof/Machine/Crypto.lean ====
section
/-!
DEFINITION. SHA-256, and ECDSA on P-256: the verification of the images' signatures (R367), the device identity key and its signatures
(R369). The spec names both; their constants are those of
FIPS 180-4 and FIPS 186-4 (notes/assumptions/23.md).
-/
namespace Sys2Proof.Machine

/-! ### SHA-256 -/

/-- The round constants. -/
def shaK : List Nat :=
  [0x428A2F98, 0x71374491, 0xB5C0FBCF, 0xE9B5DBA5, 0x3956C25B, 0x59F111F1, 0x923F82A4, 0xAB1C5ED5] ++
  [0xD807AA98, 0x12835B01, 0x243185BE, 0x550C7DC3, 0x72BE5D74, 0x80DEB1FE, 0x9BDC06A7, 0xC19BF174] ++
  [0xE49B69C1, 0xEFBE4786, 0x0FC19DC6, 0x240CA1CC, 0x2DE92C6F, 0x4A7484AA, 0x5CB0A9DC, 0x76F988DA] ++
  [0x983E5152, 0xA831C66D, 0xB00327C8, 0xBF597FC7, 0xC6E00BF3, 0xD5A79147, 0x06CA6351, 0x14292967] ++
  [0x27B70A85, 0x2E1B2138, 0x4D2C6DFC, 0x53380D13, 0x650A7354, 0x766A0ABB, 0x81C2C92E, 0x92722C85] ++
  [0xA2BFE8A1, 0xA81A664B, 0xC24B8B70, 0xC76C51A3, 0xD192E819, 0xD6990624, 0xF40E3585, 0x106AA070] ++
  [0x19A4C116, 0x1E376C08, 0x2748774C, 0x34B0BCB5, 0x391C0CB3, 0x4ED8AA4A, 0x5B9CCA4F, 0x682E6FF3] ++
  [0x748F82EE, 0x78A5636F, 0x84C87814, 0x8CC70208, 0x90BEFFFA, 0xA4506CEB, 0xBEF9A3F7, 0xC67178F2]

/-- The initial hash value. -/
def shaInit : List Word :=
  [0x6A09E667, 0xBB67AE85, 0x3C6EF372, 0xA54FF53A, 0x510E527F, 0x9B05688C, 0x1F83D9AB, 0x5BE0CD19]

/-- A number as `n` big-endian bytes. -/
def beBytes (n v : Nat) : List Byte := (List.range n).map fun i => BitVec.ofNat 8 (v / 256 ^ (n - 1 - i))

/-- Big-endian bytes as a number. -/
def beNat (bs : List Byte) : Nat := bs.foldl (fun acc b => 256 * acc + b.toNat) 0

/-- The padded message. -/
def shaPad (bs : List Byte) : List Byte :=
  bs ++ [0x80] ++ List.replicate ((119 - bs.length % 64) % 64) 0 ++ beBytes 8 (8 * bs.length)

/-- The next words of the message schedule, latest first. -/
def shaExpand : Nat → List Word → List Word
  | 0, w => w
  | n + 1, w =>
    let a := w.getD 1 0
    let b := w.getD 14 0
    let s1 := a.rotateRight 17 ^^^ a.rotateRight 19 ^^^ (a >>> 10)
    let s0 := b.rotateRight 7 ^^^ b.rotateRight 18 ^^^ (b >>> 3)
    shaExpand n ((s1 + w.getD 6 0 + s0 + w.getD 15 0) :: w)

/-- One round. -/
def shaRound (h : List Word) (kw : Nat × Word) : List Word :=
  match h with
  | [a, b, c, d, e, f, g, x] =>
    let s1 := e.rotateRight 6 ^^^ e.rotateRight 11 ^^^ e.rotateRight 25
    let t1 := x + s1 + ((e &&& f) ^^^ (~~~e &&& g)) + BitVec.ofNat 32 kw.1 + kw.2
    let s0 := a.rotateRight 2 ^^^ a.rotateRight 13 ^^^ a.rotateRight 22
    let t2 := s0 + ((a &&& b) ^^^ (a &&& c) ^^^ (b &&& c))
    [t1 + t2, a, b, c, d + t1, e, f, g]
  | l => l

/-- Sixteen words of a block. -/
def shaWords : Nat → List Byte → List Word
  | 0, _ => []
  | n + 1, bs => BitVec.ofNat 32 (beNat (bs.take 4)) :: shaWords n (bs.drop 4)

/-- The hash value after one block of 64 bytes. -/
def shaBlock (h : List Word) (bs : List Byte) : List Word :=
  let w := (shaExpand 48 (shaWords 16 bs).reverse).reverse
  (h.zip ((shaK.zip w).foldl shaRound h)).map fun x => x.1 + x.2

/-- The hash value after `n` blocks. -/
def shaBlocks : Nat → List Word → List Byte → List Word
  | 0, h, _ => h
  | n + 1, h, bs => shaBlocks n (shaBlock h (bs.take 64)) (bs.drop 64)

/-- SHA-256 as a number. -/
def sha256 (bs : List Byte) : BitVec 256 :=
  let m := shaPad bs
  BitVec.ofNat 256 ((shaBlocks (m.length / 64) shaInit m).foldl (fun acc w => acc * 2 ^ 32 + w.toNat) 0)

/-! ### P-256 -/

def ecP : Nat := 2 ^ 256 - 2 ^ 224 + 2 ^ 192 + 2 ^ 96 - 1
def ecN : Nat := 0xFFFFFFFF00000000FFFFFFFFFFFFFFFFBCE6FAADA7179E84F3B9CAC2FC632551
def ecB : Nat := 0x5AC635D8AA3A93E7B3EBBD55769886BC651D06B0CC53B0F63BCE3C3E27D2604B
def ecG : Nat × Nat :=
  (0x6B17D1F2E12C4247F8BCE6E563A440F277037D812DEB33A0F4A13945D898C296,
   0x4FE342E2FE1A7F9B8EE7EB4A7C0F9E162BCE33576B315ECECBB6406837BF51F5)

/-- x ^ e modulo m, over the low `n` bits of e. -/
def powMod (m : Nat) : Nat → Nat → Nat → Nat
  | 0, _, _ => 1 % m
  | n + 1, x, e => (if e % 2 = 1 then x else 1) * powMod m n (x * x % m) (e / 2) % m

/-- The inverse modulo a prime. -/
def invMod (m x : Nat) : Nat := powMod m 256 (x % m) (m - 2)

/-- x − y modulo p. -/
def subP (x y : Nat) : Nat := (x + ecP - y % ecP) % ecP

/-- The sum of two points; none is the point at infinity. -/
def ecAdd (a b : Option (Nat × Nat)) : Option (Nat × Nat) :=
  match a, b with
  | none, q => q
  | q, none => q
  | some (x1, y1), some (x2, y2) =>
    let third (l : Nat) : Option (Nat × Nat) :=
      let x := subP (subP (l * l % ecP) x1) x2
      some (x, subP (l * subP x1 x % ecP) y1)
    if x1 = x2 then
      if (y1 + y2) % ecP = 0 then none
      else third (subP (3 * x1 * x1 % ecP) 3 * invMod ecP (2 * y1) % ecP)
    else third (subP y2 y1 * invMod ecP (subP x2 x1) % ecP)

/-- The multiple of a point by the low `n` bits of k. -/
def ecMul : Nat → Nat → Option (Nat × Nat) → Option (Nat × Nat)
  | 0, _, _ => none
  | n + 1, k, q => ecAdd (if k % 2 = 1 then q else none) (ecMul n (k / 2) (ecAdd q q))

/-- The point is on the curve. -/
def onCurve (x y : Nat) : Bool :=
  decide (x < ecP) && decide (y < ecP) && y * y % ecP = (subP (x * x % ecP * x % ecP) (3 * x % ecP) + ecB) % ecP

/-- The signature (r, s) of a message's hash by the key (x, y) is valid. -/
def ecdsaValid (x y e r s : Nat) : Bool :=
  if !onCurve x y || r = 0 || s = 0 || decide (ecN ≤ r) || decide (ecN ≤ s) then false
  else
    let w := invMod ecN s
    match ecAdd (ecMul 256 (e * w % ecN) (some ecG)) (ecMul 256 (r * w % ecN) (some (x, y))) with
    | none => false
    | some (px, _) => px % ecN = r

/-! ### The device identity key (R369) -/

/-- A number of the order's range, 1 to n - 1. -/
def ecScalar (x : Nat) : Nat := 1 + x % (ecN - 1)

/-- The public key (Qx, Qy) of a private one. -/
def ecPublic (d : Nat) : Nat × Nat := (ecMul 256 d (some ecG)).getD (0, 0)

/-- The signature (r, s) of a hash `e` by the key `d` with the secret number `k`; none where r or s would be 0. -/
def ecdsaSign (d e k : Nat) : Option (Nat × Nat) :=
  let r := (ecPublic k).1 % ecN
  let s := invMod ecN k * ((e + r * d) % ecN) % ecN
  if r = 0 ∨ s = 0 then none else some (r, s)

/-- The device's private key. -/
def identity : Nat := ecScalar Config.identityKey

/-- Word `i` of `ATTPUB`: Qx, then Qy, the most significant word first (DESIGN CHOICE, notes/assumptions/9.md). -/
def attPubWord (i : Nat) : Dword :=
  let q := ecPublic identity
  BitVec.ofNat 64 ((if i < 4 then q.1 else q.2) / 2 ^ (64 * (3 - i % 4)))

/-- The signature by the identity key of 128 bytes: that of the first attempt with a secret number that serves. -/
def quoteSign (m : List Byte) : Nat × Nat :=
  ((List.range 256).findSome? fun i => ecdsaSign identity (sha256 m).toNat (ecScalar (Config.quoteNonce m i))).getD (0, 0)

end Sys2Proof.Machine
end

