-- ==== Sys2Proof/Machine/Device.lean ====
section
/-!
DEFINITION. Device space: the words of the die control blocks, what each reads as and what a write does (R339, R340, R349,
R301, R265, R277, R321, R324, R328, R366, R368, R369, R379, R380, R394).
-/
namespace Sys2Proof.Machine

/-- Bits [lo + n - 1 : lo]. -/
def dbits (v : Dword) (lo n : Nat) : Nat := (v.toNat >>> lo) % 2 ^ n

/-- A number placed at bit `lo`, cut to `n` bits. -/
def dfield (x lo n : Nat) : Dword := BitVec.ofNat 64 ((x % 2 ^ n) <<< lo)

/-- `FBSTAT` (R324). -/
def fbstatWord (x : Die) : Dword :=
  (if x.fbovf then dfield 1 63 1 else 0) ||| dfield x.held.length 32 20 ||| dfield x.fbuf.length 0 13

/-- `PASTAT` (R265): `COUNT` in two's complement. -/
def pastatWord (x : Die) : Dword :=
  ((BitVec.ofInt 64 x.count) <<< 39) ||| dfield x.level 34 5 ||| dfield x.heldcyc 0 34

/-- `SLEWSTAT` (R366). -/
def slewstatWord (x : Die) : Dword :=
  (if x.cbok then dfield 1 63 1 else 0) ||| dfield x.slewEvents.toNat 24 24 ||| dfield x.slewCycles.toNat 0 24

/-- `QSTAT` (R349); `HCODE` stands while the queue is `HELD`. -/
def qstatWord (q : Queue) : Dword :=
  dfield q.qstate.toNat 61 3 ||| dfield q.ecode.toNat 56 5 ||| dfield (if q.qstate = 2#3 then q.hcode.toNat else 0) 48 8 ||| dfield q.outst.toNat 32 16 |||
    dfield q.ridx.toNat 0 32

/-- `FABSTAT` (R380); a flow opens at its sender (R383). -/
def fabstatWord (y : Sys) : Dword :=
  dfield y.retx.toNat 32 32 ||| dfield y.flowfail.toNat 16 16 ||| dfield y.flows.length 0 16

/-- A write to `PACFG` is accepted (R265). -/
def pacfgOk (v : Dword) : Bool :=
  dbits v 48 16 ≠ 0 && decide (dbits v 12 12 < dbits v 0 12) && decide (dbits v 0 12 * 1024 ≤ dbits v 24 24)

/-- A write to `VIEWCFG` is accepted (R277). -/
def viewcfgOk (v : Dword) : Bool :=
  [8, 24, 40].all (fun o => dbits v o 8 ≠ 0) &&
    [16, 32, 48].all (fun o => decide (1 ≤ dbits v o 8) && decide (dbits v o 8 ≤ 32))

/-- A write to `QCACHE` is accepted (R301). -/
def qcacheOk (v : Dword) : Bool :=
  decide (dbits v 48 8 ≤ 63) && decide (dbits v 40 8 ≤ 192) && decide (dbits v 32 8 ≤ 64) && dbits v 0 2 ≠ 3

/-- A write to `FABCFG` is accepted (R380). -/
def fabcfgOk (y : Sys) (v : Dword) : Bool :=
  (y.flows.isEmpty || dbits v 32 32 = dbits y.fabcfg 32 32) && decide (dbits v 16 8 ≤ 63) &&
    decide (10 ≤ dbits v 0 5) && decide (dbits v 0 5 ≤ 30)

/-- A word that the system die alone has; none where the offset names no word (R339, R379). -/
def sysRead (s : State) (off : Nat) : Option Dword :=
  let y := s.sys
  if off % 8 ≠ 0 then none
  else if off = 0x100 then some y.kvec
  else if off = 0x108 then some y.ctxbase
  else if off = 0x110 then some y.bootstat
  else if off = 0x118 then some y.attcmd
  else if 0x140 ≤ off ∧ off ≤ 0x178 then some (attPubWord ((off - 0x140) / 8))
  else if 0x1000 ≤ off ∧ off < 0x1800 then
    let q := s.queue ((off - 0x1000) / 32)
    match off % 32 with
    | 0 => some q.qbase
    | 8 => some q.qcfg
    | 16 => some q.qcache
    | _ => some (qstatWord q)
  else if off = 0x200 then some y.fabcfg
  else if off = 0x208 then some (fabstatWord y)
  else if off = 0x210 then some y.peertab
  else if off = 0x218 then some y.spcfg
  else if 0x240 ≤ off ∧ off < 0x2C0 then some (tget 0 ((off - 0x240) / 8) y.portstat)
  else if 0x300 ≤ off ∧ off < 0x380 then some (tget 0 ((off - 0x300) / 8) y.kring)
  else none

/-- The word at an offset of a die's control block. -/
def devRead (s : State) (d off : Nat) : Option Dword :=
  let x := s.die d
  match off with
  | 0x000 => some (fbstatWord x)
  | 0x008 => some x.errcnt
  | 0x010 => some x.ftring
  | 0x018 => some x.ftidx
  | 0x020 => some x.viewcfg
  | 0x040 => some x.pacfg
  | 0x048 => some (pastatWord x)
  | 0x050 => some (slewstatWord x)
  | 0x058 => some x.intpend
  | 0x060 => some x.introute
  | _ => if d = 16 then sysRead s off else none

def writeFbstat (d : Nat) (v : Dword) (s : State) : State :=
  let x := s.die d
  s.setDie d { x with fbovf := x.fbovf && dbits v 63 1 = 1 }

def writeFtring (d : Nat) (v : Dword) (s : State) : State :=
  if dbits v 0 4 > 10 then s
  else s.setDie d { s.die d with ftring := v &&& 0x000FFFFFFFFFF00F#64 }

/-- `HEAD` is read-only; the writable fields are `LOW` and `TAIL` (R321). -/
def writeFtidx (d : Nat) (v : Dword) (s : State) : State :=
  let x := s.die d
  s.setDie d { x with ftidx := (v &&& 0xFFFF00000000FFFF#64) ||| (x.ftidx &&& 0x00000000FFFF0000#64) }

def writeViewcfg (d : Nat) (v : Dword) (s : State) : State :=
  if viewcfgOk v then s.setDie d { s.die d with viewcfg := v &&& 0x00FFFFFFFFFFFF00#64 } else s

def writePacfg (d : Nat) (v : Dword) (s : State) : State :=
  if pacfgOk v then s.setDie d { s.die d with pacfg := v } else s

/-- A write of 1 to a bit clears it (R340). -/
def writeIntpend (d : Nat) (v : Dword) (s : State) : State :=
  let x := s.die d
  s.setDie d { x with intpend := x.intpend &&& ~~~v }

/-- `QBASE` and `QCFG` of a queue that is not `STOPPED` keep their values, as under an illegal `LOGN` (R349). -/
def writeQueueConfig (q : Nat) (cfg : Bool) (v : Dword) (s : State) : State :=
  let k := s.queue q
  if k.qstate ≠ 5#3 then s
  else if cfg then
    if 4 ≤ dbits v 0 5 ∧ dbits v 0 5 ≤ 16 then s.setQueue q { k with qcfg := v &&& 0xFFFFFFFF0000071F#64 } else s
  else s.setQueue q { k with qbase := v }

def writeQcache (q : Nat) (v : Dword) (s : State) : State :=
  if qcacheOk v then s.setQueue q { s.queue q with qcache := v &&& 0x00FFFFFF00000003#64 } else s

def writeFabcfg (v : Dword) (s : State) : State :=
  if fabcfgOk s.sys v then { s with sys := { s.sys with fabcfg := v &&& 0xFFFFFFFF00FF001F#64 } } else s

/-- A write of `ATTCMD` starts a quote (R369). -/
def writeAttcmd (v : Dword) (s : State) : State := { s with sys := { s.sys with attcmd := v, quote := some v } }

/-- A write of `KRING` is also the port's doorbell: the port reads the record after it (R379, R395). -/
def writeKring (p : Nat) (v : Dword) (s : State) : State :=
  { s with sys := { s.sys with kring := tput p v s.sys.kring, ringDue := p :: s.sys.ringDue.filter fun x => x ≠ p } }

/-- A write to a word of the system die alone; none where the offset names no word. A read-only word keeps its value. -/
def sysWrite (s : State) (off : Nat) (v : Dword) : Option State :=
  if (sysRead s off).isNone then none
  else if off = 0x100 then some { s with sys := { s.sys with kvec := v } }
  else if off = 0x108 then some { s with sys := { s.sys with ctxbase := v } }
  else if off = 0x118 then some (writeAttcmd v s)
  else if 0x1000 ≤ off then
    let q := (off - 0x1000) / 32
    match off % 32 with
    | 0 => some (writeQueueConfig q false v s)
    | 8 => some (writeQueueConfig q true v s)
    | 16 => some (writeQcache q v s)
    | _ => some s
  else if off = 0x200 then some (writeFabcfg v s)
  else if off = 0x210 then some { s with sys := { s.sys with peertab := v } }
  else if off = 0x218 then
    some { s with sys := { s.sys with spcfg := (v &&& 0xFFFF000000000000#64) ||| (s.sys.spcfg &&& 0xFF#64) } }
  else if 0x300 ≤ off then some (writeKring ((off - 0x300) / 8) v s)
  else some s

/-- A write to the word at an offset of a die's control block; none where the offset names no word (R339). -/
def devWrite (s : State) (d off : Nat) (v : Dword) : Option State :=
  match off with
  | 0x000 => some (writeFbstat d v s)
  | 0x008 => some (s.setDie d { s.die d with errcnt := v })
  | 0x010 => some (writeFtring d v s)
  | 0x018 => some (writeFtidx d v s)
  | 0x020 => some (writeViewcfg d v s)
  | 0x040 => some (writePacfg d v s)
  | 0x048 | 0x050 => some s
  | 0x058 => some (writeIntpend d v s)
  | 0x060 => some (s.setDie d { s.die d with introute := v &&& 0x1F#64 })
  | _ => if d = 16 then sysWrite s off v else none

/-- The die and offset of a physical address in device space (R339); none outside the control blocks. -/
def devPlace (p : Nat) : Option (Nat × Nat) :=
  if 0x8000000000000 ≤ p ∧ p < 0x8000000110000 then some ((p - 0x8000000000000) / 0x10000, p % 0x10000) else none

/-- The window of the storage port: the configuration space and the memory of the device behind it (R393). -/
def pcieSpace (p : Nat) : Bool := decide (0x9000000000000 ≤ p) && decide (p < 2 ^ 52)

/-- An access of `n` bytes to a word of device space: 8 bytes of a control block, 4 or 8 of the storage port's window. -/
def devAccess (p n : Nat) : Bool := (devPlace p).isSome && n = 8 || pcieSpace p && (n = 4 || n = 8)

/-- Sets bits of a die's `INTPEND` (R340); bit 0 exists on the system die only. -/
def raiseInt (d bit : Nat) (s : State) : State :=
  if bit = 0 ∧ d ≠ 16 then s
  else s.setDie d { s.die d with intpend := (s.die d).intpend ||| (1#64 <<< bit) }

end Sys2Proof.Machine
end

