-- ==== Sys2Proof/Machine/Mem.lean ====
section
/-!
DEFINITION. Memory: physical bytes, the L1 of a core and the remote-data cache of a die (R151, R296 to R298), what a
release and an acquire do to them (R165, R306), process contexts (R341), page tables and translation buffers (R315 to
R320), range locks (R217) and the checks of an access (R319).
-/
namespace Sys2Proof.Machine

/-! ### Physical memory -/

/-- Memory that exists: a byte of the DRAM of its home die (R294). -/
def physExists (p : Nat) : Bool := decide (p < 2 ^ 51) && decide (p % 2 ^ 47 < 24 * 2 ^ 30)

/-- The home die of a physical address (R294). -/
def homeOf (p : Nat) : Nat := p / 2 ^ 47 % 16

/-- What a byte of memory that nothing has written reads as (notes/assumptions/3.md). -/
def unlistedByte : Byte := 0

/-- The canonical form of memory: addresses rise, and no entry holds what an unlisted address reads as. -/
abbrev Memory.wf (m : Tab Byte) : Prop := twf unlistedByte m = true

/-- The byte at its home. -/
def State.homeByte (s : State) (p : Nat) : Byte := tget unlistedByte p s.mem

/-- Writes the byte at its home. -/
def State.putHome (s : State) (p : Nat) (v : Byte) : State := { s with mem := tset unlistedByte p v s.mem }

/-- Little-endian value of bytes. -/
def leNat : List Byte → Nat
  | [] => 0
  | b :: r => b.toNat + 256 * leNat r

/-- The `n` little-endian bytes of a number. -/
def leBytes : Nat → Nat → List Byte
  | 0, _ => []
  | n + 1, v => BitVec.ofNat 8 v :: leBytes n (v / 256)

/-- `n` bytes from an address, each by `rd`. -/
def readBytes (rd : Nat → Byte) (p n : Nat) : List Byte := (List.range n).map fun i => rd (p + i)

/-- The 64-bit word at its home. -/
def State.home64 (s : State) (p : Nat) : Dword := BitVec.ofNat 64 (leNat (readBytes s.homeByte p 8))

/-- Writes bytes at their homes, ascending. -/
def State.putHomes (s : State) (p : Nat) : List Byte → State
  | [] => s
  | b :: r => (s.putHome p b).putHomes (p + 1) r

def State.putHome64 (s : State) (p : Nat) (v : Dword) : State := s.putHomes p (leBytes 8 v.toNat)

/-- The line of an address. -/
def lineOf (p : Nat) : Nat := p / 128

/-- The line is poisoned (R327). -/
def State.poisoned (s : State) (p : Nat) : Bool := s.badLines.contains (lineOf p)

/-! ### Lines of a cache (R4, R295, R297, R300 to R302) -/

/-- The class of an access (R300): its retention in L1 and below, whether it is kept out of L1, and the cache index under which it
allocates. -/
structure Cls where
  ret : Nat
  below : Nat
  noL1 : Bool
  cidx : Nat
  deriving DecidableEq, Repr

/-- The class of an agent that names none: normal, under index 0. -/
def Cls.plain : Cls := { ret := 1, below := 1, noL1 := false, cidx := 0 }

/-- The L2 slice of a line (R295). -/
def l2Slice (line : Nat) : Nat :=
  (List.range 7).foldl (fun x i => x ^^^ (line % 2 ^ 40 / 2 ^ (6 * i) % 64)) 0

/-- A cache: a core's L1, a die's L2, a die's remote-data cache. -/
inductive CacheAt where
  | l1 (core : Nat)
  | l2 (die : Nat)
  | rdc (die : Nat)
  deriving DecidableEq, Repr

/-- The ways of a set: 16 but for L1, whose ways the spec does not give: a power of two, so that its 4096 lines fill whole sets (R4,
notes/assumptions/73.md). -/
def CacheAt.ways : CacheAt → Nat
  | .l1 _ => 2 ^ (Config.l1Ways % 13)
  | _ => 16

/-- Two lines share a set: L1 holds 4096 lines, an L2 slice has 1536 sets, the remote-data cache 32,768. -/
def CacheAt.sameSet (c : CacheAt) (x y : Nat) : Bool :=
  match c with
  | .l1 _ => Config.cacheSet 1 x % (4096 / c.ways) = Config.cacheSet 1 y % (4096 / c.ways)
  | .l2 _ => l2Slice x = l2Slice y && Config.cacheSet 2 x % 1536 = Config.cacheSet 2 y % 1536
  | .rdc _ => Config.cacheSet 3 x % 32768 = Config.cacheSet 3 y % 32768

/-- The lines a cache holds, the most recently used first. -/
def State.tags (s : State) : CacheAt → List Tag
  | .l1 c => (s.core c).l1Tags
  | .l2 d => (s.die d).l2Tags
  | .rdc d => (s.die d).rdcTags

def State.setTags (s : State) (c : CacheAt) (ts : List Tag) : State :=
  match c with
  | .l1 k => s.setCore k { s.core k with l1Tags := ts }
  | .l2 d => s.setDie d { s.die d with l2Tags := ts }
  | .rdc d => s.setDie d { s.die d with rdcTags := ts }

/-- The cache holds the line. -/
def State.holds (s : State) (c : CacheAt) (line : Nat) : Bool := (s.tags c).any fun t => t.line = line

/-- The line is pinned there (R160); nothing pins a line of a remote-data cache. -/
def State.pinnedLine (s : State) (c : CacheAt) (line : Nat) : Bool :=
  match c with
  | .l1 k => (s.core k).pins.any fun x => x.1 = line
  | .l2 d => (s.die d).pins.any fun x => x.1 = line
  | .rdc _ => false

/-- The lower of two limits, of which 0 is none. -/
def lowerLimit (x y : Nat) : Nat := if x = 0 then y else if y = 0 then x else min x y

/-- The lines that an index may own (R301, R302): the lowest limit among the queues that share it, 0 where none has one. -/
def State.lineQuota (s : State) (c : CacheAt) (cidx : Nat) : Nat :=
  let limit (lo : Nat) : Nat :=
    s.sys.queues.foldl (fun m q => if dbits q.2.qcache 48 8 = cidx then lowerLimit m (8192 * dbits q.2.qcache lo 8) else m) 0
  match c with
  | .l1 _ => 0
  | .l2 _ => limit 40
  | .rdc _ => limit 32

/-- The index owns as many lines of the cache as it may. -/
def State.atQuota (s : State) (c : CacheAt) (cidx : Nat) : Bool :=
  let q := s.lineQuota c cidx
  q ≠ 0 && decide (q ≤ ((s.tags c).filter fun t => t.owner = cidx).length)

/-- Of lines in their order of use, that of lowest retention, the least recently used among equals (R300). -/
def lastLowest (ts : List Tag) : Option Tag :=
  ts.foldl
    (fun (acc : Option Tag) t =>
      match acc with
      | none => some t
      | some u => if t.ret ≤ u.ret then some t else some u) none

/-- How an access finds its line. -/
inductive LineSeat where
  | hit
  | free
  | replace (t : Tag)
  | unallocated
  deriving DecidableEq, Repr

/-- A hit, a way that is free, the line that gives way, or none that may (R300, R302): a pinned line keeps its place, and an index at
its quota takes only the place of a line of its own, unless the line is to be pinned. -/
def State.seat (s : State) (c : CacheAt) (line cidx : Nat) (pin : Bool) : LineSeat :=
  let ts := s.tags c
  if s.holds c line then .hit
  else
    let held := !pin && s.atQuota c cidx
    let few := match c with
      | .l1 _ => ts.isEmpty
      | _ => decide (ts.length < 16)
    if !held && (few || decide ((ts.filter fun t => c.sameSet t.line line).length < c.ways)) then .free
    else
      match lastLowest (ts.filter fun t =>
          c.sameSet t.line line && !s.pinnedLine c t.line && (!held || t.owner = cidx)) with
      | some t => .replace t
      | none => .unallocated

/-- A hit makes the line the most recently used; its owner and its retention stay (R302; the retention: DESIGN CHOICE,
notes/assumptions/73.md). -/
def State.touchLine (s : State) (c : CacheAt) (line : Nat) : State :=
  let ts := s.tags c
  s.setTags c ((ts.filter fun t => t.line = line) ++ ts.filter fun t => t.line ≠ line)

def State.addLine (s : State) (c : CacheAt) (t : Tag) : State := s.setTags c (t :: s.tags c)
def State.loseLine (s : State) (c : CacheAt) (line : Nat) : State := s.setTags c ((s.tags c).filter fun t => t.line ≠ line)

/-- Allocates a line where `leave` takes the line that gives way out of the cache; the flag says that the cache holds the line. -/
def State.allocate (s : State) (c : CacheAt) (t : Tag) (pin : Bool) (leave : State → Tag → State) : Bool × State :=
  match s.seat c t.line t.owner pin with
  | .hit => (true, s.touchLine c t.line)
  | .free => (true, s.addLine c t)
  | .replace u => (true, ((leave s u).loseLine c u.line).addLine c t)
  | .unallocated => (false, s)

/-- An access at its home slice uses the line of the home die's L2, which has no contents of its own. -/
def State.useL2 (s : State) (line ret cidx : Nat) (pin : Bool := false) : State :=
  (s.allocate (.l2 (homeOf (128 * line))) { line := line, owner := cidx, ret := ret } pin fun s _ => s).2

/-! ### Caches -/

/-- The die whose remote-data cache stands between a core and a byte: none where the byte is homed on the core's die, or
where the agent stands on the system die, which has no such cache (R296). -/
def rdcDie (die p : Nat) : Option Nat := if die < 16 ∧ homeOf p ≠ die then some die else none

/-- The listed keys that satisfy `f`. -/
def keysWhere {α : Type} (f : Nat → Bool) (t : Tab α) : List Nat := (t.map Prod.fst).filter f

/-- A line without bytes leaves the cache, unless it is pinned (R160, R165). -/
def Core.purge (k : Core) : Core :=
  { k with l1Tags := k.l1Tags.filter fun t => (k.pins.any fun x => x.1 = t.line) || k.l1.any fun e => lineOf e.1 = t.line }

def Die.purge (x : Die) : Die := { x with rdcTags := x.rdcTags.filter fun t => x.rdc.any fun e => lineOf e.1 = t.line }

def State.purgeL1 (s : State) (core : Nat) : State := s.setCore core (s.core core).purge
def State.purgeRdc (s : State) (d : Nat) : State := s.setDie d (s.die d).purge

/-- Drops a byte of a core's L1. -/
def State.dropL1 (s : State) (core p : Nat) : State :=
  s.setCore core { s.core core with l1 := tdel p (s.core core).l1 }

/-- Drops a byte of a die's remote-data cache. -/
def State.dropRdc (s : State) (d p : Nat) : State := s.setDie d { s.die d with rdc := tdel p (s.die d).rdc }

/-- The owner and the retention of a line that a cache holds. -/
def State.tagOf (s : State) (c : CacheAt) (line : Nat) : Tag :=
  ((s.tags c).find? fun t => t.line = line).getD { line := line, owner := 0, ret := 1 }

/-- Writes a die's dirty byte back to its home slice, under the class of its store, and keeps it clean (R297, R300). -/
def State.writeBackByte (s : State) (d p : Nat) : State :=
  match tlook p (s.die d).rdc with
  | some c =>
    if c.dirty then
      ((s.setDie d { s.die d with rdc := tput p { val := c.val, dirty := false } (s.die d).rdc }).putHome p c.val).useL2 (lineOf p)
        c.ret c.cidx
    else s
  | none => s

/-- A die writes back the dirty bytes for which `f` holds. -/
def State.writeBackRdc (s : State) (d : Nat) (f : Nat → Bool) : State :=
  (keysWhere f (s.die d).rdc).foldl (fun u p => u.writeBackByte d p) s

/-- A die drops the clean bytes for which `f` holds. -/
def State.dropCleanRdc (s : State) (d : Nat) (f : Nat → Bool) : State :=
  s.setDie d { s.die d with rdc := (s.die d).rdc.filter fun e => e.2.dirty || !f e.1 }

/-- Allocates a line of a die's remote-data cache; the line that gives way writes its dirty bytes back first (R297). -/
def State.useRdc (s : State) (d line ret cidx : Nat) : Bool × State :=
  s.allocate (.rdc d) { line := line, owner := cidx, ret := ret } false fun s t =>
    let f := fun p => lineOf p = t.line
    (s.writeBackRdc d f).dropCleanRdc d f

/-- Stores a byte below L1: into the remote-data cache, dirty, or at its home where that is the place or no line could be
allocated (R297, R300). -/
def State.putBelow (s : State) (die p : Nat) (v : Byte) (ret cidx : Nat) : State :=
  match rdcDie die p with
  | some d =>
    let r := s.useRdc d (lineOf p) ret cidx
    if r.1 then r.2.setDie d { r.2.die d with rdc := tput p { val := v, dirty := true, ret := ret, cidx := cidx } (r.2.die d).rdc }
    else ((r.2.dropRdc d p).putHome p v).useL2 (lineOf p) ret cidx
  | none => (s.putHome p v).useL2 (lineOf p) ret cidx

/-- A byte below L1, as the remote-data cache or its home holds it. -/
def State.byteBelow (s : State) (die p : Nat) : Byte :=
  match rdcDie die p with
  | some d =>
    match tlook p (s.die d).rdc with
    | some c => c.val
    | none => s.homeByte p
  | none => s.homeByte p

/-- A load through the remote-data cache leaves the byte in its line. -/
def State.fillBelow (s : State) (die p : Nat) : State :=
  match rdcDie die p with
  | some d =>
    match tlook p (s.die d).rdc with
    | some _ => s
    | none =>
      if s.holds (.rdc d) (lineOf p) then
        s.setDie d { s.die d with rdc := tput p { val := s.homeByte p, dirty := false } (s.die d).rdc }
      else s
  | none => s

/-! ### The SC order's places (R307, R308) -/

/-- Where an SC operation is performed. -/
inductive ScPlace where
  | l1 (core : Nat)
  | rdc (die : Nat)
  | slice (die i : Nat)
  deriving DecidableEq, Repr

/-- The greatest timestamp that a place has performed. -/
def State.scGreatest (s : State) : ScPlace → ScTime
  | .l1 c => (s.core c).scMax
  | .rdc d => tget ⟨0, 0⟩ 64 (s.die d).scMax
  | .slice d i => tget ⟨0, 0⟩ i (s.die d).scMax

def State.setGreatest (s : State) (p : ScPlace) (x : ScTime) : State :=
  match p with
  | .l1 c => s.setCore c { s.core c with scMax := x }
  | .rdc d => s.setDie d { s.die d with scMax := tset ⟨0, 0⟩ 64 x (s.die d).scMax }
  | .slice d i => s.setDie d { s.die d with scMax := tset ⟨0, 0⟩ i x (s.die d).scMax }

/-- Clock value `x` is after `y`, modulo 2^48 (R307). -/
def scNewer (x y : BitVec 48) : Bool := (0#48).slt (x - y)

/-- Timestamps are compared by their times, and then by their cores (R307). -/
def scAfter (x y : ScTime) : Bool := scNewer x.t y.t || x.t = y.t && decide (y.c < x.c)

/-- A core's clock raised to at least a value. -/
def State.raiseClock (s : State) (core : Nat) (t : BitVec 48) : State :=
  if scNewer t (s.core core).lamport then s.setCore core { s.core core with lamport := t } else s

/-- The place below L1 where a byte is reached: the die's remote-data cache, or its home slice. -/
def placeBelow (die p : Nat) : ScPlace :=
  match rdcDie die p with
  | some d => .rdc d
  | none => .slice (homeOf p) (l2Slice (lineOf p))

/-- A reply to a core carries the greatest timestamp that its place has performed (R307). -/
def State.reply (s : State) (core : Nat) (p : ScPlace) : State := s.raiseClock core (s.scGreatest p).t

/-- Forwards a core's dirty byte toward its home, under the class of its store, and keeps it clean (R151, R300). -/
def State.forwardByte (s : State) (core p : Nat) : State :=
  match tlook p (s.core core).l1 with
  | some c =>
    if c.dirty then
      ((s.setCore core { s.core core with l1 := tput p { val := c.val, dirty := false } (s.core core).l1 }).putBelow
        (dieOfCore core) p c.val c.ret c.cidx).reply core (placeBelow (dieOfCore core) p)
    else s
  | none => s

/-- A core forwards the dirty bytes for which `f` holds. -/
def State.forwardL1 (s : State) (core : Nat) (f : Nat → Bool) : State :=
  (keysWhere f (s.core core).l1).foldl (fun u p => u.forwardByte core p) s

/-- A core drops the clean bytes for which `f` holds. -/
def State.dropCleanL1 (s : State) (core : Nat) (f : Nat → Bool) : State :=
  s.setCore core { s.core core with l1 := (s.core core).l1.filter fun e => e.2.dirty || !f e.1 }

/-- Allocates a line of a core's L1; the line that gives way is forwarded first. -/
def State.useL1 (s : State) (core line ret cidx : Nat) (pin : Bool := false) : Bool × State :=
  s.allocate (.l1 core) { line := line, owner := cidx, ret := ret } pin fun s t =>
    let f := fun p => lineOf p = t.line
    (s.forwardL1 core f).dropCleanL1 core f

/-! ### Scopes, releases and acquires (R165, R166, R298, R306) -/

/-- The scopes (R303). -/
inductive Scope where
  | grp | core | clu | pkg | fab
  deriving DecidableEq, Repr

def scopeOf (c : Nat) : Scope :=
  match c with
  | 0 => .grp
  | 1 => .core
  | 2 => .clu
  | 3 => .pkg
  | _ => .fab

/-- The scope is `CLU` or wider. -/
def Scope.leavesCore : Scope → Bool
  | .grp | .core => false
  | _ => true

/-- The scope is `PKG` or wider. -/
def Scope.leavesDie : Scope → Bool
  | .pkg | .fab => true
  | _ => false

/-- Writes bytes into a window of a scratchpad, ascending. -/
def spadPut (t : Tab Byte) (off : Nat) : List Byte → Tab Byte
  | [] => t
  | b :: r => spadPut (tset 0 off b t) (off + 1) r

/-- Writes bytes of a block's window. -/
def spadWrite (s : State) (b off : Nat) (bs : List Byte) : State :=
  match s.block? b with
  | some k => s.setBlock b { k with spad := spadPut k.spad off bs }
  | none => s

/-- Performs the accepted remote stores for which `f` holds, oldest first (R245, R247). -/
def State.performPosted (s : State) (f : Posted → Bool) : State :=
  if s.posted.isEmpty then s
  else
    { (s.posted.filter f).foldl (fun u x => spadWrite u x.block x.off x.bytes) s with
      posted := s.posted.filter fun x => !f x }

/-- A release by an agent of a core: at `CLU` or wider every store performed at the core's L1 leaves the core; at `PKG` or
wider every dirty byte of the die's remote-data cache for which `z` holds is then written back. The core's accepted remote scratchpad
stores are performed before a release at `CLU` or wider (R247). -/
def State.releaseIn (s : State) (core : Nat) (sc : Scope) (z : Nat → Bool) : State :=
  let s := if sc.leavesCore then (s.performPosted fun x => x.core = core).forwardL1 core (fun _ => true) else s
  if sc.leavesDie then s.writeBackRdc (dieOfCore core) z else s

/-- An acquire by an agent of a core: at `CLU` or wider the core's clean L1 lines are invalidated; at `PKG` or wider the
clean bytes of the die's remote-data cache for which `z` holds as well. -/
def State.acquireIn (s : State) (core : Nat) (sc : Scope) (z : Nat → Bool) : State :=
  let s := if sc.leavesCore then (s.dropCleanL1 core (fun _ => true)).purgeL1 core else s
  if sc.leavesDie then (s.dropCleanRdc (dieOfCore core) z).purgeRdc (dieOfCore core) else s

def State.release (s : State) (core : Nat) (sc : Scope) : State := s.releaseIn core sc fun _ => true
def State.acquire (s : State) (core : Nat) (sc : Scope) : State := s.acquireIn core sc fun _ => true

/-- An SC operation addressed to the places `ps` takes its timestamp (R307): the next value of its core's clock, after what each
place, and each place `seen` whose values it may read, has performed, so that every place performs in ascending order of timestamps
(R308; DEDUCED, notes/assumptions/74.md). -/
def State.scTick (s : State) (core : Nat) (ps seen : List ScPlace) : State :=
  let k := s.core core
  let t := (ps ++ seen).foldl (fun (t : BitVec 48) p => let m := s.scGreatest p; if scAfter ⟨t, core⟩ m then t else m.t + 1)
    ((if scNewer s.sys.scMark k.lamport then s.sys.scMark else k.lamport) + 1)
  ps.foldl (fun u p => u.setGreatest p ⟨t, core⟩) (s.setCore core { k with lamport := t })

/-- What ordering code 0 to 3 of a memory instruction asks for. -/
def ordAcq (o : Nat) : Bool := o = 1 || o = 3
def ordRel (o : Nat) : Bool := o = 2 || o = 3

/-- What precedes an access with ordering `o` that is addressed to the places `ps` and may read values of the places `seen`. -/
def State.before (s : State) (core o : Nat) (sc : Scope) (ps seen : List ScPlace) : State :=
  let s := if o = 3 then s.scTick core ps seen else s
  if ordRel o then s.release core sc else s

/-- What follows an access with ordering `o`. -/
def State.after (s : State) (core o : Nat) (sc : Scope) : State :=
  if ordAcq o then s.acquire core sc else s

/-! ### Places of performance (R296, R298) -/

/-- Where an access is performed. -/
inductive Place where
  | l1 | clu | home
  deriving DecidableEq, Repr

/-- The place of a load or a store of a scope; the system die has neither L1 nor remote-data cache
(notes/assumptions/10.md). -/
def placeOf (core : Nat) (sc : Scope) : Place :=
  if systemCore0 ≤ core then .home
  else
    match sc with
    | .grp | .core => .l1
    | .clu => .clu
    | _ => .home

/-- The place of an atomic: L1, or the home slice (R162). -/
def placeAtom (core : Nat) (sc : Scope) : Place :=
  if systemCore0 ≤ core then .home
  else
    match sc with
    | .grp | .core => .l1
    | _ => .home

/-- The aligned 8 bytes that hold a byte: what the caches take and give whole, so that no aligned access of up to 8 bytes is seen in
parts (R304; DEDUCED, notes/assumptions/92.md). -/
def sameUnit (p q : Nat) : Bool := p / 8 = q / 8

/-- Makes ready for an access to byte `p` at a place: an access that does not use L1 first forwards the core's own stores to
the byte's unit and drops its copy (R164, R304, R305), and one at the home of another die's line writes back and drops the line's bytes
in the issuer's cache (R298). -/
def State.prepare (s : State) (core p : Nat) (pl : Place) : State :=
  match pl with
  | .l1 => s
  | .clu => (s.forwardL1 core (sameUnit p)).dropCleanL1 core (sameUnit p)
  | .home =>
    let s := (s.forwardL1 core (sameUnit p)).dropCleanL1 core (sameUnit p)
    match rdcDie (dieOfCore core) p with
    | some d =>
      let f := fun q => lineOf q = lineOf p
      ((s.writeBackRdc d f).dropCleanRdc d f).purgeRdc d
    | none => s

/-- The byte that an access at a place reads, after `prepare`. -/
def State.byteAt (s : State) (core p : Nat) (pl : Place) : Byte :=
  match pl with
  | .l1 =>
    match tlook p (s.core core).l1 with
    | some c => c.val
    | none => s.byteBelow (dieOfCore core) p
  | .clu => s.byteBelow (dieOfCore core) p
  | .home => s.homeByte p

/-- What a load leaves in the caches: the byte in the lines that hold it. -/
def State.fill (s : State) (core p : Nat) (pl : Place) : State :=
  match pl with
  | .l1 =>
    match tlook p (s.core core).l1 with
    | some _ => s
    | none =>
      let v := s.byteBelow (dieOfCore core) p
      let s := s.fillBelow (dieOfCore core) p
      s.setCore core { s.core core with l1 := tput p { val := v, dirty := false } (s.core core).l1 }
  | .clu => s.fillBelow (dieOfCore core) p
  | .home => s

/-- Writes a byte at a place, after `prepare`. -/
def State.putAt (s : State) (core p : Nat) (pl : Place) (c : Cls) (v : Byte) : State :=
  match pl with
  | .l1 => s.setCore core { s.core core with l1 := tput p { val := v, dirty := true, ret := c.below, cidx := c.cidx } (s.core core).l1 }
  | .clu => s.putBelow (dieOfCore core) p v c.below c.cidx
  | .home => s.putHome p v

/-- The place of an access to byte `p` whose place is L1: below it where L1 does not hold the line. -/
def State.placeNow (s : State) (core p : Nat) (pl : Place) : Place :=
  if pl = .l1 ∧ s.holds (.l1 core) (lineOf p) = false then .clu else pl

/-- Every one of `n` bytes is in a core's L1. -/
def State.inL1 (s : State) (core p n : Nat) : Bool :=
  (List.range n).all fun i => (tlook (p + i) (s.core core).l1).isSome

/-- An access of a line below L1: at its home slice, or at the die's remote-data cache, which goes on to the home slice where it has
no line for it or, for a load, lacks bytes; the reply comes back to the core. -/
def State.useBelow (s : State) (core p n : Nat) (pl : Place) (c : Cls) (load : Bool) : State :=
  let slice := ScPlace.slice (homeOf p) (l2Slice (lineOf p))
  match rdcDie (dieOfCore core) p with
  | some d =>
    if pl = .home then (s.useL2 (lineOf p) c.below c.cidx).reply core slice
    else
      let r := s.useRdc d (lineOf p) c.below c.cidx
      let all := r.1 && (!load || (List.range n).all fun i => (tlook (p + i) (r.2.die d).rdc).isSome)
      (if all then r.2 else r.2.useL2 (lineOf p) c.below c.cidx).reply core (.rdc d)
  | none => (s.useL2 (lineOf p) c.below c.cidx).reply core slice

/-- An access of `n` bytes of one line reaches the caches of its place: lines are allocated by its class (R300 to R302). -/
def State.approach (s : State) (core p n : Nat) (pl : Place) (c : Cls) (load : Bool) : State :=
  let s := if pl = .l1 ∧ (c.noL1 = false ∨ s.holds (.l1 core) (lineOf p) = true) then (s.useL1 core (lineOf p) c.ret c.cidx).2 else s
  if pl = .l1 ∧ s.holds (.l1 core) (lineOf p) = true ∧ (load = false ∨ s.inL1 core p n = true) then s
  else s.useBelow core p n pl c load

/-- The bytes of the unit of `p`. -/
def unitBytes (p : Nat) : List Nat := (List.range 8).map fun i => p / 8 * 8 + i

/-- Some byte of the unit of `p` that an access of `n` bytes from `at'` reads is not in a cache's table. -/
def unitMiss (t : Tab CByte) (p at' n : Nat) : Bool :=
  (unitBytes p).any fun q => decide (at' ≤ q) && decide (q < at' + n) && (tlook q t).isNone

/-- A load that misses a byte of a unit in a die's remote-data cache fetches the unit anew, but for its dirty bytes (R297, R304). -/
def State.fetchBelow (s : State) (die p at' n : Nat) : State :=
  match rdcDie die p with
  | some d =>
    if unitMiss (s.die d).rdc p at' n then (unitBytes p).foldl (fun u q => u.fillBelow die q) (s.dropCleanRdc d (sameUnit p)) else s
  | none => s

/-- A load of `n` bytes from `at'` makes ready the unit of `p` at its place: one that misses a byte in L1 fetches the unit from below, but
for the bytes that are dirty there. -/
def State.fetchUnit (s : State) (core p : Nat) (pl : Place) (at' n : Nat) : State :=
  match pl with
  | .l1 =>
    if unitMiss (s.core core).l1 p at' n then
      (unitBytes p).foldl (fun u q => u.fill core q .l1)
        ((s.fetchBelow (dieOfCore core) p (p / 8 * 8) 8).dropCleanL1 core (sameUnit p))
    else s
  | .clu => s.fetchBelow (dieOfCore core) p at' n
  | .home => s

/-- The first bytes of the units that hold `n` bytes from an address. -/
def unitsOf (p n : Nat) : List Nat := (List.range ((p % 8 + n + 7) / 8)).map fun i => p / 8 * 8 + 8 * i

/-- Makes the units of `n` bytes ready for a load of them. -/
def State.readyUnits (s : State) (core : Nat) (pl : Place) (p n : Nat) : State :=
  (unitsOf p n).foldl
    (fun u q =>
      let w := u.placeNow core q pl
      (u.prepare core q w).fetchUnit core q w p n) s

/-- Writes bytes at a place, ascending. -/
def State.writeAt (s : State) (core : Nat) (pl : Place) (c : Cls) (p : Nat) : List Byte → State
  | [] => s
  | b :: r =>
    let w := s.placeNow core p pl
    ((s.prepare core p w).putAt core p w c b).writeAt core pl c (p + 1) r

/-- Loads `n` bytes: their values and the state with the caches filled. -/
def State.loadBytes (s : State) (core : Nat) (pl : Place) (c : Cls) (p n : Nat) : List Byte × State :=
  let s := (s.approach core p n pl c true).readyUnits core pl p n
  (readBytes (fun q => s.byteAt core q (s.placeNow core q pl)) p n, s)

/-- Stores bytes, ascending. -/
def State.storeBytes (s : State) (core : Nat) (pl : Place) (c : Cls) (p : Nat) (bs : List Byte) : State :=
  (s.approach core p bs.length pl c false).writeAt core pl c p bs

/-- The place where an SC operation on a byte is performed (R296). -/
def scPlaceOf (core p : Nat) (pl : Place) : ScPlace :=
  match pl with
  | .l1 => .l1 core
  | .clu => placeBelow (dieOfCore core) p
  | .home => .slice (homeOf p) (l2Slice (lineOf p))

/-- The places below L1 whose values an access to a byte may read: the home slice, and the remote-data cache before it. -/
def scAlong (core p : Nat) : List ScPlace := [scPlaceOf core p .clu, scPlaceOf core p .home]

/-! ### Process contexts (R341) -/

/-- The physical address of the context record of an `ASID`, or 0. -/
def State.ctxRec (s : State) (asid : BitVec 16) : Nat := (s.home64 (s.sys.ctxbase.toNat + 8 * asid.toNat)).toNat

/-- A word of the context record. -/
def State.ctxWord (s : State) (asid : BitVec 16) (off : Nat) : Dword := s.home64 (s.ctxRec asid + off)

def State.ctxRoot (s : State) (asid : BitVec 16) : Nat := (s.ctxWord asid 0x08).toNat
def State.ctxDies (s : State) (asid : BitVec 16) : BitVec 16 := (s.ctxWord asid 0x00).extractLsb' 16 16
def State.ctxTvb (s : State) (asid : BitVec 16) : Dword := s.ctxWord asid 0x10
def State.ctxTrm (s : State) (asid : BitVec 16) : BitVec 32 := (s.ctxWord asid 0x18).setWidth 32

/-! ### Page tables (R316 to R318) -/

/-- How a walk ends. -/
inductive WalkRes where
  | leaf (e : TlbEnt)
  | invalid (level : Nat) (ft : Bool) (pteAddr : Nat)
  | malformed
  | poisoned
  deriving DecidableEq, Repr

/-- Bits of a page table entry (R317). -/
def pteV (e : Dword) : Bool := e.getLsbD 0
def pteRd (e : Dword) : Bool := e.getLsbD 3
def pteW (e : Dword) : Bool := e.getLsbD 4
def pteSup (e : Dword) : Bool := e.getLsbD 5
def ptePs (e : Dword) : Bool := e.getLsbD 8
def pteA (e : Dword) : Bool := e.getLsbD 9
def pteD (e : Dword) : Bool := e.getLsbD 10
def pteFt (e : Dword) : Bool := e.getLsbD 11
def pteXd (e : Dword) : Bool := e.getLsbD 63

/-- `PA`[51:12] as an address. -/
def ptePa (e : Dword) : Nat := (e.toNat / 2 ^ 12 % 2 ^ 40) * 2 ^ 12

/-- A reserved bit is set (R317). -/
def pteReserved (e : Dword) : Bool := (e &&& 0x7F000000000000C6#64) ≠ 0

/-- Size of a leaf at a level. -/
def leafSize (level : Nat) (ps : Bool) : Nat :=
  match level with
  | 0 => if ps then 2 ^ 16 else 2 ^ 12
  | l => 2 ^ (12 + 9 * l)

/-- Walks the levels from `n - 1` down to 0, the table of level `n - 1` standing at `base`. -/
def walkFrom (rd : Nat → Dword) (bad : Nat → Bool) (asid : BitVec 16) (va : Nat) : Nat → Nat → WalkRes
  | 0, _ => .malformed
  | l + 1, base =>
    let idx := va / 2 ^ (12 + 9 * l) % 512
    let first := base + 8 * (idx / 16 * 16)
    let grp := l = 0 && ptePs (rd first)
    let at' := if grp then first else base + 8 * idx
    let e := rd at'
    if bad at' then .poisoned
    else if !pteV e then .invalid l (pteFt e) at'
    else if pteReserved e || (decide (3 ≤ l) && ptePs e) || (l ≠ 0 && pteFt e) then .malformed
    else if l = 0 || ptePs e then
      let sz := leafSize l (ptePs e)
      if ptePa e % sz ≠ 0 then .malformed
      else .leaf { asid := asid, base := va / sz * sz, size := sz, pte := e, pteAddr := at', level := l, leaf := true }
    else if physExists (ptePa e) then walkFrom rd bad asid va l (ptePa e)
    else .malformed

/-- Walks the page tables of a context (R318); a context without a record has no valid entry. -/
def State.walk (s : State) (asid : BitVec 16) (va : Nat) : WalkRes :=
  if s.ctxRec asid = 0 then .invalid 4 false 0
  else walkFrom s.home64 s.poisoned asid va 5 (s.ctxRoot asid)

/-- The entries of upper levels that a walk of a valid leaf passes. -/
def pathFrom (rd : Nat → Dword) (asid : BitVec 16) (va : Nat) : Nat → Nat → List TlbEnt
  | 0, _ => []
  | l + 1, base =>
    let at' := base + 8 * (va / 2 ^ (12 + 9 * l) % 512)
    let sz := 2 ^ (12 + 9 * l)
    let e := rd at'
    if l = 0 || !pteV e || ptePs e then []
    else
      { asid := asid, base := va / sz * sz, size := sz, pte := e, pteAddr := at', level := l, leaf := false } ::
        pathFrom rd asid va l (ptePa e)

/-- The addresses of the entries that a walk reads, from the table at `base` on. -/
def walkAddrs (rd : Nat → Dword) (bad : Nat → Bool) (va : Nat) : Nat → Nat → List Nat
  | 0, _ => []
  | l + 1, base =>
    let idx := va / 2 ^ (12 + 9 * l) % 512
    let first := base + 8 * (idx / 16 * 16)
    let at' := if l = 0 && ptePs (rd first) then first else base + 8 * idx
    let e := rd at'
    at' ::
      if bad at' || !pteV e || pteReserved e || l = 0 || ptePs e || !physExists (ptePa e) then []
      else walkAddrs rd bad va l (ptePa e)

/-! ### Translation buffers (R320) -/

/-- A core that holds a translation buffer has the reply of the home slice of an address (R307). -/
def State.replyTo (s : State) (b : TlbAt) (p : Nat) : State :=
  match b with
  | .core k => s.reply k (.slice (homeOf p) (l2Slice (lineOf p)))
  | _ => s

def State.tlb (s : State) : TlbAt → List TlbEnt
  | .core c => (s.core c).tlb
  | .die d => (s.die d).tlb
  | .net => s.sys.netTlb
  | .storage => s.sys.storageTlb

def State.setTlb (s : State) (b : TlbAt) (l : List TlbEnt) : State :=
  match b with
  | .core c => s.setCore c { s.core c with tlb := l }
  | .die d => s.setDie d { s.die d with tlb := l }
  | .net => { s with sys := { s.sys with netTlb := l } }
  | .storage => { s with sys := { s.sys with storageTlb := l } }

/-- The entry covers an address of an address space. -/
def TlbEnt.covers (e : TlbEnt) (asid : BitVec 16) (va : Nat) : Bool :=
  e.asid = asid && decide (e.base ≤ va) && decide (va < e.base + e.size)

def TlbEnt.hits (e : TlbEnt) (asid : BitVec 16) (va : Nat) : Bool := e.leaf && e.covers asid va

/-- The upper-level entry of lowest level that a buffer holds on the way to an address. -/
def State.upper? (s : State) (b : TlbAt) (asid : BitVec 16) (va : Nat) : Option TlbEnt :=
  ((s.tlb b).filter fun e => !e.leaf && e.covers asid va).foldl
    (fun (acc : Option TlbEnt) e =>
      match acc with
      | none => some e
      | some x => if e.level < x.level then some e else some x) none

/-- Where a walk through a buffer starts: the number of levels left, and the table. -/
def State.walkStart (s : State) (b : TlbAt) (asid : BitVec 16) (va : Nat) : Nat × Nat :=
  match s.upper? b asid va with
  | some e => (e.level, ptePa e.pte)
  | none => (5, s.ctxRoot asid)

/-- A walk by the holder of a buffer: from the lowest upper-level entry it holds, or from the root (R320). -/
def State.walkIn (s : State) (b : TlbAt) (asid : BitVec 16) (va : Nat) : WalkRes :=
  if (s.upper? b asid va).isNone && s.ctxRec asid = 0 then .invalid 4 false 0
  else walkFrom s.home64 s.poisoned asid va (s.walkStart b asid va).1 (s.walkStart b asid va).2

/-- A cached entry may serve a write: it is dirty already, or the entry in memory can still be marked dirty (R318). -/
def State.canDirty (s : State) (e : TlbEnt) : Bool :=
  pteD e.pte || pteV (s.home64 e.pteAddr) && ptePa (s.home64 e.pteAddr) = ptePa e.pte

/-- The translation of an address: a cached entry, else a walk. The flag says that the entry was cached. A write that
cannot mark its cached entry dirty walks again. -/
def State.leaf (s : State) (b : TlbAt) (asid : BitVec 16) (va : Nat) (writes : Bool) : WalkRes × Bool :=
  match (s.tlb b).find? fun e => e.hits asid va && (!writes || s.canDirty e) with
  | some e => (.leaf e, true)
  | none => (s.walkIn b asid va, false)

/-- The physical address that an entry gives. -/
def TlbEnt.phys (e : TlbEnt) (va : Nat) : Nat := ptePa e.pte + (va - e.base)

/-- Sets a bit of an entry in memory while the entry is valid and names the same page (R318). -/
def State.setPteBit (s : State) (at' bit : Nat) (pa : Nat) : State :=
  let e := s.home64 at'
  if pteV e && ptePa e = pa then s.putHome64 at' (e ||| (1#64 <<< bit)) else s

/-- Caches an entry with the upper-level entries that its walk read: the walker sets `A` of each (R317, R318). -/
def State.cacheEntry (s : State) (b : TlbAt) (e : TlbEnt) : State :=
  let up := pathFrom s.home64 e.asid e.base (s.walkStart b e.asid e.base).1 (s.walkStart b e.asid e.base).2
  let new := up ++ [e]
  let s := new.foldl (fun u x => (u.setPteBit x.pteAddr 9 (ptePa x.pte)).replyTo b x.pteAddr) s
  s.setTlb b ((new.map fun x => { x with pte := x.pte ||| 0x200#64 }) ++ s.tlb b)

/-- Marks the page of an entry dirty before a write through it; where the entry in memory no longer agrees, the walk starts
again (R318). -/
def State.dirtyEntry (s : State) (b : TlbAt) (e : TlbEnt) : State :=
  if pteD e.pte then s
  else
    let m := s.home64 e.pteAddr
    if pteV m && ptePa m = ptePa e.pte then
      let s := (s.setPteBit e.pteAddr 10 (ptePa e.pte)).replyTo b e.pteAddr
      s.setTlb b ((s.tlb b).map fun x => if x.leaf ∧ x.asid = e.asid ∧ x.base = e.base then { x with pte := x.pte ||| 0x400#64 } else x)
    else s

/-! ### The checks of an access (R319) -/

/-- What an access does to the bytes it names. -/
inductive Acc where
  | read | write | atomic | red | fetch | unlock | prefetch
  deriving DecidableEq, Repr

/-- The access kind of `XS3` (R75). R319 sets `RED` beside stores, apart from the atomics (DEDUCED, notes/assumptions/28.md). `UNLOCK`
is none of the kinds, and the spec gives it none: 0 (DESIGN CHOICE, notes/assumptions/75.md). -/
def Acc.kind : Acc → Nat
  | .read | .unlock | .prefetch => 0
  | .write | .red => 1
  | .atomic => 2
  | .fetch => 3

def Acc.writes : Acc → Bool
  | .write | .atomic | .red => true
  | _ => false

/-- The rights that an access needs (R319). -/
def rightsOk (acc : Acc) (e : Dword) : Bool :=
  match acc with
  | .read | .prefetch => pteRd e
  | .write | .red => pteW e
  | .atomic => pteRd e && pteW e
  | .fetch => !pteXd e
  | .unlock => true

/-- Cause codes (R71). -/
def cILLOP : Nat := 0x01
def cREGRANGE : Nat := 0x02
def cMISALIGN : Nat := 0x03
def cPAGEF : Nat := 0x04
def cPROT : Nat := 0x05
def cRLOCK : Nat := 0x06
def cRANKOVF : Nat := 0x07
def cSLOTFULL : Nat := 0x08
def cCLDEAD : Nat := 0x09
def cCLPOISON : Nat := 0x0A
def cVIEWDEPTH : Nat := 0x0B
def cGATED : Nat := 0x0C
def cTRAPI : Nat := 0x0D
def cSYSCALL : Nat := 0x0E
def cBKPT : Nat := 0x0F
def cFPEXC : Nat := 0x10
def cQERR : Nat := 0x11
def cECCU : Nat := 0x12
def cTILESTATE : Nat := 0x13
def cBLKFMT : Nat := 0x14
def cQUOTA : Nat := 0x15

/-- A cause with its detail code. -/
structure Cause where
  code : Nat
  detail : BitVec 32
  deriving DecidableEq, Repr

/-- How an access is translated. -/
inductive Xlat where
  /-- Passed, at a physical address with the entry that gave it (none where the agent runs untranslated). -/
  | ok (phys : Nat) (e : Option TlbEnt) (cached : Bool)
  | fail (c : Cause)
  deriving DecidableEq, Repr

/-- A range lock that forbids an access (R217): a load meets write locks, a store or an atomic any lock, a prefetch none. -/
def lockForbids (acc : Acc) (asid : BitVec 16) (va n : Nat) (l : RLock) : Bool :=
  l.asid = asid && decide (l.lo < va + n) && decide (va < l.hi) &&
    match acc with
    | .read => l.write
    | .write | .atomic | .red => true
    | .fetch | .unlock | .prefetch => false

/-- The dies of a mask. -/
def diesOf (m : BitVec 16) : List Nat := (List.range 16).filter fun i => m.getLsbD i

/-- Some range lock of the partition's dies, or of the system die's ports, forbids the access. -/
def State.locked (s : State) (acc : Acc) (asid : BitVec 16) (va n : Nat) : Bool :=
  (List.range 17).any fun d => (s.die d).locks.any (lockForbids acc asid va n)

/-- Checks 1 to 7 of an access of `n` bytes, but for the range locks of an agent that is not a group (R319). -/
def State.check (s : State) (b : TlbAt) (asid : BitVec 16) (phys kern grp : Bool) (acc : Acc) (dev : Bool) (va n : Nat) :
    Xlat :=
  if va % n ≠ 0 then .fail ⟨cMISALIGN, 0⟩
  else if 2 ^ 57 ≤ va then .fail ⟨cPROT, 4⟩
  else if phys then
    if physExists va || devAccess va n && kern && dev then .ok va none true else .fail ⟨cPROT, 3⟩
  else
    match s.leaf b asid va acc.writes with
    | (.invalid l ft _, _) => .fail ⟨cPAGEF, BitVec.ofNat 32 (l + if ft then 256 else 0)⟩
    | (.malformed, _) => .fail ⟨cPROT, 5⟩
    | (.poisoned, _) => .fail ⟨cECCU, 5⟩
    | (.leaf e, c) =>
      if !rightsOk acc e.pte then .fail ⟨cPROT, 6⟩
      else if pteSup e.pte && !kern then .fail ⟨cPROT, 7⟩
      else if !(physExists (e.phys va) || devAccess (e.phys va) n && kern && dev) then .fail ⟨cPROT, 3⟩
      else if grp && s.locked acc asid va n then .fail ⟨cRLOCK, 0⟩
      else .ok (e.phys va) (some e) c

/-- What a passed translation leaves: the entry cached, `A` set, and `D` set before a write. -/
def State.touch (s : State) (b : TlbAt) (acc : Acc) (x : Xlat) : State :=
  match x with
  | .ok _ (some e) cached =>
    let s := if cached then s else s.cacheEntry b e
    if acc.writes then s.dirtyEntry b e else s
  | _ => s

/-- A walk from a table on has brought its holder the replies of the slices that it read (R307). -/
def State.walkReplies (s : State) (b : TlbAt) (va : Nat) (start : Nat × Nat) : State :=
  (walkAddrs s.home64 s.poisoned va start.1 start.2).foldl (fun u p => u.replyTo b p) s

/-- What a translation that failed leaves: the replies of its walk, if there was one (DEDUCED, notes/assumptions/102.md). -/
def State.walked (s : State) (b : TlbAt) (asid : BitVec 16) (phys : Bool) (acc : Acc) (va : Nat) (c : Cause) : State :=
  if phys || c.code = cMISALIGN || decide (2 ^ 57 ≤ va) || (s.leaf b asid va acc.writes).2 || (s.upper? b asid va).isNone && s.ctxRec asid = 0
  then s
  else s.walkReplies b va (s.walkStart b asid va)

/-! ### Accesses at the home slices by agents other than groups (R309) -/

/-- An access of a line at its home slice by the holder of a translation buffer: the line is used, and a core has the reply (R300,
R301, R307). -/
def State.atSlice (s : State) (b : TlbAt) (p : Nat) (c : Cls) : State :=
  (s.useL2 (lineOf p) c.below c.cidx).replyTo b p

/-- The page that a buffer's entry for an address covers: its base and its size; of an untranslated access, the byte itself. -/
def State.pageAt (s : State) (b : TlbAt) (asid : BitVec 16) (va : Nat) : Nat × Nat :=
  (((s.tlb b).find? fun e => e.hits asid va).map fun e => (e.base, e.size)).getD (va, 1)

/-- A read of `n` bytes, `n` a power of two and the address a multiple of it, at the home slice: the value, and the state
with the translation cached. -/
def State.readVirt (s : State) (b : TlbAt) (asid : BitVec 16) (phys : Bool) (va n : Nat) (k : Cls := Cls.plain) :
    Except Cause (Nat × State) :=
  match s.check b asid phys false false .read false va n with
  | .fail c => .error c
  | .ok p e c =>
    if s.poisoned p then .error ⟨cECCU, 1⟩
    else .ok (leNat (readBytes s.homeByte p n), (s.touch b .read (.ok p e c)).atSlice b p k)

/-- A write of `n` bytes at the home slice. -/
def State.writeVirt (s : State) (b : TlbAt) (asid : BitVec 16) (phys : Bool) (va n v : Nat) : Except Cause State :=
  match s.check b asid phys false false .write false va n with
  | .fail c => .error c
  | .ok p e c => .ok (((s.touch b .write (.ok p e c)).atSlice b p Cls.plain).putHomes p (leBytes n v))

/-- What an agent does before it reads bytes: nothing, or what its own earlier stores ask for. -/
abbrev Before := State → Nat → Nat → State

/-- A read of `k` units of `n` bytes from an address: their bytes, or the cause and the address that failed. -/
def State.readUnits (s : State) (b : TlbAt) (asid : BitVec 16) (phys : Bool) (n va : Nat) (c : Cls := Cls.plain)
    (see : Before := fun s _ _ => s) : Nat → Except (Cause × Nat) (List Byte × State)
  | 0 => .ok ([], s)
  | k + 1 =>
    match (see s va n).readVirt b asid phys va n c with
    | .error x => .error (x, va)
    | .ok (v, s) =>
      match s.readUnits b asid phys n (va + n) c see k with
      | .error e => .error e
      | .ok (r, s) => .ok (leBytes n v ++ r, s)

/-- A read of `k` 8-byte words. -/
def State.readWords (s : State) (b : TlbAt) (asid : BitVec 16) (phys : Bool) (va k : Nat)
    (c : Cls := Cls.plain) (see : Before := fun s _ _ => s) : Except (Cause × Nat) (List Byte × State) :=
  s.readUnits b asid phys 8 va c see k

/-- The largest unit of up to 8 bytes that an address is aligned to. -/
def unitOf (va : Nat) : Nat := if va % 8 = 0 then 8 else if va % 4 = 0 then 4 else if va % 2 = 0 then 2 else 1

/-- A write of bytes in 8-byte words. -/
def State.writeWords (s : State) (b : TlbAt) (asid : BitVec 16) (phys : Bool) (va : Nat) (bs : List Byte) :
    Nat → Except (Cause × Nat) State
  | 0 => .ok s
  | k + 1 =>
    match s.writeVirt b asid phys va 8 (leNat (bs.take 8)) with
    | .error c => .error (c, va)
    | .ok s => s.writeWords b asid phys (va + 8) (bs.drop 8) k

end Sys2Proof.Machine
end

