-- ==== Sys2Proof/Machine/Operands.lean ====
section
/-!
DEFINITION. Registers and operands: reading and writing the registers of an agent (R59 to R62, R64), the values of operand
fields (R12, R79 to R82), the registers a word names, and the results of a word (R23, R33).
-/
namespace Sys2Proof.Machine

/-! ### Registers -/

/-- Vector register numbers at and above this name supervisor vectors; scalar numbers at and above `xsBase` supervisor
scalars. -/
def xvBase : Nat := 1024
def xsBase : Nat := 256

/-- Lane `l` of vector register `n`. -/
def Thread.getV (t : Thread) (n l : Nat) : Word :=
  if n < xvBase then tget 0 (64 * n + l) t.v else tget 0 (64 * (n - xvBase) + l) t.xv

/-- Writes lane `l` of vector register `n`; a write clears the lane's poison (R327). -/
def Thread.setV (t : Thread) (n l : Nat) (v : Word) : Thread :=
  if n < xvBase then
    { t with v := tset 0 (64 * n + l) v t.v, bad := t.bad.filter fun b => b.scalar || b.key ≠ 64 * n + l }
  else { t with xv := tset 0 (64 * (n - xvBase) + l) v t.xv }

def Thread.getS (t : Thread) (n : Nat) : Dword := if n < xsBase then tget 0 n t.s else tget 0 (n - xsBase) t.xs

def Thread.setS (t : Thread) (n : Nat) (v : Dword) : Thread :=
  if n < xsBase then { t with s := tset 0 n v t.s, bad := t.bad.filter fun b => !b.scalar || b.key ≠ n }
  else { t with xs := tset 0 (n - xsBase) v t.xs }

/-- Predicate `n`; `P15` reads as ones in every lane (R61). -/
def Thread.getP (t : Thread) (n : Nat) : Mask := if n = 15 then BitVec.allOnes 64 else tget 0 n t.p

/-- Writes predicate `n` in the lanes of `lanes`; a write to `P15` is discarded (R61). -/
def Thread.setP (t : Thread) (n : Nat) (lanes v : Mask) : Thread :=
  if n = 15 then t else { t with p := tset 0 n ((tget 0 n t.p &&& ~~~lanes) ||| (v &&& lanes)) t.p }

/-- Entry `j` of codebook register `n`. -/
def Thread.getK (t : Thread) (n j : Nat) : BitVec 16 := tget 0 (16 * n + j) t.k
def Thread.setK (t : Thread) (n j : Nat) (v : BitVec 16) : Thread := { t with k := tset 0 (16 * n + j) v t.k }

/-- A vector register as another lane reads it: a lane that is not live gives zero (R64). -/
def Thread.seenV (t : Thread) (n l : Nat) : Word := if t.live.getLsbD l then t.getV n l else 0

/-- The group runs a supervisor handler (R69). -/
def Thread.sup (t : Thread) : Bool := t.gst.getLsbD 31

/-- The number of a vector register operand. -/
def vIdx : Opd → Nat
  | .xv n => xvBase + n.toNat
  | o => o.num

/-- The number of a scalar register operand. -/
def sIdx : Opd → Nat
  | .xs n => xsBase + n.toNat
  | o => o.num

/-! ### What a word reads -/

/-- A word at issue: the registers, the active lanes, the fields, and the queue entries popped for `A`, `B` and C. -/
structure Env where
  a : Agent
  t : Thread
  n : Nat
  act : Mask
  opc : Nat
  f : Fields
  qa : List (List Word)
  qb : List (List Word)
  qc : List (List Word)
  /-- Active lanes whose register operands are poisoned, with the detail code (R327). -/
  bad : Mask
  badCode : BitVec 32
  deriving DecidableEq, Repr

/-- The active lanes, rising. -/
def Env.lanes (e : Env) : List Nat := lanesOf e.n e.act

/-- The lowest active lane. -/
def Env.low (e : Env) : Nat := (lowest e.n e.act).getD 0

/-- A popped entry's value: one read, or two of which the first is the low half (R12, R62). -/
def popped (q : List (List Word)) (w l : Nat) : Dword :=
  let lo := (q.getD 0 []).getD l 0
  if w = 64 then (q.getD 1 []).getD l 0 ++ lo else lo.setWidth 64

/-- `Opnd`: the value of an operand for lane `l`, read at width `w`, in the low bits (R12, R33). -/
def Env.opnd (e : Env) (q : List (List Word)) (o : Opd) (w l : Nat) : Dword :=
  match o with
  | .v _ | .xv _ =>
    let n := vIdx o
    if w = 64 then e.t.getV (n + 1) l ++ e.t.getV n l else (e.t.getV n l).setWidth 64
  | .s _ | .xs _ => e.t.getS (sIdx o)
  | .q _ => popped q w l
  | .p n => if (e.t.getP n.toNat).getLsbD l then 1 else 0
  | .immS => e.f.x.signExtend 64
  | .immZ => e.f.x.setWidth 64
  | _ => 0

def Env.va (e : Env) (w l : Nat) : Dword := e.opnd e.qa e.f.a w l
def Env.vb (e : Env) (w l : Nat) : Dword := e.opnd e.qb e.f.b w l
def Env.vc (e : Env) (w l : Nat) : Dword := e.opnd e.qc e.f.c w l
/-- The `D` operand as a source: store data, or the old destination. -/
def Env.vd (e : Env) (w l : Nat) : Dword := e.opnd [] e.f.d w l

/-- The effective address of the memory form (R14). -/
def Env.ea (e : Env) (l : Nat) : Dword :=
  let base := if e.f.a.isAbsent then 0 else e.va 64 l
  let idx : Dword :=
    match e.f.b with
    | .v _ | .xv _ => (e.t.getV (vIdx e.f.b) l).signExtend 64
    | .s _ | .xs _ => e.t.getS (sIdx e.f.b)
    | _ => 0
  base + (idx <<< e.f.xb 29 3) + ((e.f.x.setWidth 29).signExtend 64)

/-- The address of the form base + 24-bit offset (R157). -/
def Env.ea24 (e : Env) (l : Nat) : Dword := e.va 64 l + ((e.f.x.setWidth 24).signExtend 64)

/-! ### Results -/

/-- The register results of a word; vector keys are 64 n + lane, codebook keys 16 n + j. -/
structure Writes where
  vw : List (Nat × Word)
  sw : List (Nat × Dword)
  pw : List (Nat × Mask × Mask)
  kw : List (Nat × BitVec 16)
  deriving DecidableEq, Repr

def Writes.none : Writes := { vw := [], sw := [], pw := [], kw := [] }

/-- Applies results to the registers. -/
def Thread.applyW (t : Thread) (w : Writes) : Thread :=
  let t := w.vw.foldl (fun u x => u.setV (x.1 / 64) (x.1 % 64) x.2) t
  let t := w.sw.foldl (fun u x => u.setS x.1 x.2) t
  let t := w.pw.foldl (fun u x => u.setP x.1 x.2.1 x.2.2) t
  w.kw.foldl (fun u x => u.setK (x.1 / 16) (x.1 % 16) x.2) t

/-- The result of width `w` in lane `l` of a destination. -/
def laneWrite (d : Opd) (w l : Nat) (v : Dword) : Writes :=
  match d with
  | .v _ | .xv _ =>
    let n := vIdx d
    if w = 64 then
      { Writes.none with vw := [(64 * n + l, v.setWidth 32), (64 * (n + 1) + l, v.extractLsb' 32 32)] }
    else { Writes.none with vw := [(64 * n + l, v.setWidth 32)] }
  | .s _ | .xs _ => { Writes.none with sw := [(sIdx d, v)] }
  | .p n => { Writes.none with pw := [(n.toNat, bitMask l, if v = 0 then 0 else bitMask l)] }
  | _ => Writes.none

def Writes.append (x y : Writes) : Writes :=
  { vw := x.vw ++ y.vw, sw := x.sw ++ y.sw, pw := x.pw ++ y.pw, kw := x.kw ++ y.kw }

/-! ### The registers a word names -/

/-- Registers of a value of width `w`. -/
def regs2 (w : Nat) : Nat := if w = 64 then 2 else 1

/-- Lengths of the vector register runs at `D`, `A`, `B` and C. -/
def vSpans (opc : Nat) (f : Fields) : Nat × Nat × Nat × Nat :=
  let w := regs2 f.ity.width
  let sz := match f.size with
    | 3 => 2
    | 4 => 4
    | _ => 1
  if opc = 0x05 then (2, 1, 1, 2)
  else if opc = 0x13 || opc = 0x14 then (w, w, 1, w)
  else if opc = 0x19 then (1, 1, 1, 1)
  else if opc = 0x1E then (2, 2, 1, 1)
  else if opc ≤ 0x1F then (w, w, w, if opc = 0x1B then 1 else w)
  else if opc = 0x32 then (regs2 (intTy f.fnn).width, 1, 1, 1)
  else if opc = 0x33 then (1, regs2 (intTy f.fnn).width, 1, 1)
  else if opc = 0x4E || opc = 0x51 then
    (1, ((if f.xb 0 8 = 0 then blkCap f.ty else f.xb 0 8) + 15) / 16, 1, 1)
  else if opc = 0x75 then (2, 8, 1, 1)
  else if opc = 0x84 then (1, w, 1, 1)
  else if opc = 0x85 || opc = 0x86 then (regs2 (redWidth f), regs2 (redWidth f), 1, 1)
  else if 0xA0 ≤ opc ∧ opc ≤ 0xA3 then (sz, 2, 1, 1)
  else if 0xA5 ≤ opc ∧ opc ≤ 0xA7 then (sz, 2, sz, 1)
  else if 0xA9 ≤ opc ∧ opc ≤ 0xAB then (1, 2, 1, 1)
  else if 0xB0 ≤ opc ∧ opc ≤ 0xB3 then (1, 2, 1, 1)
  else if opc = 0xC3 || opc = 0xDC then (2, 1, 1, 1)
  else if opc = 0xCF then (f.xb 4 4, 1, 1, 1)
  else if opc = 0xE2 || opc = 0xE4 then (1, 2, 1, 1)
  else if opc = 0xE8 then (1, 1, 2, 1)
  else (1, 1, 1, 1)

/-- Lengths of the scalar register runs at `D`, `A` and `B`. -/
def sSpans (opc : Nat) (f : Fields) : Nat × Nat × Nat :=
  if opc = 0xE5 then (1, f.xb 0 4, 1)
  else if opc = 0xD6 then (f.fnn, f.fnn, 1)
  else if opc = 0xE8 then (1, 2, 1)
  else (1, 1, 1)

/-- The fields that carry source registers: `D` only where it is read. -/
def readsD (opc : Nat) (f : Fields) : Bool :=
  [0xA1, 0xA3, 0x1D, 0x66, 0xCF, 0xD3, 0xD5, 0xD6].contains opc || opc = 0xA5 && f.xb 24 5 = 9 ||
    opc = 0xD4

/-- Source fields with the lengths of their runs. -/
def sources (opc : Nat) (f : Fields) : List (Opd × Nat × Nat) :=
  let v := vSpans opc f
  let s := sSpans opc f
  (if readsD opc f then [(f.d, v.1, s.1)] else []) ++ [(f.a, v.2.1, s.2.1), (f.b, v.2.2.1, s.2.2)] ++
    if hasC opc then [(f.c, v.2.2.2, 1)] else []

/-- Fields with the lengths of their runs, in the order of their places. -/
def named (opc : Nat) (f : Fields) : List (Opd × Nat × Nat) :=
  let v := vSpans opc f
  let s := sSpans opc f
  [(f.d, v.1, s.1), (f.a, v.2.1, s.2.1), (f.b, v.2.2.1, s.2.2)] ++ if hasC opc then [(f.c, v.2.2.2, 1)] else []

/-- The register, run or tile reaches beyond the allocation or the window (R60, R177, R188, R209). -/
def beyondOne (nalloc nscalar nt : Nat) (x : Opd × Nat × Nat) : Bool :=
  match x.1 with
  | .v n => decide (nalloc < n.toNat + x.2.1)
  | .s n => decide (nscalar < n.toNat + x.2.2)
  | .t n => decide (nt ≤ n.toNat)
  | _ => false

/-- The fields whose reach is checked under R31. `SYSC`, `PHRS` and `NSIG` check their runs themselves, once some lane calls (R127,
R231, R391). -/
def bounded (opc : Nat) (f : Fields) : List (Opd × Nat × Nat) :=
  match opc with
  | 0x75 => []
  | 0xCF => [(f.a, 1, 1), (f.b, 1, 1)]
  | 0xE8 => [(f.d, 1, 1), (f.a, 1, 1), (f.b, 2, 1)]
  | _ => named opc f

/-- The first operand beyond its bound, in the order `D`, `A`, `B`, C: the spec does not say whose code is reported where several
reach beyond (DESIGN CHOICE, notes/assumptions/67.md). -/
def beyond (opc : Nat) (f : Fields) (nalloc nscalar nt : Nat) : Option Opd :=
  ((bounded opc f).find? (beyondOne nalloc nscalar nt)).map Prod.fst

/-- The lanes in which a poisoned register is read, and the detail code of the first (R327). -/
def badLanes (t : Thread) (opc : Nat) (f : Fields) (n : Nat) (act : Mask) : Mask × BitVec 32 :=
  if t.bad.isEmpty then (0, 0)
  else
    let hit (b : BadReg) (x : Opd × Nat × Nat) : Mask :=
      match x.1 with
      | .v m =>
        if !b.scalar && decide (m.toNat ≤ b.key / 64) && decide (b.key / 64 < m.toNat + x.2.1) then
          act &&& bitMask (b.key % 64)
        else 0
      | .s m => if b.scalar && decide (m.toNat ≤ b.key) && decide (b.key < m.toNat + x.2.2) then act else 0
      | _ => 0
    let ms := t.bad.map fun b => ((sources opc f).foldl (fun m x => m ||| hit b x) 0 &&& fullMask n, b)
    (ms.foldl (fun m x => m ||| x.1) 0,
      match ms.find? fun x => x.1 ≠ 0 with
      | some x => if x.2.stored then 4 else 2
      | none => 0)

/-- The queue-port reads of a word: field (0 `A`, 1 `B`, 2 C), port, entries (R12, R62). -/
def queueReads (opc : Nat) (f : Fields) : List (Nat × Nat × Nat) :=
  if opc = 0xD7 then []
  else
    let v := vSpans opc f
    let one (i : Nat) (o : Opd) (k : Nat) : List (Nat × Nat × Nat) :=
      match o with
      | .q n => [(i, n.toNat, k)]
      | _ => []
    one 0 f.a v.2.1 ++ one 1 f.b v.2.2.1 ++ if hasC opc then one 2 f.c v.2.2.2 else []

end Sys2Proof.Machine
end

