-- ==== Sys2Proof/Machine/Ops.lean ====
section
/-!
DEFINITION. The shared operations of every word: posting a fault (R322 to R324), taking an exception (R72 to R77, R192, R209,
R338) and returning from one (R76, R128, R192), the checks at issue (R31) and the issue of a word.
-/
namespace Sys2Proof.Machine

/-! ### Faults -/

/-- Posts a record to a die's fault buffer, or holds it where the buffer is full or a fault is held (R322, R324). -/
def postFault (s : State) (d : Nat) (r : FaultRec) : State :=
  let x := s.die d
  if x.fbuf.length = 4096 ∨ x.held ≠ [] then
    let s := if x.fbovf then s else raiseInt d 2 s
    let x := s.die d
    s.setDie d { x with fbovf := true, held := x.held ++ [r] }
  else
    let s := if x.fbuf.isEmpty then raiseInt d 1 s else s
    let x := s.die d
    s.setDie d { x with fbuf := x.fbuf ++ [r] }

/-- The clauses that a group holds, as the records list them (R259, R260). -/
def heldClauses (s : State) (b g : Nat) : List HeldEnt :=
  (List.range 17).flatMap fun d =>
    (s.die d).keys.filterMap fun k =>
      match k.holder with
      | some h =>
        if h.block = b ∧ h.grp = g then
          some { key := k.key, seq := k.nseq, grpno := g, origid := h.origid, poison := k.poison }
        else none
      | none => none

/-- A fault record with every field zero (R323). -/
def FaultRec.blank : FaultRec :=
  { cause := 0, agent := 0, kind := 0, asid := 0, core := 0xFFFF, detail := 0, cdetail := 0, pc := 0, word := 0, lanes := 0,
    blkno := 0, gridRec := 0, grpno := 0, ctx := 0, slot := 0, batch := 0, cursor := 0, addr := 0, nclauses := 0,
    clauses := [], loadpc := 0, xs := [], addrs := [], evidence := [] }

/-- A trap of all active lanes. -/
def Trap.all (cause : Nat) (detail : BitVec 32) (act : Mask) : Trap :=
  { cause := cause, detail := detail, lanes := act, cdetail := 0, addrs := [], evidence := [], loadpc := 0 }

/-- The trap of an operand that reaches beyond the allocation or the window (R60, R75). -/
def rangeTrap (o : Opd) (act : Mask) : Trap := { Trap.all cREGRANGE 0 act with cdetail := (opdCode o).setWidth 64 }

/-- The causes whose detail is an access kind (R75). -/
def hasKind (c : Nat) : Bool := [cMISALIGN, cPAGEF, cPROT, cRLOCK, cECCU].contains c

/-- The record of an agent's trap (R323). -/
def recordOf (s : State) (a : Agent) (t : Thread) (w : BitVec 96) (pc : Dword) (i : Trap) : FaultRec :=
  let b := s.blockNo a
  let base :=
    { FaultRec.blank with
      cause := BitVec.ofNat 8 i.cause, kind := if hasKind i.cause then (i.cdetail &&& 3).toNat else 0,
      asid := s.asidOf a, core := s.coreNo a, detail := i.detail, cdetail := i.cdetail, pc := pc, word := w,
      blkno := match s.block? b with
        | some k => k.blkno
        | none => 0
      gridRec := match s.grid? (s.gridNo a) with
        | some g => g.recAddr
        | none => 0 }
  match a with
  | .group _ g =>
    let h := heldClauses s b g
    { base with
      agent := if s.coreNo a = firmwareCore then 4 else 0, lanes := i.lanes, grpno := g,
      addr := match lowest 64 i.lanes with
        | some l => tget 0 l i.addrs
        | none => 0
      nclauses := h.length, clauses := h.take 4, loadpc := i.loadpc,
      xs := if t.sup then (List.range 4).map fun n => t.getS (xsBase + n) else [],
      addrs := i.addrs.filter fun e => i.lanes.getLsbD e.1, evidence := i.evidence.take 16 }
  | .mstream _ => { base with agent := 1, addr := tget 0 0 i.addrs }
  | .phrase c x =>
    let base := { base with agent := 2, ctx := x, addr := tget 0 0 i.addrs }
    match tlook x (s.core c).pctx with
    | some p => { base with grpno := p.issuer, batch := p.batch }
    | none => base

/-- The vector register of a key. -/
def regOf (k : Nat) : Nat := k / 64

/-- A set of results writes a register of a run (R25). -/
def Writes.meets (w : Writes) (x : Opd × Nat) : Bool :=
  match x.1 with
  | .v _ | .xv _ => w.vw.any fun y => decide (vIdx x.1 ≤ regOf y.1) && decide (regOf y.1 < vIdx x.1 + x.2)
  | .s _ | .xs _ => w.sw.any fun y => decide (sIdx x.1 ≤ y.1) && decide (y.1 < sIdx x.1 + x.2)
  | .p n => w.pw.any fun y => y.1 = n.toNat
  | _ => false

/-- The registers of an outstanding result. -/
def Outstanding.writes (o : Outstanding) : Writes := { vw := o.vw, sw := o.sw, pw := o.pw, kw := o.kw }

/-- Every outstanding result that carries no uncorrectable error is written (R24); a latch of a register among them is
released (R25). -/
def Thread.drain (t : Thread) : Thread :=
  let t' := t.outstanding.foldl (fun u o => { u.applyW o.writes with gst := u.gst ||| o.flags }) t
  { t' with outstanding := [], latch := t.latch.filter fun x => !t.outstanding.any fun o => o.writes.meets x }

/-- Where a group stands once it waits: one outside the active set is `SWAPPED` (R141, R142). -/
def parkedState (g : GState) : GState :=
  match g with
  | .pending | .swapped => .swapped
  | .evicted => .evicted
  | _ => .parked

/-- Where a group stands once its wait ends (R142). -/
def readyState (g : GState) : GState :=
  match g with
  | .parked => .active
  | .swapped => .pending
  | x => x

/-- Whether an agent counts as ready from now on: the time of a phrase context since it was last ready starts anew (R208). -/
def readyCount (a : Agent) (t : Thread) : Nat :=
  match a with
  | .phrase _ _ => 0
  | _ => t.ready

/-- Parks an agent on a trap: `SYSCALL` and `BKPT` go to the resident kernel, every other cause to the fault buffer of the
die where the agent stands (R72, R192, R209, R322). A `BKPT` raised while `SUP` = 1 goes to the resident kernel too and posts no
record (R72 and R126 against R77: DESIGN CHOICE, notes/assumptions/81.md). -/
def parkTrap (s : State) (a : Agent) (t : Thread) (w : BitVec 96) (pc : Dword) (i : Trap) : State :=
  let kern := i.cause = cSYSCALL || i.cause = cBKPT
  let r := recordOf s a t w pc i
  let s := s.setThread a
    { t with pc := pc, gstate := parkedState t.gstate, waited := 0, wait := if kern then .kern else .fault, warg := 0, cause := BitVec.ofNat 8 i.cause,
             ready := readyCount a t, detail := i.detail, tlanes := i.lanes, cdetail := i.cdetail, taddrs := i.addrs }
  if kern then s else postFault s (s.dieNo a) r

/-- Entry to a handler in the lanes of the group (R74, R338); `base` is where the handler stands. -/
def vectorTrap (s : State) (a : Agent) (t : Thread) (pc : Dword) (i : Trap) (base : Dword) : State :=
  let n := s.lanes a
  let x2 : Dword := if n = 64 then t.exm else (i.lanes <<< 32) ||| (t.exm &&& 0xFFFFFFFF#64)
  let t := (((t.setS xsBase (BitVec.ofNat 64 i.cause ||| (i.detail.setWidth 64 <<< 32))).setS (xsBase + 1) pc).setS
    (xsBase + 2) x2).setS (xsBase + 3) i.cdetail
  let t := (List.range n).foldl
    (fun u l =>
      let ad := tget 0 l i.addrs
      (u.setV xvBase l (ad.setWidth 32)).setV (xvBase + 1) l (ad.extractLsb' 32 32)) t
  s.setThread a { t with gst := t.gst ||| 0x80000000#32, exm := i.lanes &&& t.live, pc := base }

/-- A handler address from a base and a cause. -/
def handlerAt (base : Dword) (cause : Nat) : Dword := base + BitVec.ofNat 64 (256 * cause)

/-- A vector that is no multiple of 4 traps `MISALIGN` at the trapped word (R8); its own vector is misaligned too, so that trap
parks the agent (DEDUCED, notes/assumptions/68.md). -/
def badVector (i : Trap) : Trap := { Trap.all cMISALIGN 0 i.lanes with cdetail := 3 }

/-- The causes whose detail `S62` of a matrix stream takes (R190 to R192, R202). -/
def hasStreamDetail (c : Nat) : Bool := [cTILESTATE, cRANKOVF, cSLOTFULL, cBLKFMT].contains c

/-- The cause goes to the process's own handler (R72, R192): `deny` are the causes that never do. -/
def routed (s : State) (a : Agent) (cause : Nat) (deny : List Nat) (busy : Bool) : Bool :=
  s.ctxTvb (s.asidOf a) ≠ 0 && (s.ctxTrm (s.asidOf a)).getLsbD cause && decide (cause ≤ 0x15) && !deny.contains cause &&
    !busy

/-- The access kind of an outstanding word (R75). -/
def lateKind (w : BitVec 96) : Dword := if 0xA5 ≤ opcodeOf w ∧ opcodeOf w ≤ 0xA7 then 2 else 0

/-- The trap of a load whose data was uncorrectable: deferred where a word of its window has issued (R327). -/
def deferredTrap (o : Outstanding) : Trap :=
  { cause := cECCU, detail := o.ecode, lanes := o.eccu,
    cdetail := (if o.opened then o.pc &&& ~~~3#64 else 0) ||| lateKind o.word, addrs := o.addrs, evidence := [],
    loadpc := if o.opened then o.pc else 0 }

/-- The outstanding result whose uncorrectable data comes before any other trap. -/
def Thread.late? (t : Thread) : Option Outstanding := t.outstanding.find? fun o => o.eccu ≠ 0

/-- The recorded pc of a trap: that of a load whose data was uncorrectable before a word of its window issued (R327). -/
def Thread.latePc (t : Thread) : Dword :=
  match t.late? with
  | some o => if o.opened then t.pc else o.pc
  | none => t.pc

/-- The word of the trap's record. -/
def Thread.lateWord (t : Thread) (w : BitVec 96) : BitVec 96 :=
  match t.late? with
  | some o => if o.opened then w else o.word
  | none => w

/-- The replay entry at a trap: that of a late `ECCU`, which belongs to the recorded pc, else the group's own, no longer
issuing. -/
def lateReplay (t : Thread) : Option Replay :=
  match t.late? with
  | some o =>
    some { word := o.word, pc := t.latePc, lanes := o.eccu, addrs := o.addrs, armed := false, deferred := o.opened }
  | none => t.replay.map fun r => { r with armed := false }

/-- TAKING AN EXCEPTION, the one operation for every trap of every stream. The agent's state is that at the trapped word;
`w` is that word and `next` tells that the recorded pc is the next word's (`TRAPI`). An uncorrectable load result that is
still outstanding is delivered in place of the trap, before the word (R327). -/
def takeTrap (s : State) (a : Agent) (w : BitVec 96) (i : Trap) : State :=
  match s.thread? a with
  | none => s
  | some t0 =>
    let i := t0.late?.elim i deferredTrap
    let w := t0.lateWord w
    let t := { t0.drain with pc := t0.latePc, latch := none, yh := false, replay := lateReplay t0, wait := .none, warg := 0,
                             gstate := readyState t0.gstate }
    let pc := if i.cause = cTRAPI then t.pc + 12 else t.pc
    let vector (base : Dword) : State :=
      if base.toNat % 4 ≠ 0 then parkTrap s a t w t.pc (badVector i) else vectorTrap s a t pc i base
    match a with
    | .group _ _ =>
      if systemCore0 ≤ s.coreNo a ∧ s.coreNo a ≠ firmwareCore then
        vector (if t.sup then s.sys.kvec + 0x4000#64 else handlerAt s.sys.kvec i.cause)
      else if routed s a i.cause [cSYSCALL, cBKPT] t.sup then vector (handlerAt (s.ctxTvb (s.asidOf a)) i.cause)
      else parkTrap s a t w pc i
    | .mstream _ =>
      let base := handlerAt (s.ctxTvb (s.asidOf a) + 0x2000#64) i.cause
      if !routed s a i.cause [cBKPT] t.msup then parkTrap s a t w t.pc i
      else if base.toNat % 4 ≠ 0 then parkTrap s a t w t.pc (badVector i)
      else
        let t := ((t.setS 60 (BitVec.ofNat 64 i.cause ||| (i.detail.setWidth 64 <<< 32))).setS 61 pc).setS 62
          (if hasStreamDetail i.cause then i.cdetail else 0)
        s.setThread a { t with msup := true, pc := base }
    | .phrase _ _ => parkTrap s a t w t.pc i

/-! ### Results of a word -/

/-- How the body of a word ends: done, the pc advances; done or waiting, with the pc as the body left it; trapped, with the
effects of the lanes that complete. -/
inductive Res where
  | ok (s : State)
  | go (s : State)
  | trap (i : Trap) (s : State)
  deriving DecidableEq, Repr

/-- Changes the agent's own thread. -/
def State.modThread (s : State) (a : Agent) (g : Thread → Thread) : State :=
  match s.thread? a with
  | some t => s.setThread a (g t)
  | none => s

/-- Parks the agent on an event; its pc stays at the word (R142). -/
def park (s : State) (a : Agent) (w : Wait) (arg : Nat) : State :=
  s.modThread a fun t =>
    { t with gstate := parkedState t.gstate, waited := 0, wait := w, warg := BitVec.ofNat 6 arg, ready := readyCount a t }

/-- Suspends an agent's fetch at its word without parking it (R155). -/
def hold (s : State) (a : Agent) (w : Wait) (arg : Nat) : State :=
  s.modThread a fun t => { t with waited := 0, wait := w, warg := BitVec.ofNat 6 arg }

/-- Ends an agent's wait: a group in the active set competes again, one outside it becomes `PENDING` (R142); the other
streams go on. -/
def wake (s : State) (a : Agent) : State :=
  s.modThread a fun t =>
    { t with wait := .none, warg := 0, gstate := readyState t.gstate }

/-- Removes the replay entry; a deferred one leaves the pc where it is, any other moves past the word (R163). -/
def Thread.advance (t : Thread) : Thread :=
  match t.replay with
  | some r =>
    if r.armed then { t with replay := none, pc := if r.deferred then t.pc else t.pc + 12 } else { t with pc := t.pc + 12 }
  | none => { t with pc := t.pc + 12 }

/-- The lanes a word acts on (R31, R163): the guarded lanes of `EXM`, or those of a replay; a stream without lanes counts
as one active lane (R29). -/
def activeLanes (a : Agent) (n : Nat) (t : Thread) (f : Fields) : Mask :=
  match a with
  | .group _ _ =>
    match t.replay with
    | some r => if r.armed then r.lanes else t.exm &&& (t.getP f.gp.toNat ^^^ (if f.gn then BitVec.allOnes 64 else 0)) &&& fullMask n
    | none => t.exm &&& (t.getP f.gp.toNat ^^^ (if f.gn then BitVec.allOnes 64 else 0)) &&& fullMask n
  | _ => 1

/-- The translation buffer an agent uses (R320). -/
def tlbAt (s : State) (a : Agent) : TlbAt := .core (s.coreNo a)

/-- The agent's block runs untranslated (notes/assumptions/7.md). -/
def physicalOf (s : State) (a : Agent) : Bool :=
  match s.block? (s.blockNo a) with
  | some k => k.physical
  | none => false

/-- The agent runs resident-kernel code: the page of its pc has `SUP` = 1 (R337). -/
def kernelCode (s : State) (a : Agent) : Bool :=
  match a with
  | .group _ _ =>
    physicalOf s a ||
      match s.thread? a with
      | some t =>
        match (s.leaf (tlbAt s a) (s.asidOf a) t.pc.toNat false).1 with
        | .leaf e => pteSup e.pte
        | _ => false
      | none => false
  | _ => false

/-- The word names a supervisor register (R12). -/
def namesX (opc : Nat) (f : Fields) : Bool := f.d.isX || f.a.isX || f.b.isX || hasC opc && f.c.isX

/-- The word is privileged and the agent may not run it (R12, R29, R337): `XV`, `XS`, `ERET` and `PGMAP` need a handler,
`TLBI`, `TFENCE`, `FBPOP`, `CTXS` and `HALT` resident-kernel code, a `SETSR` of `ASID` or `PROGWIN` such code on a system
core (R67). -/
def denied (s : State) (a : Agent) (t : Thread) (opc : Nat) (f : Fields) : Bool :=
  let sup := match a with
    | .mstream _ => t.msup
    | _ => t.sup
  (namesX opc f || opc = 0x77 || opc = 0xE2) && !sup || [0xE0, 0xE1, 0xE3, 0xE7, 0xE9].contains opc && !kernelCode s a ||
    opc = 0x73 && (f.d = .sr 0x08#6 || f.d = .sr 0x09#6) && !(kernelCode s a && decide (systemCore0 ≤ s.coreNo a) && s.coreNo a ≠ firmwareCore)

/-- The tile registers of the agent's block (R177). -/
def tilesOf (s : State) (a : Agent) : Nat :=
  match s.block? (s.blockNo a) with
  | some k => k.nt
  | none => 0

/-- The waits that a group below level 0 of views may not make (R274). -/
def barredBelow (opc : Nat) : Bool := [0xB0, 0xE4, 0xE5, 0xAC, 0xAD, 0xAE].contains opc

/-- The legality checks of R31 for a word with an active lane, in their order. -/
def checkWord (s : State) (a : Agent) (t : Thread) (opc : Nat) (f : Fields) (act : Mask) : Option Trap :=
  let st := s.stream a
  if !inProfile opc st || !(legal opc f && legalIn opc f st) || t.vdepth ≠ 0 && barredBelow opc then some (Trap.all cILLOP 0 act)
  else if denied s a t opc f then some (Trap.all cPROT 0 act)
  else
    let isGroup := match a with
      | .group _ _ => true
      | _ => false
    match beyond opc f t.nalloc (if isGroup then 256 else 64) (tilesOf s a) with
    | some o => some (rangeTrap o act)
    | none => none

/-- How the queue-port reads of a word are met (R62, R222). -/
inductive QRes where
  /-- The entries for `A`, `B` and C, and the ports without them. -/
  | got (qa qb qc : List (List Word)) (ports : Tab (List (List Word)))
  /-- A port with too few entries. -/
  | empty (port : Nat)
  | err (detail : Nat)
  deriving DecidableEq, Repr

/-- Takes the entries of each read in turn. -/
def takeEntries : List (Nat × Nat × Nat) → List (Nat × List (List Word)) → Tab (List (List Word)) → QRes
  | [], acc, ports => .got ((alook 0 acc).getD []) ((alook 1 acc).getD []) ((alook 2 acc).getD []) ports
  | (i, p, k) :: r, acc, ports =>
    let q := tget [] p ports
    if q.length < k then .empty p else takeEntries r (acc ++ [(i, q.take k)]) (tput p (q.drop k) ports)

/-- The queue-port reads of a word: a block without an access program traps `QERR` 9, an empty port whose program has ended
`QERR` 6. A word that reads several entries pops none until each of its reads has one: R62 says of each read only that it waits
(DESIGN CHOICE, notes/assumptions/88.md). -/
def readQueues (s : State) (a : Agent) (opc : Nat) (f : Fields) : QRes :=
  let rs := queueReads opc f
  match s.block? (s.blockNo a) with
  | none => .got [] [] [] []
  | some k =>
    if rs.isEmpty then .got [] [] [] k.ports
    else if !k.hasAp then .err 9
    else
      match takeEntries rs [] k.ports with
      | .empty p => if k.apEnded then .err 6 else .empty p
      | q => q

/-- Commits the entries popped. -/
def popPorts (s : State) (a : Agent) (opc : Nat) (f : Fields) (ports : Tab (List (List Word))) : State :=
  if (queueReads opc f).isEmpty then s
  else
    match s.block? (s.blockNo a) with
    | some k => s.setBlock (s.blockNo a) { k with ports := ports }
    | none => s

/-- The trap of a word that reads poisoned registers, where its body traps too: of a higher cause nothing is left, and lanes that meet
`ECCU` elsewhere trap as well (R73); the lowest lane's detail code is reported (DESIGN CHOICE, notes/assumptions/76.md). -/
def alsoBad (e : Env) (i : Trap) : Trap :=
  if i.cause = cECCU then
    { i with lanes := i.lanes ||| e.bad,
             detail := if (lowest 64 e.bad).getD 64 < (lowest 64 i.lanes).getD 64 then e.badCode else i.detail }
  else Trap.all cECCU e.badCode e.bad

/-- The outcome of the body of a word: the pc moves on, stays, or the trap is taken. A word that reads a poisoned register
traps `ECCU` where its body meets no lower cause; a memory instruction weighs that itself (R73, R327). A word that would trap
while an uncorrectable load result is due leaves no effect, since that result's trap comes before it (R327). -/
def settle (s : State) (a : Agent) (w : BitVec 96) (e : Env) (ports : Tab (List (List Word))) (r : Res) : State :=
  let own := 0xA0 ≤ e.opc ∧ e.opc ≤ 0xAB
  match r with
  | .trap i s' =>
    if e.t.late?.isSome then takeTrap s a w i
    else if e.bad ≠ 0 ∧ ¬ own ∧ cECCU ≤ i.cause then takeTrap s a w (alsoBad e i)
    else takeTrap s' a w i
  | .ok s' =>
    if e.bad ≠ 0 ∧ ¬ own then takeTrap s a w (Trap.all cECCU e.badCode e.bad)
    else (popPorts s' a e.opc e.f ports).modThread a Thread.advance
  | .go s' =>
    if e.bad ≠ 0 ∧ ¬ own then takeTrap s a w (Trap.all cECCU e.badCode e.bad) else popPorts s' a e.opc e.f ports

/-- The word is a release at `FAB` scope: a load, store or atomic whose ordering releases, `SC` among them (R165, R308), or a
fence that releases (R389). -/
def fabRelease (opc : Nat) (f : Fields) : Bool :=
  decide (4 ≤ f.ty) &&
    ([0xA0, 0xA1, 0xA2, 0xA3, 0xA5, 0xA6, 0xA7].contains opc && ordRel (f.fnn % 4) || opc = 0xA8 && f.fnn % 4 ≠ 1)

/-- Signals that the group sent and that are not yet performed at their destination (R389). -/
def signalsDue (s : State) (a : Agent) : Bool :=
  s.sys.flows.any fun x => x.unacked.any fun y =>
    match y.2, a with
    | .signal b g _ _ _, .group b' g' => b = b' && g = g'
    | _, _ => false

/-- How a word stands at issue. -/
inductive Entry where
  /-- No lane is active: a no-operation (R31). -/
  | idle
  /-- A check of R31, or a queue port whose program has ended, traps. -/
  | traps (i : Trap)
  /-- A queue port is empty: the agent parks on it (R62). -/
  | queue (port : Nat)
  /-- A release at `FAB` waits for the group's signals, its fetch suspended (R389). -/
  | signals
  /-- The body runs, with the queue ports as it leaves them. -/
  | runs (e : Env) (ports : Tab (List (List Word)))
  deriving DecidableEq, Repr

/-- The entry of a word of agent `a` with registers `t` (R31, R62). -/
def entry (opc : Nat) (f : Fields) (s : State) (a : Agent) (t : Thread) : Entry :=
  let n := s.lanes a
  let act := activeLanes a n t f
  if act = 0 then .idle
  else
    match checkWord s a t opc f act with
    | some i => .traps i
    | none =>
      match readQueues s a opc f with
      | .err d => .traps (Trap.all cQERR (BitVec.ofNat 32 d) act)
      | .empty p => .queue p
      | .got qa qb qc ports =>
        if fabRelease opc f && signalsDue s a then .signals
        else
          let b := badLanes t opc f n act
          .runs { a := a, t := t, n := n, act := act, opc := opc, f := f, qa := qa, qb := qb, qc := qc, bad := b.1,
                  badCode := b.2 } ports

/-- Issue of a word by the agent `s.cur` (R31): without an active lane a no-operation; then the checks of R31, the waits of
R62, and the body of its entry. -/
def issue (opc : Nat) (f : Fields) (s : State) (body : Env → State → Res) : Host.Outcome State Fault Refusal :=
  match s.thread? s.cur with
  | none => .fault .noAgent
  | some t =>
    match entry opc f s s.cur t with
    | .idle => .next (s.setThread s.cur t.advance)
    | .traps i => .next (takeTrap s s.cur (wordOf opc f) i)
    | .queue p => .next (park s s.cur .queue p)
    | .signals => .next (hold s s.cur .own 6)
    | .runs e ports => .next (settle s s.cur (wordOf opc f) e ports (body e s))

/-- Issue of a word that waits until every outstanding register result of its agent is written (`SYSC`, `BKPT`, `EXIT`: R24), so
that its guard and its operands are read after them; an uncorrectable one among them traps in its place (R327). -/
def issueAfterResults (opc : Nat) (f : Fields) (s : State) (body : Env → State → Res) : Host.Outcome State Fault Refusal :=
  match (s.thread? s.cur).bind Thread.late? with
  | some _ => .next (takeTrap s s.cur (wordOf opc f) (Trap.all cECCU 0 0))
  | none => issue opc f (s.modThread s.cur Thread.drain) body

/-- The guard of a word, which stands whatever its operand codes. -/
def guardOf (w : BitVec 96) : Fields :=
  { fn := 0, gn := w.getLsbD 83, gp := w.extractLsb' 79 4, la := 0, ka := false, yh := false, cc := 0, d := .absent, a := .absent,
    b := .absent, mod := 0, x := 0 }

/-- A reserved or undecodable word: a no-operation without an active lane, else `ILLOP` (R30, R31). -/
def issueIllegal (w : BitVec 96) (s : State) : Host.Outcome State Fault Refusal :=
  let a := s.cur
  match s.thread? a with
  | none => .fault .noAgent
  | some t =>
    let act := activeLanes a (s.lanes a) t (guardOf w)
    if act = 0 then .next (s.setThread a t.advance) else .next (takeTrap s a w (Trap.all cILLOP 0 act))

/-- RETURN FROM AN EXCEPTION of a group (R76, R128): the pc from `XS1`, the mask from `XS2`, `SUP` cleared; a replay entry
at that pc issues next, and any other is discarded (R163). -/
def returnGroup (s : State) (a : Agent) (t : Thread) : State :=
  let pc := t.getS (xsBase + 1)
  let x2 := t.getS (xsBase + 2)
  let m := if s.lanes a = 64 then x2 else x2 &&& 0xFFFFFFFF#64
  let r := match t.replay with
    | some r => if r.pc = pc then some { r with armed := true } else none
    | none => none
  s.setThread a
    { t with pc := pc, exm := m &&& t.live, gst := t.gst &&& 0x7FFFFFFF#32, replay := r, latch := none }

/-- RETURN FROM AN EXCEPTION of a matrix stream (R192). -/
def returnStream (s : State) (a : Agent) (t : Thread) : State :=
  s.setThread a { t with pc := t.getS 61, msup := false }

end Sys2Proof.Machine
end

