-- ==== Sys2Proof/Machine/Flags.lean ====
section
/-!
DEFINITION. Flags and results: the trap of an enabled flag (R70), and the completion of a word whose lanes compute values
and flags (R23, R33, R79, R80).
-/
namespace Sys2Proof.Machine

/-- The trap of an enabled flag: the lanes that would raise it, and all flags that would have been raised (R70, R75). -/
def fpTrap (e : Env) (fl : List (Nat × Flags)) : Option Trap :=
  let en := (e.t.gst >>> 16) &&& 0x1F#32
  let tl : Mask := fl.foldl (fun m x => if x.2 &&& en = 0 then m else m ||| bitMask x.1) 0
  if tl = 0 then none
  else some { Trap.all cFPEXC 0 tl with cdetail := ((fl.foldl (fun m x => m ||| x.2) (0 : Flags)).setWidth 64) }

/-- The replay that this word is, if it is one. -/
def Env.replay? (e : Env) : Option Replay := e.t.replay.filter Replay.armed

/-- Writes the results and flags of a word: at once, or, under a lookahead count, when the register write arrives (R23); the group
stays at a replay until its results are there (R163). -/
def complete (e : Env) (s : State) (w : Writes) (fl : Flags) (eccu : Mask) (ecode : BitVec 32) (addrs : Tab Dword) : State :=
  s.modThread e.a fun t =>
    if e.f.la = 0 ∨ e.replay?.isSome then { (t.applyW w) with gst := t.gst ||| fl }
    else
      { t with outstanding := t.outstanding ++
          [{ window := e.f.la.toNat, opened := false, word := wordOf e.opc e.f, pc := e.t.pc, vw := w.vw, sw := w.sw,
             pw := w.pw, kw := w.kw, flags := fl, eccu := eccu, ecode := ecode, addrs := addrs }] }

/-- Completes with results and flags, or traps on an enabled flag. -/
def finishWith (e : Env) (s : State) (w : Writes) (fl : List (Nat × Flags)) : Res :=
  match fpTrap e fl with
  | some i => .trap i s
  | none => .ok (complete e s w (fl.foldl (fun m x => m ||| x.2) 0) 0 0 [])

/-- A word whose lanes each compute a result of width `w`: once for an `S` destination, whose flags then count in every
active lane (R80). -/
def laneWise (e : Env) (s : State) (w : Nat) (g : Nat → Dword × Flags) : Res :=
  if e.f.d.isS then
    let r := g e.low
    finishWith e s (laneWrite e.f.d w 0 r.1) (e.lanes.map fun l => (l, r.2))
  else
    let rs := e.lanes.map fun l => (l, g l)
    finishWith e s (rs.foldl (fun acc x => acc.append (laneWrite e.f.d w x.1 x.2.1)) Writes.none)
      (rs.map fun x => (x.1, x.2.2))

/-- A word that writes a predicate per active lane. -/
def laneTest (e : Env) (s : State) (g : Nat → Bool × Flags) : Res :=
  laneWise e s 32 fun l => let r := g l; (if r.1 then 1 else 0, r.2)

end Sys2Proof.Machine
end

