-- ==== Sys2Proof/Machine/Control.lean ====
section
/-!
DEFINITION. The control, mask, predicate, special-register and trap instructions, opcodes 0x60 to 0x77 (R112 to R128);
`EXIT` stands in Machine/Exit.lean.
-/
namespace Sys2Proof.Machine

/-! ### Transfer of control (R114 to R117) -/

/-- The address of the next word. -/
def Env.next (e : Env) : Dword := e.t.pc + 12

/-- The target form: relative to the next word (R114). -/
def Env.target (e : Env) : Dword := e.next + e.f.x.signExtend 64

/-- The form register plus offset (R114). -/
def Env.regTarget (e : Env) : Dword := e.va 64 e.low + e.f.x.signExtend 64

/-- A taken branch: a target that is not a multiple of 4 traps `MISALIGN` at the branch and changes nothing; else `g` writes
the registers, the latch is released and the pc moves (R25, R114). -/
def jump (e : Env) (s : State) (dest : Dword) (g : Thread → Thread) : Res :=
  if dest.toNat % 4 ≠ 0 then .trap { Trap.all cMISALIGN 0 e.act with cdetail := 3 } s
  else .go (s.modThread e.a fun t => { (g t) with pc := dest, latch := none })

def execNop (f : Fields) (s : State) := issue 0x60 f s fun _ s => .ok s
def execBra (f : Fields) (s : State) := issue 0x61 f s fun e s => jump e s e.target id
def execBrx (f : Fields) (s : State) := issue 0x62 f s fun e s => jump e s e.regTarget id

/-- `BRZ` tests a predicate over the active lanes, or a scalar register (R116). -/
def brzTaken (e : Env) : Bool :=
  match e.f.a with
  | .p n => e.act &&& (e.t.getP n.toNat ^^^ (if e.f.fn.getLsbD 0 then BitVec.allOnes 64 else 0)) = 0
  | _ => e.va 64 e.low = 0

def execBrz (f : Fields) (s : State) := issue 0x63 f s fun e s => if brzTaken e then jump e s e.target id else .ok s

/-- The return address is written when the call is taken; the operands are read first (R115). -/
def execCall (f : Fields) (s : State) := issue 0x64 f s fun e s =>
  jump e s (if f.fn.getLsbD 0 then e.regTarget else e.target) fun t => t.setS (sIdx f.d) e.next

def execRet (f : Fields) (s : State) := issue 0x65 f s fun e s => jump e s (e.va 64 e.low) id

/-- The counter falls by one modulo 2^64 and the branch is taken while it is not 0 (R115). -/
def execLoop (f : Fields) (s : State) := issue 0x66 f s fun e s =>
  let c := e.t.getS (sIdx f.d) - 1
  if c ≠ 0 then jump e s e.target fun t => t.setS (sIdx f.d) c
  else .ok (s.modThread e.a fun t => t.setS (sIdx f.d) c)

/-! ### The execution mask (R118, R119) -/

/-- The mask a scalar register holds for the group's lanes. -/
def Env.savedMask (e : Env) : Mask := e.va 64 e.low &&& fullMask e.n

def execSplit (f : Fields) (s : State) := issue 0x68 f s fun e s =>
  let m := e.t.exm &&& e.t.getP f.a.num
  let save (t : Thread) : Thread := t.setS (sIdx f.d) e.t.exm
  if m = 0 then jump e s e.target save else .ok (s.modThread e.a fun t => { (save t) with exm := m })

def execFlip (f : Fields) (s : State) := issue 0x69 f s fun e s =>
  let v := e.savedMask
  let m := v &&& ~~~e.t.exm &&& e.t.live
  if m ≠ 0 then .ok (s.modThread e.a fun t => { t with exm := m })
  else if v &&& e.t.live = 0 then .trap (Trap.all cILLOP 0 e.act) s
  else jump e s e.target fun t => { t with exm := v &&& e.t.live }

def execMerge (f : Fields) (s : State) := issue 0x6A f s fun e s =>
  let m := e.savedMask &&& e.t.live
  if m = 0 then .trap (Trap.all cILLOP 0 e.act) s else .ok (s.modThread e.a fun t => { t with exm := m })

/-! ### Predicates (R122) -/

/-- A predicate source, inverted where bit `i` of `FN` says so. -/
def Env.invP (e : Env) (o : Opd) (i : Nat) : Mask :=
  e.t.getP o.num ^^^ (if e.f.fn.getLsbD i then BitVec.allOnes 64 else 0)

/-- A predicate instruction on two predicates. -/
def predOp (g : Mask → Mask → Mask) (e : Env) (s : State) : Res :=
  .ok (s.modThread e.a fun t => t.setP e.f.d.num e.act (g (e.invP e.f.a 0) (e.invP e.f.b 1)))

def execPand (f : Fields) (s : State) := issue 0x6B f s (predOp fun a b => a &&& b)
def execPor (f : Fields) (s : State) := issue 0x6C f s (predOp fun a b => a ||| b)
def execPxor (f : Fields) (s : State) := issue 0x6D f s (predOp fun a b => a ^^^ b)

def execPset (f : Fields) (s : State) := issue 0x6E f s fun e s =>
  .ok (s.modThread e.a fun t => t.setP f.d.num e.act (e.va 64 e.low))

def execPmov (f : Fields) (s : State) := issue 0x6F f s fun e s =>
  .ok (s.modThread e.a fun t => t.setS (sIdx f.d) (e.t.getP f.a.num &&& e.t.live &&& fullMask e.n))

/-! ### Yield and sleep (R123) -/

/-- An outstanding result whose window has closed keeps the next word from issuing (R23); one with uncorrectable data traps there
instead (R327). -/
def Thread.resultDue (t : Thread) : Bool := t.outstanding.any fun o => o.window = 0 && o.eccu = 0

/-- The next word waits for a register result, or for the accesses of the word before it (R155). -/
def Thread.stalled (t : Thread) : Bool := t.job.isSome || t.resultDue

/-- The next word waits for a register result: a due one, or that of a load or atomic whose accesses are not yet performed; a
store and a `RED` give none (R142). -/
def Thread.awaitsResult (t : Thread) : Bool := t.resultDue || t.job.any fun j => j.opc ≠ 0xA1 && j.opc ≠ 0xA6

/-- The slice of a group (R150); a system core has one active set (R337). -/
def sliceOf (s : State) (b g : Nat) : Nat :=
  match s.block? b with
  | some k => if systemCore0 ≤ k.core then 0 else (k.base + g) % 16
  | none => 0

/-- The agent's next word can issue: nothing parks the agent, suspends its fetch or holds the word (R142, R147, R155). -/
def Thread.isReady (t : Thread) : Bool := t.gstate = .active && t.wait = .none && !t.stalled

/-- The group is in the active set and its next word can issue. -/
def groupReady (s : State) (a : Agent) : Bool := (s.thread? a).any Thread.isReady

/-- The other ready groups of the group's slice. -/
def readyPeers (s : State) (a : Agent) : List Agent :=
  match a with
  | .group b g =>
    (s.threads.map Prod.fst).filter fun x =>
      match x with
      | .group b' g' => x ≠ a && s.coreNo x = s.coreNo a && sliceOf s b' g' = sliceOf s b g && groupReady s x
      | _ => false
  | _ => []

/-- The group also stands aside in the next issue slot, as with `YH` (R147). -/
def execYield (f : Fields) (s : State) := issue 0x70 f s fun e s =>
  .ok (s.modThread e.a fun t => { t with yieldTo := readyPeers s e.a, yielding := true, yh := true })

/-- The count is clamped; the word itself is done at issue, and the group waits. -/
def execSleep (f : Fields) (s : State) := issue 0x71 f s fun e s =>
  let c := min ((e.va 64 e.low).toNat % 2 ^ 32) 1048576
  if c = 0 then .ok s else .ok ((park s e.a .sleep 0).modThread e.a fun t => { t with sleep := c })

/-! ### Special registers (R67 to R69, R124, R125) -/

/-- The block of the issuing agent, or an empty one. -/
def Env.blk (e : Env) (s : State) : Option Block := s.block? (s.blockNo e.a)

/-- The value of special register `n` for lane `l`. -/
def readSr (e : Env) (s : State) (n : BitVec 6) (l : Nat) : Dword :=
  let ofBlock (g : Block → Dword) : Dword := (e.blk s).elim 0 g
  match n.toNat with
  | 0x00 => BitVec.ofNat 64 l
  | 0x01 => (tget 0 l e.t.origid).setWidth 64
  | 0x02 =>
    match e.a with
    | .group _ g => BitVec.ofNat 64 g
    | _ => 0
  | 0x03 => ofBlock Block.blkno
  | 0x04 => BitVec.ofNat 64 (s.coreNo e.a)
  | 0x05 => BitVec.ofNat 64 (s.dieNo e.a)
  | 0x06 => e.t.vdepth.setWidth 64
  | 0x07 => (s.die (s.dieNo e.a)).clk
  | 0x08 => ofBlock fun k => (k.asidHi ++ k.asid).setWidth 64
  | 0x09 => (s.core (s.coreNo e.a)).progwin.setWidth 64
  | 0x0A => ofBlock fun k => k.tol.setWidth 64
  | 0x0B => ofBlock fun k => k.vc.setWidth 64
  | 0x0C => ofBlock fun k => k.tctl.setWidth 64
  | 0x10 => e.t.exm
  | 0x11 => e.t.live
  | 0x12 => e.t.help
  | _ => e.t.gst.setWidth 64

/-- The width of special register `n` in a group of `lanes` lanes. -/
def srWidth (n : BitVec 6) (lanes : Nat) : Nat :=
  if n = 0x03#6 || n = 0x07#6 then 64
  else if lanes = 64 && (n = 0x10#6 || n = 0x11#6 || n = 0x12#6) then 64
  else 32

/-- On the firmware core a mask goes into a scalar register or a pair. -/
def execGetsr (f : Fields) (s : State) := issue 0x72 f s fun e s =>
  match f.a with
  | .sr n =>
    if srWidth n e.n = 64 && !f.d.pairOk then .trap (Trap.all cILLOP 0 e.act) s
    else laneWise e s (srWidth n e.n) fun l => (readSr e s n l, 0)
  | _ => .ok s

/-- The bits of `GST` that `SETSR` writes (R69), and of `TCTL` (R185). -/
def gstMask : BitVec 32 := 0x001F01FF
def tctlMask : BitVec 32 := 0x00001F05

/-- Changes the issuing agent's block. -/
def modBlock (e : Env) (s : State) (g : Block → Block) : State :=
  match e.blk s with
  | some k => s.setBlock (s.blockNo e.a) (g k)
  | none => s

def execSetsr (f : Fields) (s : State) := issue 0x73 f s fun e s =>
  let v := e.va 64 e.low
  let w := v.setWidth 32
  match f.d.num with
  | 0x08 => .ok (modBlock e s fun k => { k with asid := v.setWidth 16, asidHi := v.extractLsb' 16 16 })
  | 0x09 => .ok (s.setCore (s.coreNo e.a) { s.core (s.coreNo e.a) with progwin := w })
  | 0x0A => .ok (modBlock e s fun k => { k with tol := w })
  | 0x0B => .ok (modBlock e s fun k => { k with vc := if 32 < w.toNat then 32 else w })
  | 0x0C => .ok (modBlock e s fun k => { k with tctl := w &&& tctlMask })
  | 0x10 =>
    let m := v &&& fullMask e.n &&& e.t.live
    if m = 0 then .trap (Trap.all cILLOP 0 e.act) s else .ok (s.modThread e.a fun t => { t with exm := m })
  | _ => .ok (s.modThread e.a fun t => { t with gst := (w &&& gstMask) ||| (t.gst &&& 0x80000000) })

/-! ### Traps and returns (R126 to R128, R192) -/

/-- The number of the extension form. -/
def Env.num16 (e : Env) : BitVec 32 := BitVec.ofNat 32 (e.f.xb 0 16)

def execTrap (f : Fields) (s : State) := issue 0x74 f s fun e s => .trap (Trap.all cTRAPI e.num16 e.act) s
def execBkpt (f : Fields) (s : State) := issueAfterResults 0x76 f s fun e s => .trap (Trap.all cBKPT e.num16 e.act) s

/-- A call in a handler traps `PROT`, and one without a calling lane is a no-operation; only then are the register runs checked
(R127). -/
def execSysc (f : Fields) (s : State) := issueAfterResults 0x75 f s fun e s =>
  if e.t.sup then .trap (Trap.all cPROT 0 e.act) s
  else if e.act &&& e.t.getP f.fnn &&& ~~~e.t.help = 0 then .ok s
  else
    match [(f.a, 8, 1), (f.d, 2, 1)].find? (beyondOne e.t.nalloc 256 0) with
    | some o => .trap (rangeTrap o.1 e.act) s
    | none => .trap (Trap.all cSYSCALL e.num16 e.act) (s.release (s.coreNo e.a) .pkg)

/-- A return whose mask would be empty traps `ILLOP`, and one whose pc is misaligned `MISALIGN`, at the `ERET`. -/
def execEret (f : Fields) (s : State) := issue 0x77 f s fun e s =>
  match e.a with
  | .mstream _ =>
    if (e.t.getS 61).toNat % 4 ≠ 0 then .trap { Trap.all cMISALIGN 0 e.act with cdetail := 3 } s
    else .go (returnStream s e.a e.t)
  | _ =>
    if e.t.getS (xsBase + 2) &&& fullMask e.n &&& e.t.live = 0 then .trap (Trap.all cILLOP 0 e.act) s
    else if (e.t.getS (xsBase + 1)).toNat % 4 ≠ 0 then .trap { Trap.all cMISALIGN 0 e.act with cdetail := 3 } s
    else .go (returnGroup s e.a e.t)

end Sys2Proof.Machine
end

