-- ==== Sys2Proof/Machine/Barriers.lean ====
section
/-!
DEFINITION. Counted barriers: `BARI`, `BARA`, `BARW` and the release of a waiting agent (R167 to R170, R193).
-/
namespace Sys2Proof.Machine

/-- A barrier as it stands at the launch of a block of `n` groups (R167). -/
def Barrier.launch (n : Nat) : Barrier := { exp := n, cnt := 0, ph := false, arr := 0, tv := 0, tp := 0 }

/-- Barrier `n` of a block. -/
def Block.bar (k : Block) (n : Nat) : Barrier := k.bars.getD n (Barrier.launch k.ngrp)

/-- Replaces barrier `n`. -/
def Block.setBar (k : Block) (n : Nat) (b : Barrier) : Block := { k with bars := k.bars.set n b }

/-- A mask with bit `i` written. -/
def withBit (m : Mask) (i : Nat) (v : Bool) : Mask := if v then m ||| bitMask i else m &&& ~~~bitMask i

/-- An arrival of agent `i` with count `k` (R168). -/
def Barrier.arrive (b : Barrier) (i k : Nat) : Barrier :=
  let b := { b with arr := withBit b.arr i true, tp := withBit b.tp i b.ph, tv := withBit b.tv i true, cnt := b.cnt + k }
  if b.exp ≤ b.cnt then { b with ph := !b.ph, cnt := b.cnt - b.exp, arr := 0 } else b

/-- The start of a wait: a token where the agent has none. -/
def Barrier.token (b : Barrier) (i : Nat) : Barrier :=
  if b.tv.getLsbD i then b else { b with tp := withBit b.tp i b.ph, tv := withBit b.tv i true }

/-- The agent's phase has gone by: its wait is over. -/
def Barrier.passed (b : Barrier) (i : Nat) : Bool := b.ph != b.tp.getLsbD i

/-- The wait ends. -/
def Barrier.leave (b : Barrier) (i : Nat) : Barrier := { b with tv := withBit b.tv i false }

/-- `BARW`: passes at once, with the acquire, or parks on the barrier. -/
def barWait (e : Env) (s : State) (n : Nat) : Res :=
  match e.blk s with
  | none => .ok s
  | some k =>
    let i := agentIndex e.a
    let b := (k.bar n).token i
    if b.passed i then .ok ((modBlock e s fun k => k.setBar n (b.leave i)).acquire (s.coreNo e.a) .core)
    else .go (park (modBlock e s fun k => k.setBar n b) e.a .bar n)

/-- The `N64` operand, 1 where absent. -/
def Env.count (e : Env) : Nat := if e.f.a.isAbsent then 1 else (e.va 64 e.low).toNat

def execBari (f : Fields) (s : State) := issue 0xAC f s fun e s =>
  if e.count = 0 ∨ 65535 < e.count then .trap (Trap.all cILLOP 0 e.act) s
  else .ok (modBlock e s fun k => k.setBar f.fnn { k.bar f.fnn with exp := e.count, cnt := 0, arr := 0 })

/-- A matrix instruction of the block is still in progress (R193). -/
def matrixBusy (s : State) (a : Agent) : Bool :=
  match a with
  | .mstream b =>
    match (s.core (s.coreNo a)).mx with
    | some j => j.block = b
    | none => false
  | _ => false

/-- A completion of barrier `n` of block `b` ends the wait on it that an evicted group's record holds (R171). -/
def endEvicted (s : State) (b n : Nat) (k : Block) : Block :=
  (List.range k.ngrp).foldl
    (fun (k : Block) g =>
      let waits := (s.thread? (.group b g)).any fun t => t.gstate = .evicted && t.wait = .bar && t.warg.toNat = n
      if waits && !k.barDone.getLsbD g && (k.bar n).passed g then
        { k.setBar n ((k.bar n).leave g) with barDone := k.barDone ||| bitMask g }
      else k) k

/-- An arrival is a release at `CORE`; that of a matrix stream waits until its earlier matrix instructions have completed. -/
def arriveOp (e : Env) (s : State) (n : Nat) (waits : Bool) : Res :=
  match e.blk s with
  | none => .ok s
  | some k =>
    if e.count = 0 ∨ (k.bar n).exp < e.count then .trap (Trap.all cILLOP 0 e.act) s
    else if matrixBusy s e.a then .go (park s e.a .own 0)
    else
      let s := s.release (s.coreNo e.a) .core
      let s := modBlock e s fun k => endEvicted s (s.blockNo e.a) n (k.setBar n ((k.bar n).arrive (agentIndex e.a) e.count))
      if waits then barWait e s n else .ok s

def execBara (f : Fields) (s : State) := issue 0xAD f s fun e s => arriveOp e s f.fnn (f.mod.getLsbD 0)
def execBarw (f : Fields) (s : State) := issue 0xAE f s fun e s => barWait e s f.fnn

/-- The end of a barrier wait whose phase has changed: the token is cleared, the wait is an acquire at `CORE`, and the agent
goes on after its word (R168, R169); else nothing happens. -/
def execBarrierRelease (a : Agent) (s : State) : Host.Outcome State Fault Refusal :=
  match s.thread? a, s.block? (s.blockNo a) with
  | some t, some k =>
    let n := t.warg.toNat
    let i := agentIndex a
    if t.wait = .bar ∧ t.gstate ≠ .evicted ∧ (k.bar n).passed i then
      let s := s.setBlock (s.blockNo a) (k.setBar n ((k.bar n).leave i))
      .next (((wake s a).modThread a Thread.advance).acquire (s.coreNo a) .core)
    else .next s
  | _, _ => .next s

end Sys2Proof.Machine
end

