-- ==== Sys2Proof/Machine/Trans.lean ====
section
/-!
DEFINITION. `FRCP`, `FRSQ`, `FEXP2`, `FLOG2`, `FSIN` and `FCOS` (R97): the exact value where it is dyadic, and otherwise 100
and more bits of it with the sticky mark, which one rounding to at most 24 bits then takes to the correct result.
-/
namespace Sys2Proof

/-- Bits after the point of the fixed-point series. -/
def fxP : Nat := 160

/-- π × 2^200 and ln 2 × 2^200, rounded down. -/
def fxPi : Nat := 0x3243f6a8885a308d313198a2e03707344a4093822299f31d008
def fxLn2 : Nat := 0xb17217f7d1cf79abc9e3b39803f2f6af40f343267298b62d8a

/-- An irrational magnitude m × 2^e known to many bits: drops the last 40 and marks the rest sticky. -/
def irrational (neg : Bool) (m : Nat) (e : Int) : Ex := { neg := neg, m := m >>> 40, e := e + 40, sticky := true }

/-- m × 2^e in fixed point. -/
def toFx (m : Nat) (e : Int) : Nat :=
  let k := e + fxP
  if k < 0 then m >>> (-k).toNat else m <<< k.toNat

/-- Σ t^k / k!, from `term` = t^k / k!. -/
def expSum (t : Nat) : Nat → Nat → Nat → Nat → Nat
  | 0, _, _, acc => acc
  | n + 1, k, term, acc => expSum t n (k + 1) (((term * t) >>> fxP) / (k + 1)) (acc + term)

/-- Σ z^(2k+1) / (2k+1), from `p` = z^(2k+1). -/
def atanhSum (z2 : Nat) : Nat → Nat → Nat → Nat → Nat
  | 0, _, _, acc => acc
  | n + 1, k, p, acc => atanhSum z2 n (k + 1) ((p * z2) >>> fxP) (acc + p / (2 * k + 1))

/-- Σ (−1)^k u^k / (2k+1)!, the sum of positive terms and the sum of negative ones. -/
def sinSum (u : Nat) : Nat → Nat → Nat → Nat × Nat → Nat × Nat
  | 0, _, _, acc => acc
  | n + 1, k, term, acc =>
    sinSum u n (k + 1) (((term * u) >>> fxP) / ((2 * k + 2) * (2 * k + 3)))
      (if k % 2 = 0 then (acc.1 + term, acc.2) else (acc.1, acc.2 + term))

/-- 2^a for an exact real a. -/
def exp2Ex (a : Ex) : Ex :=
  if a.m = 0 then { neg := false, m := 1, e := 0, sticky := false }
  else if 16 ≤ a.e + a.m.log2 then { neg := false, m := 1, e := if a.neg then -65536 else 65536, sticky := true }
  else if 0 ≤ a.e then { neg := false, m := 1, e := a.scaled 0, sticky := false }
  else
    let q := (-a.e).toNat
    let v := a.scaled a.e
    let n := v.fdiv (2 ^ q)
    let k := (v.fmod (2 ^ q)).toNat
    if k = 0 then { neg := false, m := 1, e := n, sticky := false }
    else if a.e + a.m.log2 < -60 then
      if a.neg then { neg := false, m := 2 ^ 56 - 1, e := -56, sticky := true }
      else { neg := false, m := 2 ^ 56, e := -56, sticky := true }
    else
      let t := (toFx k a.e * fxLn2) >>> 200
      irrational false (expSum t 60 0 (2 ^ fxP) 0) (n - fxP)

/-- log2 of a positive exact real. -/
def log2Ex (a : Ex) : Ex :=
  let l := a.m.log2
  let n : Int := a.e + l
  if a.m = 2 ^ l then Ex.ofInt n
  else
    let z := ((a.m - 2 ^ l) <<< fxP) / (a.m + 2 ^ l)
    let ln := 2 * atanhSum ((z * z) >>> fxP) 60 0 z 0
    let v : Int := n * 2 ^ fxP + ((ln <<< 200) / fxLn2 : Nat)
    irrational (decide (v < 0)) v.natAbs (-fxP)

/-- sin(π k / 2^q) for 0 < k / 2^q < 1/2. -/
def sinPiEx (neg : Bool) (k q : Nat) : Ex :=
  let pr := (toFx k (-q) * fxPi) >>> 200
  let s := sinSum ((pr * pr) >>> fxP) 40 0 (2 ^ fxP) (0, 0)
  irrational neg (k * (((s.1 - s.2) * fxPi) >>> 200)) (-q - fxP)

/-- ±1. -/
def oneEx (neg : Bool) : Ex := { neg := neg, m := 1, e := 0, sticky := false }

/-- sin(π a). -/
def sinEx (a : Ex) : Ex :=
  if 0 ≤ a.e then Ex.zero a.neg
  else
    let q := (-a.e).toNat
    let k2 := a.m % 2 ^ (q + 1)
    let neg := a.neg != decide (2 ^ q ≤ k2)
    let k1 := k2 % 2 ^ q
    if k1 = 0 then Ex.zero a.neg
    else
      let k := if 2 ^ (q - 1) < k1 then 2 ^ q - k1 else k1
      if k = 2 ^ (q - 1) then oneEx neg else sinPiEx neg k q

/-- cos(π a). -/
def cosEx (a : Ex) : Ex :=
  if 0 ≤ a.e then oneEx (decide (a.e = 0) && decide (a.m % 2 = 1))
  else
    let q := (-a.e).toNat
    let k2 := a.m % 2 ^ (q + 1)
    let k := if 2 ^ q < k2 then 2 ^ (q + 1) - k2 else k2
    if k = 0 then oneEx false
    else if k = 2 ^ q then oneEx true
    else if k = 2 ^ (q - 1) then Ex.zero false
    else if k < 2 ^ (q - 1) then
      if k * 2 ^ 40 < 2 ^ q then { neg := false, m := 2 ^ 56 - 1, e := -56, sticky := true }
      else sinPiEx false (2 ^ (q - 1) - k) q
    else sinPiEx true (k - 2 ^ (q - 1)) q

/-- One of the six functions as rows of R97: 0 `FRCP`, 1 `FRSQ`, 2 `FEXP2`, 3 `FLOG2`, 4 `FSIN`, 5 `FCOS`. -/
def transVal (fn : Nat) (a : Val) : Val × Flags :=
  match a with
  | .nan s => (.nan s, flagIf s fIV)
  | .inf n =>
    match fn with
    | 0 => (.fin (Ex.zero n), 0)
    | 1 => if n then (.nan false, fIV) else (.fin (Ex.zero false), 0)
    | 2 => if n then (.fin (Ex.zero false), 0) else (.inf false, 0)
    | 3 => if n then (.nan false, fIV) else (.inf false, 0)
    | _ => (.nan false, fIV)
  | .fin x =>
    match fn with
    | 0 => if x.isZero then (.inf x.neg, fDZ) else (.fin (divEx (oneEx false) x 60), 0)
    | 1 =>
      if x.isZero then (.inf x.neg, fDZ)
      else if x.neg then (.nan false, fIV)
      else
        let k := 2 * (60 + x.m.log2) + (if (x.e % 2 = 0) then 0 else 1)
        let n := 2 ^ k
        let r := isqrt (n / x.m)
        (.fin { neg := false, m := r, e := -(x.e + k) / 2, sticky := decide (r * r * x.m ≠ n) }, 0)
    | 2 => (.fin (exp2Ex x), 0)
    | 3 =>
      if x.isZero then (.inf true, fDZ) else if x.neg then (.nan false, fIV) else (.fin (log2Ex x), 0)
    | 4 => (.fin (sinEx x), 0)
    | _ => (.fin (cosEx x), 0)

/-- The result and flags of one of the six functions, always to nearest even. -/
def fTrans (t : FFmt) (fz : Bool) (fn : Nat) (a : Val) : Nat × Flags :=
  let r := transVal fn a
  roundOff t .rn fz 0 r

end Sys2Proof
end

