-- ==== Sys2Proof/Machine/Float.lean ====
section
/-!
DEFINITION. The floating-point and conversion instructions, opcodes 0x20 to 0x34 (R92 to R100).
-/
namespace Sys2Proof.Machine

/-- A floating-point operand's encoding. -/
def encOf (t : FFmt) (v : Dword) : Nat := v.toNat % 2 ^ t.bits

/-- Floating-point operands, a subnormal read as zero under `.FZ` (R82). -/
def Env.fa (e : Env) (l : Nat) : Val := widenFz e.f.fty e.f.fz (encOf e.f.fty (e.va 32 l))
def Env.fb (e : Env) (l : Nat) : Val := widenFz e.f.fty e.f.fz (encOf e.f.fty (e.vb 32 l))
def Env.fc (e : Env) (l : Nat) : Val := widenFz e.f.fty e.f.fz (encOf e.f.fty (e.vc 32 l))

/-- An encoding as a register value, the bits above it zero (R82). -/
def asReg (r : Nat × Flags) : Dword × Flags := (BitVec.ofNat 64 r.1, r.2)

/-- An instruction whose result encoding and flags in lane `l` are `g l`. -/
def fltOp (g : Env → Nat → Nat × Flags) (e : Env) (s : State) : Res := laneWise e s 32 fun l => asReg (g e l)

def execFadd (f : Fields) (s : State) := issue 0x20 f s (fltOp fun e l => fAdd e.f.fty e.f.mode e.f.fz (e.fa l) (e.fb l))
def execFsub (f : Fields) (s : State) := issue 0x21 f s (fltOp fun e l => fSub e.f.fty e.f.mode e.f.fz (e.fa l) (e.fb l))
def execFmul (f : Fields) (s : State) := issue 0x22 f s (fltOp fun e l => fMul e.f.fty e.f.mode e.f.fz (e.fa l) (e.fb l))
def execFfma (f : Fields) (s : State) :=
  issue 0x23 f s (fltOp fun e l => fFma e.f.fty e.f.mode e.f.fz (e.fa l) (e.fb l) (e.fc l))

/-- `FMIN` and `FMAX` choose an encoding (R94). -/
def minMaxOp (isMax : Bool) : Env → State → Res :=
  fltOp fun e l => fMinMax e.f.fty e.f.fz isMax (encOf e.f.fty (e.va 32 l)) (encOf e.f.fty (e.vb 32 l))

def execFmin (f : Fields) (s : State) := issue 0x24 f s (minMaxOp false)
def execFmax (f : Fields) (s : State) := issue 0x25 f s (minMaxOp true)

def execFcmp (f : Fields) (s : State) := issue 0x26 f s fun e s =>
  laneTest e s fun l => (fCond f.fnn (vcmp (e.fa l) (e.fb l)), sigFlag [e.fa l, e.fb l])

/-- The encoding as it stands, without `.FZ` and without flags (R96). -/
def execFclass (f : Fields) (s : State) := issue 0x27 f s (fltOp fun e l => (fClass e.f.fty (encOf e.f.fty (e.va 32 l)), 0))

def execFdiv (f : Fields) (s : State) := issue 0x28 f s (fltOp fun e l => fDiv e.f.fty e.f.mode e.f.fz (e.fa l) (e.fb l))
def execFsqrt (f : Fields) (s : State) := issue 0x29 f s (fltOp fun e l => fSqrt e.f.fty e.f.mode e.f.fz (e.fa l))

/-- A function of R97. -/
def transOp (k : Nat) : Env → State → Res := fltOp fun e l => fTrans e.f.fty e.f.fz k (e.fa l)

def execFrcp (f : Fields) (s : State) := issue 0x2A f s (transOp 0)
def execFrsq (f : Fields) (s : State) := issue 0x2B f s (transOp 1)
def execFexp2 (f : Fields) (s : State) := issue 0x2C f s (transOp 2)
def execFlog2 (f : Fields) (s : State) := issue 0x2D f s (transOp 3)
def execFsin (f : Fields) (s : State) := issue 0x2E f s (transOp 4)
def execFcos (f : Fields) (s : State) := issue 0x2F f s (transOp 5)
def execFrnd (f : Fields) (s : State) := issue 0x30 f s (fltOp fun e l => fRnd e.f.fty e.f.mode e.f.fz (e.fa l))

/-- One rounding of the source's value, whose format stands in `FN` (R99). -/
def execCvt (f : Fields) (s : State) := issue 0x31 f s (fltOp fun e l =>
  let st := fFmt e.f.fnn
  let v := widenFz st e.f.fz (encOf st (e.va 32 l))
  roundOff e.f.fty e.f.mode e.f.fz (sigFlag [v]) (v, 0))

/-- To an integer type, which stands in `FN` (R45, R99). -/
def execCvtfi (f : Fields) (s : State) := issue 0x32 f s fun e s =>
  laneWise e s (intTy f.fnn).width fun l => toInt (intTy f.fnn) f.mode (e.fa l)

/-- From an integer type, which stands in `FN` (R45, R99). -/
def execCvtif (f : Fields) (s : State) := issue 0x33 f s (fltOp fun e l =>
  let it := intTy e.f.fnn
  roundVal e.f.fty e.f.mode e.f.fz (.fin (Ex.ofInt (it.value (e.va it.width l)))))

/-- The halves of a packed operand as values of the word's format. -/
def half (e : Env) (v : Dword) (hi : Bool) : Val :=
  widenFz e.f.fty e.f.fz ((if hi then v.toNat / 65536 else v.toNat) % 65536)

/-- R100: c and the result are `F32`. -/
def execFdot2 (f : Fields) (s : State) := issue 0x34 f s (fltOp fun e l =>
  let a := e.va 32 l
  let b := e.vb 32 l
  fDot2 .f32 e.f.mode e.f.fz (half e a false) (half e a true) (half e b false) (half e b true)
    (widenFz .f32 e.f.fz (encOf .f32 (e.vc 32 l))))

end Sys2Proof.Machine
end

