-- ==== Sys2Proof/Machine/Packed.lean ====
section
/-!
DEFINITION. The packed 16-bit instructions, opcodes 0x40 to 0x4C (R101 to R104).
-/
namespace Sys2Proof.Machine

/-- The low or high half of a packed operand. -/
def hpart (v : Dword) (hi : Bool) : Nat := (if hi then v.toNat / 65536 else v.toNat) % 65536

/-- Two halves as a packed word, in bits [31:0] (R82). -/
def packHalves (lo hi : Nat) : Dword := BitVec.ofNat 64 (lo % 65536 + 65536 * (hi % 65536))

/-- A packed instruction: `g l hi` is the result half and its flags; the flags of both halves are raised. -/
def packOp (g : Env → Nat → Bool → Nat × Flags) (e : Env) (s : State) : Res :=
  laneWise e s 32 fun l =>
    let lo := g e l false
    let hi := g e l true
    (packHalves lo.1 hi.1, lo.2 ||| hi.2)

def execHadd2 (f : Fields) (s : State) := issue 0x40 f s (packOp fun e l h =>
  fAdd e.f.fty e.f.mode e.f.fz (half e (e.va 32 l) h) (half e (e.vb 32 l) h))
def execHsub2 (f : Fields) (s : State) := issue 0x41 f s (packOp fun e l h =>
  fSub e.f.fty e.f.mode e.f.fz (half e (e.va 32 l) h) (half e (e.vb 32 l) h))
def execHmul2 (f : Fields) (s : State) := issue 0x42 f s (packOp fun e l h =>
  fMul e.f.fty e.f.mode e.f.fz (half e (e.va 32 l) h) (half e (e.vb 32 l) h))
def execHfma2 (f : Fields) (s : State) := issue 0x43 f s (packOp fun e l h =>
  fFma e.f.fty e.f.mode e.f.fz (half e (e.va 32 l) h) (half e (e.vb 32 l) h) (half e (e.vc 32 l) h))
def execHmin2 (f : Fields) (s : State) := issue 0x44 f s (packOp fun e l h =>
  fMinMax e.f.fty e.f.fz false (hpart (e.va 32 l) h) (hpart (e.vb 32 l) h))
def execHmax2 (f : Fields) (s : State) := issue 0x45 f s (packOp fun e l h =>
  fMinMax e.f.fty e.f.fz true (hpart (e.va 32 l) h) (hpart (e.vb 32 l) h))

/-- The element type of the packed integer instructions (R102). -/
def packTy (f : Fields) : IntTy := if f.ty = 5 then .i16 else .n16

/-- A half of an operand as an integer of a 16-bit type. -/
def ihalf (t : IntTy) (v : Dword) (hi : Bool) : Int := t.value (BitVec.ofNat 64 (hpart v hi))

/-- A packed integer instruction: `FN`[0] saturates, `FN`[1] crosses the halves of b (R102). -/
def packInt (g : Int → Int → Int) : Env → State → Res :=
  packOp fun e l h =>
    let t := packTy e.f
    let r := t.fit (e.f.fn.getLsbD 0) (g (ihalf t (e.va 32 l) h) (ihalf t (e.vb 32 l) (h != e.f.fn.getLsbD 1)))
    (r.1.toNat % 65536, r.2)

def execIadd2 (f : Fields) (s : State) := issue 0x46 f s (packInt fun a b => a + b)
def execIsub2 (f : Fields) (s : State) := issue 0x47 f s (packInt fun a b => a - b)
def execImin2 (f : Fields) (s : State) := issue 0x48 f s (packInt fun a b => min a b)
def execImax2 (f : Fields) (s : State) := issue 0x49 f s (packInt fun a b => max a b)

/-- One half of `VACS2`: the survivor, the decision and `SATF` (R103). -/
def vacsHalf (e : Env) (l : Nat) (h : Bool) : Nat × Bool × Flags :=
  let t := packTy e.f
  let a := e.va 32 l
  let b := e.vb 32 l
  let c := e.vc 32 l
  let x := t.fit true (ihalf t a h + ihalf t c h)
  let y := t.fit true (ihalf t b h + ihalf t c (!h))
  let dec := decide (t.value y.1 < t.value x.1)
  ((if dec then y.1 else x.1).toNat % 65536, dec, x.2 ||| y.2)

/-- Writes `D` and the two decision predicates `Pn`, `Pn+1`, n in `FN` (R103). -/
def execVacs2 (f : Fields) (s : State) := issue 0x4A f s fun e s =>
  let one (l : Nat) : Writes :=
    let lo := vacsHalf e l false
    let hi := vacsHalf e l true
    let w := laneWrite f.d 32 l (packHalves lo.1 hi.1)
    { w with pw := [(f.fnn, bitMask l, if lo.2.1 then bitMask l else 0), (f.fnn + 1, bitMask l, if hi.2.1 then bitMask l else 0)] }
  finishWith e s (e.lanes.foldl (fun acc l => acc.append (one l)) Writes.none)
    (e.lanes.map fun l => (l, (vacsHalf e l false).2.2 ||| (vacsHalf e l true).2.2))

/-- Packs two 32-bit values (R104). -/
def execPack2 (f : Fields) (s : State) := issue 0x4B f s (packOp fun e l h =>
  let v := if h then e.vb 32 l else e.va 32 l
  if e.f.ty = 5 || e.f.ty = 6 then
    let r := (packTy e.f).fit true (IntTy.i32.value v)
    (r.1.toNat % 65536, r.2)
  else
    let x := widenFz .f32 e.f.fz (encOf .f32 v)
    roundOff e.f.fty e.f.mode e.f.fz (sigFlag [x]) (x, 0))

/-- Widens one half to 32 bits; `FN`[0] selects the half (R104). -/
def execUnpk2 (f : Fields) (s : State) := issue 0x4C f s fun e s =>
  laneWise e s 32 fun l =>
    let v := e.va 32 l
    let h := f.fn.getLsbD 0
    if f.ty = 5 || f.ty = 6 then (BitVec.ofInt 64 (ihalf (packTy f) v h), 0)
    else
      let x := half e v h
      asReg (roundOff .f32 .rn f.fz (sigFlag [x]) (x, 0))

end Sys2Proof.Machine
end

