-- ==== Sys2Proof/Machine/Blocks.lean ====
section
/-!
DEFINITION. Self-describing blocks (R46 to R54) and the block instructions, opcodes 0x4D to 0x52 (R105 to R111).
-/
namespace Sys2Proof.Machine

/-! ### Blocks -/

/-- A block: its 64 bytes. -/
abbrev Blk := List Nat

def Blk.byte (b : Blk) (i : Nat) : Nat := b.getD i 0

/-- The floating-point format of a format code. -/
def blkFmt (c : Nat) : FFmt :=
  match c with
  | 1 => .bf16
  | 2 => .f16
  | 3 => .f8e
  | _ => .f8p

/-- The number of valid elements of a block that is neither `ZERO` nor `INVALID` (R50, R51). -/
def Blk.count (b : Blk) : Nat := if b.byte 3 = 0 then blkCap (b.byte 0) else b.byte 3

/-- The block is well formed (R52). -/
def Blk.ok (b : Blk) : Bool :=
  let c := b.byte 0
  if c = 0 ∨ c = 0xFF then true
  else
    decide (c ≤ 7) && b.byte 1 ≠ 0 && b.byte 1 ≠ 255 && byte2Ok c (b.byte 2) && decide (b.byte 3 ≤ blkCap c)

/-- The raw code of element `i` (R51). -/
def Blk.code (b : Blk) (i : Nat) : Nat :=
  match b.byte 0 with
  | 1 | 2 => b.byte (4 + 2 * i) + 256 * b.byte (5 + 2 * i)
  | 3 | 4 | 6 => b.byte (4 + i)
  | _ => (b.byte (4 + i / 2) >>> (4 * (i % 2))) % 16

/-- v(i): the unscaled value of a raw code under a format, byte 2 and a codebook (R37, R46, R48). -/
def codeVal (fmt byte2 : Nat) (cb : List Nat) (fz : Bool) (c : Nat) : Val :=
  match fmt with
  | 5 => widen .bf16 (cb.getD c 0)
  | 6 | 7 => .fin (Ex.ofInt ((c : Int) - byte2))
  | _ => widenFz (blkFmt fmt) fz c

/-- Element `i` of a block against the codebooks `cb`, with `BLKERR` for an `INVALID` block (R52, R106). -/
def Blk.elem (b : Blk) (cb : Nat → List Nat) (i : Nat) : Val × Flags :=
  if b.byte 0 = 0 then (.fin (Ex.zero false), 0)
  else if b.byte 0 = 0xFF then (.nan false, fBLKERR)
  else if b.count ≤ i then (.fin (Ex.zero false), 0)
  else ((codeVal (b.byte 0) (b.byte 2) (cb (b.byte 2)) false (b.code i)).scale2 ((b.byte 1 : Int) - 127), 0)

/-- The target magnitude T of a format (R53). -/
def targetOf (fmt : Nat) (cb : List Nat) : Ex :=
  match fmt with
  | 1 | 2 => Ex.ofInt 1
  | 3 => Ex.ofInt 57344
  | 4 => Ex.ofInt 240
  | 5 => (finEntries cb).foldl (fun m x => if m.lt x.2.abs then x.2.abs else m) (Ex.zero false)
  | 6 => Ex.ofInt 127
  | _ => Ex.ofInt 7

/-- The smallest integer k with a ≤ t × 2^k, for positive a and t. -/
def leastShift (a t : Ex) : Int :=
  let k := (a.e + a.m.log2) - (t.e + t.m.log2)
  if (t.scale2 k).lt a then k + 1 else k

/-- The scale code of a block's values: none where they make a `ZERO` block; with `SCUF` where it was clamped (R53). -/
def scaleCode (fmt : Nat) (cb : List Nat) (xs : List Val) : Option Nat × Flags :=
  let amax := xs.foldl
    (fun m v =>
      match v with
      | .fin x => if m.lt x.abs then x.abs else m
      | _ => m) (Ex.zero false)
  let odd := xs.any fun v =>
    match v with
    | .fin _ => false
    | _ => true
  let t := targetOf fmt cb
  if amax.isZero && !odd then (none, 0)
  else if amax.isZero || t.isZero then (some 127, 0)
  else
    let s := leastShift amax t + 127
    if s < 1 then (some 1, fSCUF) else if 254 < s then (some 254, 0) else (some s.toNat, 0)

/-- One element encoded from its scaled value, with flags; a signalling NaN sets `IV` (R38, R47, R49). -/
def encodeElem (fmt byte2 : Nat) (cb : List Nat) (mode : RMode) (fz : Bool) (v : Val) : Nat × Flags :=
  match fmt with
  | 5 => encodeC4 cb v
  | 6 => let r := encodeOff 8 byte2 mode v; (r.1, r.2 ||| sigFlag [v])
  | 7 => let r := encodeOff 4 byte2 mode v; (r.1, r.2 ||| sigFlag [v])
  | _ => let r := roundVal (blkFmt fmt) mode fz v; (r.1, r.2 ||| sigFlag [v])

/-- The payload of a list of raw codes: 60 bytes, the rest zero (R51). -/
def payload (fmt : Nat) (cs : List Nat) : List Nat :=
  match fmt with
  | 1 | 2 => (List.range 60).map fun i => (cs.getD (i / 2) 0 >>> (8 * (i % 2))) % 256
  | 3 | 4 | 6 => (List.range 60).map fun i => cs.getD i 0
  | _ => (List.range 60).map fun i => cs.getD (2 * i) 0 + 16 * cs.getD (2 * i + 1) 0

/-- Encodes values, the count byte as given, at scale code `s`. -/
def encodeAt (fmt byte2 cnt s : Nat) (cb : List Nat) (mode : RMode) (fz : Bool) (xs : List Val) : Blk × Flags :=
  let es := xs.map fun v => encodeElem fmt byte2 cb mode fz v
  ([fmt, s, byte2, cnt] ++ payload fmt (es.map Prod.fst), es.foldl (fun m x => m ||| x.2) 0)

/-- Encodes one block without a given scale (R53). -/
def encodeBlock (fmt byte2 cnt : Nat) (cb : List Nat) (mode : RMode) (fz : Bool) (xs : List Val) : Blk × Flags :=
  match scaleCode fmt cb xs with
  | (none, _) => (List.replicate 64 0, 0)
  | (some s, fl) =>
    let r := encodeAt fmt byte2 cnt s cb mode fz (xs.map fun v => v.scale2 (127 - s))
    (r.1, r.2 ||| fl)

/-- Re-encodes a block at scale code `s'` (R54); elements at or beyond the count have no payload bits. With `.FZ` a subnormal element is
read as zero before it is rescaled (R42), besides the flush of the result; `BDEC` reads its element exactly (DESIGN CHOICE,
notes/assumptions/89.md). -/
def requant (b : Blk) (cb : Nat → List Nat) (mode : RMode) (fz : Bool) (s' : Nat) : Blk × Flags :=
  if b.byte 0 = 0 then (b, 0)
  else if b.byte 0 = 0xFF then (b, fBLKERR)
  else
    let fmt := b.byte 0
    let xs := (List.range b.count).map fun i =>
      (codeVal fmt (b.byte 2) (cb (b.byte 2)) fz (b.code i)).scale2 ((b.byte 1 : Int) - s')
    encodeAt fmt (b.byte 2) (b.byte 3) s' (cb (b.byte 2)) mode fz xs

/-! ### Blocks in registers (R105) -/

/-- A lane's word of a register as a block instruction reads it. -/
def blkWord (e : Env) (n l : Nat) : Word := if l < e.n then e.t.seenV n l else 0

/-- Block `h` of vector register `n`. -/
def regBlock (e : Env) (n h : Nat) : Blk :=
  (List.range 64).map fun i => ((blkWord e n (16 * h + i / 4)).toNat >>> (8 * (i % 4))) % 256

/-- The halves that hold an active lane. -/
def halvesOf (e : Env) : List Nat := (List.range 4).filter fun h => e.lanes.any fun l => l / 16 = h

/-- The group's codebook register `n` (R46). -/
def groupCb (t : Thread) (n : Nat) : List Nat := (List.range 16).map fun j => (t.getK n j).toNat

/-- Word `k` of a block. -/
def Blk.word (b : Blk) (k : Nat) : Dword :=
  BitVec.ofNat 64 (b.byte (4 * k) + 256 * b.byte (4 * k + 1) + 65536 * b.byte (4 * k + 2) + 16777216 * b.byte (4 * k + 3))

/-- The trap of blocks of which some are malformed, where `g` gives the results and flags of the lanes: an enabled flag of a lane
whose block is well formed is the lower cause (R73). -/
def badBlocks (e : Env) (ok : Nat → Bool) (g : Nat → Dword × Flags) : Trap :=
  let ls := if e.f.d.isS && !ok (e.low / 16) then [] else e.lanes.filter fun l => e.f.d.isS || ok (l / 16)
  (fpTrap e (ls.map fun l => (l, (g (if e.f.d.isS then e.low else l)).2))).getD (Trap.all cBLKFMT 0 e.act)

/-- Each active lane receives its word of its half's block. The flags of a half's block count in every active lane of that half, which
is who traps where one is enabled (DESIGN CHOICE, notes/assumptions/72.md). -/
def writeBlocks (e : Env) (s : State) (ok : Nat → Bool) (g : Nat → Blk × Flags) : Res :=
  let hs := (halvesOf e).map fun h => (h, g h)
  let get (l : Nat) : Blk × Flags := (tlook (l / 16) hs).getD ([], 0)
  let lane (l : Nat) : Dword × Flags := let r := get l; (r.1.word (l % 16), r.2)
  if (halvesOf e).all ok then laneWise e s 32 lane else .trap (badBlocks e ok lane) s

def execBdec (f : Fields) (s : State) := issue 0x4D f s fun e s =>
  let ok (h : Nat) : Bool := (regBlock e (vIdx f.a) h).ok
  let lane (l : Nat) : Dword × Flags :=
    let r := (regBlock e (vIdx f.a) (l / 16)).elem (groupCb e.t) ((e.vb 32 l).toNat % 2 ^ 32)
    asReg (roundOff f.fty f.mode f.fz (r.2 ||| sigFlag [r.1]) (r.1, 0))
  if (halvesOf e).all ok then laneWise e s 32 lane else .trap (badBlocks e ok lane) s

/-- The values that `BENC` and `AMAX` read for half `h` (R107). -/
def encValues (e : Env) (h : Nat) : List Val :=
  let cnt := if e.f.xb 0 8 = 0 then blkCap e.f.ty else e.f.xb 0 8
  (List.range cnt).map fun i => widenFz .f32 e.f.fz (blkWord e (vIdx e.f.a + i / 16) (16 * h + i % 16)).toNat

def execBenc (f : Fields) (s : State) := issue 0x4E f s fun e s =>
  writeBlocks e s (fun _ => true) fun h =>
    encodeBlock f.ty (f.xb 8 8) (f.xb 0 8) (groupCb e.t (f.xb 8 8 % 8)) f.mode f.fz (encValues e h)

/-- The lowest cause of several failures wins (R109). -/
def execReqb (f : Fields) (s : State) := issue 0x4F f s fun e s =>
  let sc := (e.vb 64 e.low).toNat
  let bs := (halvesOf e).map fun h => regBlock e (vIdx f.a) h
  if f.mode ≠ .rn && bs.any (fun b => b.byte 0 = 5) then .trap (Trap.all cILLOP 0 e.act) s
  else if sc < 1 ∨ 254 < sc then .trap (Trap.all cBLKFMT 0 e.act) s
  else
    writeBlocks e s (fun h => (regBlock e (vIdx f.a) h).ok) fun h =>
      requant (regBlock e (vIdx f.a) h) (groupCb e.t) f.mode f.fz sc

/-- Lanes 0 to 7 give two entries each (R110). -/
def execCbld (f : Fields) (s : State) := issue 0x50 f s fun e s =>
  let ent (j : Nat) : BitVec 16 := (blkWord e (vIdx f.a) (j / 2)).extractLsb' (16 * (j % 2)) 16
  .ok (complete e s { Writes.none with kw := (List.range 16).map fun j => (16 * f.d.num + j, ent j) } 0 0 0 [])

def execAmax (f : Fields) (s : State) := issue 0x51 f s fun e s =>
  let hs := (halvesOf e).map fun h => (h, scaleCode f.ty (groupCb e.t (f.xb 8 8 % 8)) (encValues e h))
  laneWise e s 32 fun l =>
    let r := (tlook (l / 16) hs).getD (none, 0)
    (BitVec.ofNat 64 (r.1.getD 0), r.2)

/-- a × 2^b, formed exactly and rounded once; b is `I32` (R111). -/
def execScl (f : Fields) (s : State) := issue 0x52 f s (fltOp fun e l =>
  let k := IntTy.i32.value (e.vb 32 l)
  roundOff e.f.fty e.f.mode e.f.fz (sigFlag [e.fa l]) ((e.fa l).scale2 k, 0))

end Sys2Proof.Machine
end

