-- ==== Sys2Proof/Machine/CrossLane.lean ====
section
/-!
DEFINITION. The cross-lane and quad instructions, opcodes 0x80 to 0x8A (R129 to R135).
-/
namespace Sys2Proof.Machine

/-- `Src`: the 32-bit value that lane `l` obtains from lane `j` of vector register operand `A` (R129). -/
def Env.src (e : Env) (j l : Nat) : Word :=
  let n := vIdx e.f.a
  if j = l then e.t.getV n l else if e.n ≤ j then 0 else e.t.seenV n j

/-- The `B` operand as `N32` (R130). -/
def Env.nb (e : Env) (l : Nat) : Nat := (e.vb 64 l).toNat % 2 ^ 32

/-- The source lane of `SHFL` in lane `l`; none past an end. -/
def shflLane (mode n l b : Nat) : Option Nat :=
  match mode with
  | 0 => some (b % n)
  | 1 => if b ≤ l then some (l - b) else none
  | 2 => if l + b < n then some (l + b) else none
  | _ => some (l ^^^ (b % n))

def execShfl (f : Fields) (s : State) := issue 0x80 f s fun e s =>
  laneWise e s 32 fun l =>
    ((match shflLane f.fnn e.n l (e.nb l) with
      | some j => e.src j l
      | none => e.src l l).setWidth 64, 0)

/-- A scalar destination takes the value of lane j as any other lane sees it. -/
def execBcast (f : Fields) (s : State) := issue 0x81 f s fun e s =>
  laneWise e s 32 fun l =>
    let j := e.nb l % e.n
    ((if f.d.isS then e.t.seenV (vIdx f.a) j else e.src j l).setWidth 64, 0)

/-! ### Votes (R131) -/

/-- The active lanes that have `A` set. -/
def Env.ballot (e : Env) : Mask := e.act &&& e.t.getP e.f.a.num

/-- The condition of `VOTE`: `c` of `t` active lanes, the bound `b`. -/
def voteCond (op c t b : Nat) : Bool :=
  match op with
  | 0 => decide (c = t)
  | 1 => decide (1 ≤ c)
  | 2 => decide (c = 0 ∨ c = t)
  | 3 => decide (t < 2 * c)
  | 4 => decide (c % 2 = 1)
  | _ => decide (b ≤ c)

def execVote (f : Fields) (s : State) := issue 0x82 f s fun e s =>
  laneTest e s fun l => (voteCond f.fnn (lanesOf e.n e.ballot).length e.lanes.length (e.nb l), 0)

/-- A mask as a destination takes it: whole into a scalar register, or one half. -/
def maskPart (f : Fields) (m : Mask) : Dword :=
  if f.d.isS then m else if f.fn.getLsbD 0 then m >>> 32 else m &&& 0xFFFFFFFF

def execBallot (f : Fields) (s : State) := issue 0x83 f s fun e s =>
  laneWise e s 32 fun _ => (maskPart f e.ballot, 0)

def execMatchLanes (f : Fields) (s : State) := issue 0x84 f s fun e s =>
  let w := f.ity.width
  laneWise e s 32 fun l =>
    (maskPart f (e.lanes.foldl (fun m j => if e.va w j = e.va w l then m ||| bitMask j else m) 0), 0)

/-! ### Reductions and prefixes (R132) -/

/-- The lane's operand as `GRED` and `GSCAN` read it: an integer fitted to its type, or an encoding whose NaN is the
canonical one. -/
def redFirst (e : Env) (l : Nat) : Dword × Flags :=
  if e.f.fnn ≤ 5 then e.f.ity.fit false (e.f.ity.value (e.va (redWidth e.f) l))
  else
    let b := (e.va 32 l).toNat % 2 ^ e.f.fty.bits
    let v := widenFz e.f.fty e.f.fz b
    if v.isNan then (BitVec.ofNat 64 e.f.fty.cnan, sigFlag [v])
    else if e.f.fz && isSubnormal e.f.fty b then (BitVec.ofNat 64 (e.f.fty.zeroEnc v.neg?), 0)
    else (BitVec.ofNat 64 b, 0)

/-- The step s(x, y) on the accumulated value and the operand of lane `l`. -/
def redStep (e : Env) (x : Dword) (l : Nat) : Dword × Flags :=
  let t := e.f.ity
  let y := e.va (redWidth e.f) l
  let a := t.value x
  let b := t.value y
  let pat (z : Nat) : Dword × Flags := t.fit false (z : Int)
  let w := 2 ^ t.width
  let xf := x.toNat % 2 ^ e.f.fty.bits
  let yf := y.toNat % 2 ^ e.f.fty.bits
  let flt (r : Nat × Flags) : Dword × Flags := (BitVec.ofNat 64 r.1, r.2)
  match e.f.fnn with
  | 0 => t.fit e.f.sat (a + b)
  | 1 => t.fit false (min a b)
  | 2 => t.fit false (max a b)
  | 3 => pat (x.toNat % w &&& y.toNat % w)
  | 4 => pat (x.toNat % w ||| y.toNat % w)
  | 5 => pat (x.toNat % w ^^^ y.toNat % w)
  | 6 => flt (fAdd e.f.fty e.f.mode e.f.fz (widenFz e.f.fty e.f.fz xf) (widenFz e.f.fty e.f.fz yf))
  | 7 => flt (fMinMax e.f.fty e.f.fz false xf yf)
  | _ => flt (fMinMax e.f.fty e.f.fz true xf yf)

/-- The identity that `.EXCL` writes to the first lane. -/
def redIdentity (f : Fields) : Dword :=
  match f.fnn with
  | 1 => BitVec.ofInt 64 f.ity.max
  | 2 => BitVec.ofInt 64 f.ity.min
  | 3 => (f.ity.fit false (-1)).1
  | 0 | 4 | 5 => 0
  | 6 => BitVec.ofNat 64 (f.fty.zeroEnc true)
  | 7 => BitVec.ofNat 64 (f.fty.infEnc false)
  | _ => BitVec.ofNat 64 (f.fty.infEnc true)

/-- The prefixes over lanes `ls` from the accumulated value `x`: lane, value before, value after, flags of the step. -/
def redChain (e : Env) (x : Dword) : List Nat → List (Nat × Dword × Dword × Flags)
  | [] => []
  | l :: r =>
    let y := redStep e x l
    (l, x, y.1, y.2) :: redChain e y.1 r

/-- The chain of a word: its first lane and the steps of the later ones. -/
def Env.chain (e : Env) : List (Nat × Dword × Dword × Flags) :=
  match e.lanes with
  | [] => []
  | l :: r =>
    let x := redFirst e l
    (l, redIdentity e.f, x.1, x.2) :: redChain e x.1 r

def execGred (f : Fields) (s : State) := issue 0x85 f s fun e s =>
  let c := e.chain
  let v : Dword := (c.getLast?.map fun x => x.2.2.1).getD 0
  let fl : Flags := c.foldl (fun m x => m ||| x.2.2.2) 0
  laneWise e s (redWidth f) fun _ => (v, fl)

def execGscan (f : Fields) (s : State) := issue 0x86 f s fun e s =>
  let excl := f.x.getLsbD 0
  let c := e.chain
  finishWith e s
    (c.foldl (fun acc x => acc.append (laneWrite f.d (redWidth f) x.1 (if excl then x.2.1 else x.2.2.1))) Writes.none)
    (c.map fun x => (x.1, x.2.2.2))

/-! ### Quads (R133, R134) -/

/-- The source lane of `QXCH`. -/
def quadLane (fn l : Nat) : Nat :=
  let q := l / 4 * 4
  if fn ≤ 2 then q + (l % 4 ^^^ (fn + 1)) else q + (fn - 4)

def execQxch (f : Fields) (s : State) := issue 0x87 f s fun e s =>
  laneWise e s 32 fun l => ((e.src (quadLane f.fnn l) l).setWidth 64, 0)

/-- The low and the high lane of a difference: `step` 1 across a row, 2 down a column. -/
def quadPair (step l : Nat) : Nat × Nat :=
  let lo := l / 4 * 4 + (l % 4 &&& (3 - step))
  (lo, lo + step)

/-- `DDX` and `DDY` (R134). -/
def diffOp (step : Nat) (e : Env) (s : State) : Res :=
  let v (j : Nat) : Val :=
    widenFz e.f.fty e.f.fz ((e.t.getV (vIdx e.f.a) j).toNat % 2 ^ e.f.fty.bits)
  laneWise e s 32 fun l =>
    let p := quadPair step l
    let m := if p.1 = l then p.2 else p.1
    if e.t.live.getLsbD m then
      let r := fSub e.f.fty e.f.mode e.f.fz (v p.2) (v p.1)
      (BitVec.ofNat 64 r.1, r.2)
    else (0, fQDERR)

def execDdx (f : Fields) (s : State) := issue 0x88 f s (diffOp 1)
def execDdy (f : Fields) (s : State) := issue 0x89 f s (diffOp 2)

/-! ### Regrouping (R135) -/

/-- Inserts a lane behind those whose key is not greater. -/
def insertLane (key : Nat → Int) (l : Nat) : List Nat → List Nat
  | [] => [l]
  | m :: r => if key l < key m then l :: m :: r else m :: insertLane key l r

/-- Lanes in ascending order of their keys, stably. -/
def sortLanes (key : Nat → Int) (ls : List Nat) : List Nat := ls.foldl (fun acc l => insertLane key l acc) []

/-- Moves the entries of a table keyed 64 n + lane: those of an active lane to the position it moves to. -/
def moveLanes {α : Type} (dest : Nat → Nat) (t : Tab α) : Tab α :=
  t.foldl (fun acc x => tput (64 * (x.1 / 64) + dest (x.1 % 64)) x.2 acc) []

/-- Moves the bits of a mask. -/
def moveMask (src : Nat → Nat) (m : Mask) : Mask := maskOf 64 fun p => m.getLsbD (src p)

/-- The group after its active lanes moved: the k-th of `order` to the k-th of `places`. -/
def regroup (t : Thread) (d : Nat) (places order : List Nat) : Thread :=
  let dest (l : Nat) : Nat := places.getD (order.findIdx fun x => x = l) l
  let src (p : Nat) : Nat := order.getD (places.findIdx fun x => x = p) p
  let t := { t with
    v := moveLanes dest t.v, xv := moveLanes dest t.xv, origid := moveLanes dest t.origid, help := moveMask src t.help,
    p := t.p.map fun x => (x.1, moveMask src x.2),
    bad := t.bad.map fun b => if b.scalar then b else { b with key := 64 * (b.key / 64) + dest (b.key % 64) } }
  places.foldl (fun u p => u.setV d p (BitVec.ofNat 32 (src p))) t

/-- Outstanding register results are written first; an uncorrectable one among them is delivered instead (R327). -/
def execRegrp (f : Fields) (s : State) := issue 0x8A f s fun e s =>
  match e.t.late? with
  | some o => .trap (deferredTrap o) s
  | none =>
    let t := e.t.drain
    let key (l : Nat) : Int := f.ity.value ((t.getV (vIdx f.a) l).setWidth 64)
    .ok (s.setThread e.a (regroup t (vIdx f.d) e.lanes (sortLanes key e.lanes)))

end Sys2Proof.Machine
end

