-- ==== Sys2Proof/Machine/Clauses.lean ====
section
/-!
DEFINITION. Clauses: the key table and its spill areas (R250 to R252), the evaluation of requests (R254), the clause
instructions (R253, R255, R256), the wait-for walk (R257, R258) and the release at an exit (R261).
-/
namespace Sys2Proof.Machine

/-! ### Keys -/

/-- h of a key (R251). -/
def keyHash (k : Dword) : BitVec 32 := k.setWidth 32 ^^^ k.extractLsb' 32 32

/-- A package key (R251). -/
def isPkgKey (k : Dword) : Bool := k.getLsbD 63

/-- The home die of a key for an agent on die `d` (R251). -/
def keyHome (d : Nat) (k : Dword) : Nat :=
  if isPkgKey k then ((List.range 8).foldl (fun x i => x ^^^ (keyHash k).extractLsb' (4 * i) 4) 0#4).toNat else d

/-- The ordering scope of a clause (R251). -/
def keyScope (k : Dword) : Scope := if isPkgKey k then .pkg else .clu

def State.findKey (s : State) (d : Nat) (asid : BitVec 16) (k : Dword) : Option KeyEnt :=
  (s.die d).keys.find? fun e => e.key = k && e.asid = asid

/-- Replaces the entry of a key, or adds it. -/
def State.putKey (s : State) (d : Nat) (e : KeyEnt) : State :=
  let x := s.die d
  let hit (y : KeyEnt) : Bool := y.key = e.key && y.asid = e.asid
  s.setDie d { x with keys := if x.keys.any hit then x.keys.map fun y => if hit y then e else y else x.keys ++ [e] }

/-- The identity of a lane (R250). -/
def holderOf (b g : Nat) (t : Thread) (l : Nat) : Holder := { block := b, grp := g, origid := tget 0 l t.origid }

/-- The number of clauses a lane holds (R254). -/
def heldBy (s : State) (h : Holder) : Nat :=
  ((List.range 17).flatMap fun d => (s.die d).keys.filter fun e => e.holder = some h).length

/-! ### The spill area (R252) -/

/-- The base, or 0, and the size in records of a context's spill area. -/
def spillArea (s : State) (asid : BitVec 16) : Nat × Nat :=
  ((s.ctxWord asid 0x20).toNat, 2 ^ ((s.ctxWord asid 0x28).toNat % 32))

/-- What the eight records probed for a key hold. -/
structure Probe where
  /-- The record valid for the key: its place, `NSEQ` and `POISON`. -/
  found : Option (Nat × Word × Bool)
  /-- A record that is not valid. -/
  spare : Option Nat
  st : State
  deriving DecidableEq, Repr

/-- Probes `n` records from index `i` on. -/
def probeFrom (d : Nat) (asid : BitVec 16) (k : Dword) (base size : Nat) (p : Probe) (i : Nat) :
    Nat → Except (Cause × Nat) Probe
  | 0 => .ok p
  | n + 1 =>
    let va := base + 16 * (i % size)
    match p.st.readWords (.die d) asid false va 2 with
    | .error e => .error e
    | .ok (bs, s) =>
      let w3 := leNat (bs.drop 12)
      let p :=
        if w3 % 2 = 0 then { p with spare := p.spare.or (some va), st := s }
        else if BitVec.ofNat 64 (leNat (bs.take 8)) = k ∧ w3 / 16 % 16 = d then
          { p with found := some (va, BitVec.ofNat 32 (leNat ((bs.drop 8).take 4)), decide (w3 / 2 % 2 = 1)), st := s }
        else { p with st := s }
      probeFrom d asid k base size p (i + 1) n

/-- Probes the spill area of a context for a key. A record's home die has 4 bits, so the system die's keys do not spill (DESIGN
CHOICE, notes/assumptions/82.md). -/
def probeSpill (s : State) (d : Nat) (asid : BitVec 16) (k : Dword) : Except (Cause × Nat) Probe :=
  let a := spillArea s asid
  if a.1 = 0 ∨ 16 ≤ d then .ok { found := none, spare := none, st := s }
  else
    probeFrom d asid k a.1 a.2 { found := none, spare := none, st := s }
      ((keyHash k).toNat + (0x9E3779B9 * d) % 2 ^ 32) 8

/-- Writes a spill record. -/
def writeSpill (s : State) (d va : Nat) (e : KeyEnt) : Except (Cause × Nat) State :=
  s.writeWords (.die d) e.asid false va
    (leBytes 8 e.key.toNat ++ leBytes 4 e.nseq.toNat ++ leBytes 4 (1 + (if e.poison then 2 else 0) + 16 * (d % 16))) 2

/-- The state of a key that has no entry (R250, R252). -/
def freshKey (asid : BitVec 16) (k : Dword) : KeyEnt :=
  { key := k, asid := asid, nseq := 0, poison := false, holder := none, waiters := [] }

/-- A key as the table, or the spill area, holds it, and whether it has an entry. -/
def lookKey (s : State) (d : Nat) (asid : BitVec 16) (k : Dword) : Except (Cause × Nat) (KeyEnt × Bool × State) :=
  match s.findKey d asid k with
  | some e => .ok (e, true, s)
  | none =>
    match probeSpill s d asid k with
    | .error e => .error e
    | .ok p =>
      match p.found with
      | some (_, n, po) => .ok ({ freshKey asid k with nseq := n, poison := po }, false, p.st)
      | none => .ok (freshKey asid k, false, p.st)

/-- Entries of a die's key table (R250). -/
def keyTableSize : Nat := 8192

/-- An entry idles: no holder and no waiter (R252). -/
def KeyEnt.idle (e : KeyEnt) : Bool := e.holder.isNone && e.waiters.isEmpty

/-- A spill access that faulted: 0 a read or 1 a write (R75), its cause and its address. -/
structure SpillFail where
  kind : Nat
  cause : Cause
  addr : Nat
  deriving DecidableEq, Repr

def SpillFail.of (kind : Nat) (x : Cause × Nat) : SpillFail := { kind := kind, cause := x.1, addr := x.2 }

/-- Obtains an entry that holds `e`: a free one, else that of an idle key not among `mine`, which is spilled first; none where R252
gives `QUOTA`. -/
def obtainKey (s : State) (d : Nat) (e : KeyEnt) (mine : List Dword) : Except SpillFail (Option State) :=
  if (s.die d).keys.length < keyTableSize then .ok (some (s.putKey d e))
  else
    let spare (x : KeyEnt) : Bool := x.idle && (spillArea s x.asid).1 ≠ 0 && decide (d < 16) && !(x.asid = e.asid && mine.contains x.key)
    match (s.die d).keys.find? spare with
    | none => .ok none
    | some x =>
      match probeSpill s d x.asid x.key with
      | .error c => .error (.of 0 c)
      | .ok p =>
        match p.found.map (fun y => y.1) <|> p.spare with
        | none => .ok none
        | some va =>
          match writeSpill p.st d va x with
          | .error c => .error (.of 1 c)
          | .ok s =>
            let y := s.die d
            .ok (some ((s.setDie d { y with keys := y.keys.erase x }).putKey d e))

/-! ### Requests (R254) -/

/-- How a request is answered. -/
inductive Answer where
  | entered (new : Bool)
  | failed (cause : Nat) (detail : BitVec 32)
  | waits
  deriving DecidableEq, Repr

/-- The table of R254, with the limit of eight clauses. -/
def evaluate (s : State) (e : KeyEnt) (h : Holder) (q : Word) : Answer :=
  let d := (q - e.nseq).toNat
  if e.poison then .failed cCLPOISON 1
  else if e.holder = some h ∧ d = 0 then .entered false
  else if e.holder = none ∧ d = 0 then if heldBy s h < 8 then .entered true else .failed cQUOTA 1
  else if 2 ^ 31 ≤ d then .failed cCLDEAD 2
  else .waits

/-- The lowest failing cause, its detail and its lanes; all active lanes but for `CLPOISON` (R73). -/
def clauseTrap (act : Mask) (fails : List (Nat × Nat × BitVec 32)) (keys : Tab Dword) : Option Trap :=
  match (fails.map fun x => x.2.1).min? with
  | none => none
  | some c =>
    let fs := fails.filter fun x => x.2.1 = c
    some { Trap.all c ((fs.head?.map fun x => x.2.2).getD 0)
             (if c = cCLPOISON then fs.foldl (fun m x => m ||| bitMask x.1) 0 else act) with addrs := keys }

/-- Gives back entries: the holder cleared, `NSEQ` kept (R255). -/
def giveBack (s : State) (asid : BitVec 16) (b g : Nat) (made : List (Nat × Dword)) : State :=
  made.foldl
    (fun u x =>
      match u.findKey x.1 asid x.2 with
      | some e =>
        match e.holder with
        | some h => if h.block = b ∧ h.grp = g then u.putKey x.1 { e with holder := none } else u
        | none => u
      | none => u) s

/-- Removes the waits of a group (R255, R259). -/
def withdraw (s : State) (b g : Nat) : State :=
  (List.range 17).foldl
    (fun u d =>
      let x := u.die d
      if x.keys.any fun e => e.waiters.any fun w => w.block = b ∧ w.grp = g then
        u.setDie d
          { x with keys := x.keys.map fun e => { e with waiters := e.waiters.filter fun w => !(w.block = b ∧ w.grp = g) } }
      else u) s

/-- The group waits on no key. -/
def noWaits (s : State) (b g : Nat) : Bool :=
  (List.range 17).all fun d => (s.die d).keys.all fun e => e.waiters.all fun w => !(w.block = b ∧ w.grp = g)

/-- The widest scope among keys, or none. -/
def acquireKeys (s : State) (core : Nat) (keys : List Dword) : State :=
  keys.foldl (fun u k => u.acquire core (keyScope k)) s

/-- The end of a `CLENT` whose requests are all answered: the trap of R255, with the entries of the issue given back for
`CLDEAD` and `QUOTA`, or the acquires and the next word. The keys whose entries changed are returned. -/
def endClent (s : State) (b g : Nat) (c : ClauseWait) : State × List (Nat × BitVec 16 × Dword) :=
  let a := Agent.group b g
  let asid := s.asidOf a
  let s := s.modThread a fun t => { t with clause := none }
  match clauseTrap c.act c.fails c.keys with
  | some i =>
    let giving := c.fails.any fun x => x.2.1 ≠ cCLPOISON
    let s := if giving then giveBack s asid b g c.made else s
    (takeTrap s a c.word i, if giving then c.made.map fun x => (x.1, asid, x.2) else [])
  | none =>
    let s := acquireKeys s (s.coreNo a) (c.keys.map Prod.snd)
    (wake (s.modThread a Thread.advance) a, [])

/-- Answers one waiter of a key and ends its group's `CLENT` where it was the last; none where no waiter can be answered. -/
def answerOne (s : State) (d : Nat) (asid : BitVec 16) (k : Dword) : Option (State × List (Nat × BitVec 16 × Dword)) :=
  match s.findKey d asid k with
  | none => none
  | some e =>
    let ans (w : Waiter) : Answer := evaluate s e { block := w.block, grp := w.grp, origid := w.origid } w.seq
    match e.waiters.find? fun w => ans w ≠ .waits with
    | none => none
    | some w =>
      let e := { e with waiters := e.waiters.filter fun x => x ≠ w }
      let h : Holder := { block := w.block, grp := w.grp, origid := w.origid }
      let a := Agent.group w.block w.grp
      let s := s.putKey d (if ans w = .entered true then { e with holder := some h } else e)
      let s := s.modThread a fun t =>
        { t with clause := t.clause.map fun c =>
            match ans w with
            | .failed x y => { c with fails := c.fails ++ [(w.lane, x, y)] }
            | _ => { c with made := c.made ++ [(d, k)] } }
      if noWaits s w.block w.grp then
        match s.thread? a with
        | some t =>
          match t.clause with
          | some c => some (if c.redo then (s, []) else endClent s w.block w.grp c)
          | none => some (s, [])
        | none => some (s, [])
      else some (s, [])

/-- Re-evaluates the waiters of changed keys until nothing more is answered (R254). -/
def settleKeys : Nat → State → List (Nat × BitVec 16 × Dword) → State
  | 0, s, _ => s
  | _ + 1, s, [] => s
  | n + 1, s, x :: r =>
    match answerOne s x.1 x.2.1 x.2.2 with
    | none => settleKeys n s r
    | some (s, more) => settleKeys n s (x :: more ++ r)

/-- A bound on the answers of one change. -/
def settleFuel : Nat := 100000

/-! ### The instructions -/

/-- A clause instruction's calling lanes (R253). -/
def Env.calling (e : Env) : Mask := e.act &&& ~~~e.t.help

/-- The block and number of a group. -/
def Env.bg (e : Env) : Nat × Nat :=
  match e.a with
  | .group b g => (b, g)
  | _ => (0, 0)

/-- What the requests of a word have given so far. -/
structure Requests where
  st : State
  made : List (Nat × Dword)
  fails : List (Nat × Nat × BitVec 32)
  entered : Mask
  waits : Bool
  /-- Spill accesses that faulted: home die of the key, and the lane whose request made it. -/
  faults : List (Nat × Nat × SpillFail)
  deriving DecidableEq, Repr

/-- One lane's request, unless it has failed already: evaluated at the key's home; a lane not entered registers its wait where `wait`
holds. -/
def request (e : Env) (wait : Bool) (r : Requests) (l : Nat) : Requests :=
  if r.fails.any fun x => x.1 = l then r
  else
    let k := e.va 64 l
    let q : Word := (e.vb 32 l).setWidth 32
    let asid := r.st.asidOf e.a
    let d := keyHome (r.st.dieNo e.a) k
    let h := holderOf e.bg.1 e.bg.2 e.t l
    match lookKey r.st d asid k with
    | .error c => { r with faults := r.faults ++ [(d, l, .of 0 c)] }
    | .ok (x, has, s) =>
      let w : Waiter := { block := e.bg.1, grp := e.bg.2, lane := l, origid := h.origid, seq := q, cycles := 0 }
      let keep (y : KeyEnt) (r : Requests) : Requests :=
        if has then { r with st := s.putKey d y }
        else
          match obtainKey s d y [] with
          | .error c => { r with st := s, faults := r.faults ++ [(d, l, c)] }
          | .ok none => { r with st := s, fails := r.fails ++ [(l, cQUOTA, 2)] }
          | .ok (some s) => { r with st := s }
      match evaluate s x h q with
      | .failed c dt => { r with st := s, fails := r.fails ++ [(l, c, dt)] }
      | .entered false => { r with st := s, entered := r.entered ||| bitMask l }
      | .entered true =>
        let r' := keep { x with holder := some h } r
        if r'.faults ≠ r.faults ∨ r'.fails ≠ r.fails then r'
        else { r' with made := r.made ++ [(d, k)], entered := r.entered ||| bitMask l }
      | .waits =>
        if wait then
          let r' :=
            if x.waiters.any fun y => y.block = w.block && y.grp = w.grp && y.lane = l then { r with st := s }
            else keep { x with waiters := x.waiters ++ [w] } r
          if r'.faults ≠ r.faults ∨ r'.fails ≠ r.fails then r' else { r' with waits := true }
        else { r with st := s }

/-- A spill access that faults is posted to the fault buffer of the key's die, with its kind and the lane whose request made it (R75,
R323), and the word waits (R252): it issues again when its request is next evaluated. -/
def spillFault (e : Env) (s : State) (x : Nat × Nat × SpillFail) : State :=
  let f := x.2.2
  let i := { Trap.all f.cause.code f.cause.detail (bitMask x.2.1) with
             cdetail := BitVec.ofNat 64 f.kind, addrs := [(x.2.1, BitVec.ofNat 64 f.addr)] }
  postFault (park s e.a .clause 0) x.1 (recordOf s e.a e.t (wordOf e.opc e.f) e.t.pc i)

/-- The lanes' keys, by lane. -/
def Env.keyTab (e : Env) : Tab Dword := (lanesOf e.n e.calling).map fun l => (l, e.va 64 l)

/-- The requests of all calling lanes, ascending (R255). A word that issues again after a fault of a spill access goes on from the
entries it made and the lanes that failed. -/
def requests (e : Env) (s : State) (wait : Bool) : Requests :=
  let old := e.t.clause.filter ClauseWait.redo
  (lanesOf e.n e.calling).foldl (request e wait)
    { st := s.modThread e.a fun t => { t with clause := none }, made := old.elim [] ClauseWait.made, fails := old.elim [] ClauseWait.fails,
      entered := 0, waits := false, faults := [] }

/-- The requests of a word, some of which met faults of spill accesses, wait to be made again. -/
def redoWord (e : Env) (r : Requests) : State :=
  let c : ClauseWait :=
    { word := wordOf e.opc e.f, act := e.act, made := r.made, fails := r.fails, keys := e.keyTab, redo := true }
  (r.faults.foldl (spillFault e) r.st).modThread e.a fun t => { t with clause := some c }

/-- The end of a word some of whose lanes failed, none where none did: the entries of the issue are given back for `CLDEAD` and
`QUOTA` (R255). -/
def failedEntry (e : Env) (r : Requests) : Option (Trap × State) :=
  let asid := r.st.asidOf e.a
  (clauseTrap e.act r.fails e.keyTab).map fun i =>
    (i,
      if r.fails.any fun x => x.2.1 ≠ cCLPOISON then
        settleKeys settleFuel (giveBack (withdraw r.st e.bg.1 e.bg.2) asid e.bg.1 e.bg.2 r.made) (r.made.map fun x => (x.1, asid, x.2))
      else r.st)

def execClent (f : Fields) (s : State) := issue 0xB0 f s fun e s =>
  if e.calling = 0 then .ok s
  else
    let r := requests e s true
    if !r.faults.isEmpty then .go (redoWord e r)
    else
      let c : ClauseWait :=
        { word := wordOf 0xB0 f, act := e.act, made := r.made, fails := r.fails, keys := e.keyTab, redo := false }
      if r.waits then .go ((park r.st e.a .clause 0).modThread e.a fun t => { t with clause := some c })
      else
        match failedEntry e r with
        | some x => .trap x.1 x.2
        | none => .ok (acquireKeys r.st (s.coreNo e.a) (c.keys.map Prod.snd))

def execCltry (f : Fields) (s : State) := issue 0xB1 f s fun e s =>
  if e.calling = 0 then .ok s
  else
    let r := requests e s false
    if !r.faults.isEmpty then .go (redoWord e r)
    else
      match failedEntry e r with
      | some x => .trap x.1 x.2
      | none =>
        let ks := (e.keyTab.filter fun x => r.entered.getLsbD x.1).map Prod.snd
        let w : Writes :=
          if f.d.isS then { Writes.none with sw := [(sIdx f.d, r.entered)] }
          else { Writes.none with pw := [(f.d.num, e.calling, r.entered)] }
        .ok (complete e (acquireKeys r.st (s.coreNo e.a) ks) w 0 0 0 [])

/-- One lane's release of its key: `NSEQ` advanced, the holder cleared, `POISON` set by `CLABT` (R256). -/
def releaseKey (s : State) (core d : Nat) (e : KeyEnt) (abort : Bool) : State :=
  (s.release core (keyScope e.key)).putKey d
    { e with nseq := e.nseq + 1, holder := none, poison := e.poison || abort }

/-- `CLLV` and `CLABT`: the keys changed and the lanes that failed (R256). -/
def leaveLanes (e : Env) (abort : Bool) (s : State) : State × List (Nat × BitVec 16 × Dword) × List (Nat × Nat × BitVec 32) :=
  let asid := s.asidOf e.a
  (lanesOf e.n e.calling).foldl
    (fun (acc : State × List (Nat × BitVec 16 × Dword) × List (Nat × Nat × BitVec 32)) l =>
      let k := e.va 64 l
      let d := keyHome (s.dieNo e.a) k
      let fail := (acc.1, acc.2.1, acc.2.2 ++ [(l, cCLPOISON, (3 : BitVec 32))])
      match acc.1.findKey d asid k with
      | none => fail
      | some x =>
        if x.holder = some (holderOf e.bg.1 e.bg.2 e.t l) then
          (releaseKey acc.1 (s.coreNo e.a) d x abort, acc.2.1 ++ [(d, asid, k)], acc.2.2)
        else fail)
    (s, [], [])

/-- `CLLV` and `CLABT` (R256): lanes that hold their key complete even where others fail. -/
def leaveOp (abort : Bool) (e : Env) (s : State) : Res :=
  let r := leaveLanes e abort s
  let s' := settleKeys settleFuel r.1 r.2.1
  match clauseTrap e.act r.2.2 e.keyTab with
  | some i => .trap i s'
  | none => .ok s'

def execCllv (f : Fields) (s : State) := issue 0xB2 f s (leaveOp false)
def execClabt (f : Fields) (s : State) := issue 0xB3 f s (leaveOp true)

/-- The sequence to which `CLABT.RST` resets the key of a lane. -/
def Env.resetTo (e : Env) (l : Nat) : Word := (e.vb 32 l).setWidth 32

/-- The keys of a `CLABT.RST` that need an entry: a reset to sequence 0 needs none (R256). -/
def resetKeys (e : Env) : List Dword := ((lanesOf e.n e.calling).filter fun l => e.resetTo l ≠ 0).map (e.va 64)

/-- The entries that `CLABT.RST` needs before any lane acts: none where one cannot be obtained (R256). A fault of a spill access tells
the home die of its key and the lane. -/
def resetEntries (e : Env) (s : State) : Except (Nat × Nat × SpillFail) (Option State) :=
  (lanesOf e.n e.calling).foldl
    (fun acc l =>
      match acc with
      | .ok (some u) =>
        let k := e.va 64 l
        let d := keyHome (s.dieNo e.a) k
        if e.resetTo l = 0 then .ok (some u)
        else
          match lookKey u d (s.asidOf e.a) k with
          | .error c => .error (d, l, .of 0 c)
          | .ok (x, has, u) =>
            if has then .ok (some u)
            else
              match obtainKey u d x (resetKeys e) with
              | .error c => .error (d, l, c)
              | .ok o => .ok o
      | o => o)
    (.ok (some s))

/-- The spilled records of the calling lanes' keys that have no entry then say that their keys are reset to sequence 0. -/
def resetSpilled (e : Env) (s : State) : Except (Nat × Nat × SpillFail) State :=
  (lanesOf e.n e.calling).foldl
    (fun acc l =>
      match acc with
      | .error c => .error c
      | .ok u =>
        let k := e.va 64 l
        let d := keyHome (s.dieNo e.a) k
        if (u.findKey d (s.asidOf e.a) k).isSome then .ok u
        else
          match probeSpill u d (s.asidOf e.a) k with
          | .error c => .error (d, l, .of 0 c)
          | .ok p =>
            match p.found with
            | none => .ok p.st
            | some x =>
              match writeSpill p.st d x.1 (freshKey (s.asidOf e.a) k) with
              | .error c => .error (d, l, .of 1 c)
              | .ok u => .ok u)
    (.ok s)

/-- `CLABT.RST`: each key starts anew at its lane's sequence (R256). -/
def execClabtRst (f : Fields) (s : State) := issue 0xB3 f s fun e s =>
  match (resetEntries e s).bind fun o => o.elim (.ok none) fun u => (resetSpilled e u).map some with
  | .error c => .go (spillFault e s c)
  | .ok none => .trap { Trap.all cQUOTA 2 e.act with addrs := e.keyTab } s
  | .ok (some u) =>
    let asid := s.asidOf e.a
    let r := (lanesOf e.n e.calling).foldl
      (fun (acc : State × List (Nat × BitVec 16 × Dword)) l =>
        let k := e.va 64 l
        let d := keyHome (s.dieNo e.a) k
        let v := acc.1.release (s.coreNo e.a) (keyScope k)
        match v.findKey d asid k with
        | some x =>
          (v.putKey d { x with nseq := e.resetTo l, poison := false, holder := none }, acc.2 ++ [(d, asid, k)])
        | none => (v, acc.2))
      (u, [])
    .ok (settleKeys settleFuel r.1 r.2)

/-! ### Exits, evictions and the walk -/

/-- The clauses of lanes that exit are released as `CLABT` does (R261). -/
def exitClauses (s : State) (b g : Nat) (ids : List Word) : State :=
  let core := s.coreNo (.group b g)
  let r := (List.range 17).foldl
    (fun (acc : State × List (Nat × BitVec 16 × Dword)) d =>
      (acc.1.die d).keys.foldl
        (fun (acc : State × List (Nat × BitVec 16 × Dword)) e =>
          match e.holder with
          | some h =>
            if h.block = b ∧ h.grp = g ∧ h.origid ∈ ids then
              (releaseKey acc.1 core d e true, acc.2 ++ [(d, e.asid, e.key)])
            else acc
          | none => acc)
        acc)
    (s, [])
  settleKeys settleFuel r.1 r.2

/-- A group that waits at `CLENT` when it leaves the core has its waits withdrawn and its entries given back; the word
issues again (R259). -/
def withdrawClent (s : State) (b g : Nat) : State :=
  let a := Agent.group b g
  match s.thread? a with
  | some t =>
    match t.clause with
    | some c =>
      let asid := s.asidOf a
      let s := giveBack (withdraw s b g) asid b g c.made
      let s := s.modThread a fun t => { t with clause := none, wait := .none }
      settleKeys settleFuel s (c.made.map fun x => (x.1, asid, x.2))
    | none => s
  | none => s

/-- An edge of the walk: a waiting lane of a group on a key, and the holder (R257). -/
structure Edge where
  die : Nat
  ent : KeyEnt
  wait : Waiter
  hold : Holder
  deriving DecidableEq, Repr

/-- Adds an edge in ascending order of its lane. -/
def insertEdge (x : Edge) : List Edge → List Edge
  | [] => [x]
  | y :: r => if x.wait.lane < y.wait.lane then x :: y :: r else y :: insertEdge x r

/-- The edges of a group, one for each key on which a lane of it waits, by the lowest such lane. -/
def edgesOf (s : State) (b g : Nat) : List Edge :=
  ((List.range 17).flatMap fun d =>
    (s.die d).keys.filterMap fun e =>
      let ws := e.waiters.filter fun w => w.block = b ∧ w.grp = g
      match e.holder, (ws.map Waiter.lane).min? with
      | some h, some l => (ws.find? fun w => w.lane = l).map fun w => { die := d, ent := e, wait := w, hold := h }
      | _, _ => none).foldl (fun acc x => insertEdge x acc) []

/-- Depth-first from a stack of edges with their paths; at most `n` edges are visited. An edge to a holder that does not wait in `CLENT`
ends its own path alone: the walk goes on with the edges left (DESIGN CHOICE, notes/assumptions/99.md). -/
def walkCycle (s : State) (b g : Nat) : Nat → List (List Edge × Edge) → Option (List Edge)
  | 0, _ => none
  | _ + 1, [] => none
  | n + 1, (path, x) :: r =>
    let path' := path ++ [x]
    if x.hold.block = b ∧ x.hold.grp = g then some path'
    else walkCycle s b g n ((edgesOf s x.hold.block x.hold.grp).map (fun y => (path', y)) ++ r)

/-- The evidence entry of an edge (R258). -/
def evidenceOf (s : State) (x : Edge) : Evidence :=
  let a := Agent.group x.wait.block x.wait.grp
  { key := x.ent.key, seq := x.wait.seq, grpno := x.wait.grp, origid := x.wait.origid, holdOrigid := x.hold.origid,
    blkno := match s.block? x.wait.block with
      | some k => k.blkno
      | none => 0
    core := match s.thread? a with
      | some t => if t.gstate = .evicted then 0xFFFFFFFF else s.coreNo a
      | none => 0xFFFFFFFF
    nseq := x.ent.nseq }

/-- `CLDEAD` for the group that closes a cycle: its entries are given back (R257). -/
def deadlock (s : State) (b g : Nat) (path : List Edge) : State :=
  let a := Agent.group b g
  match s.thread? a with
  | some t =>
    match t.clause with
    | some c =>
      let asid := s.asidOf a
      let ev := path.map (evidenceOf s)
      let s := giveBack (withdraw s b g) asid b g c.made
      let s := s.modThread a fun t => { t with clause := none }
      let s := takeTrap s a c.word
        { Trap.all cCLDEAD 1 c.act with cdetail := BitVec.ofNat 64 path.length, addrs := c.keys, evidence := ev }
      settleKeys settleFuel s (c.made.map fun x => (x.1, asid, x.2))
    | none => s
  | none => s

/-- Starts a walk for a lane that has waited 65,536 cycles on some key (R257); else nothing happens. -/
def execDeadlockWalk (a : Agent) (lane : Nat) (s : State) : Host.Outcome State Fault Refusal :=
  match a with
  | .group b g =>
    let due (w : Waiter) : Bool := w.block = b && w.grp = g && w.lane = lane && decide (65536 ≤ w.cycles)
    if (List.range 17).any fun d => (s.die d).keys.any fun e => e.waiters.any due then
      let s := (List.range 17).foldl
        (fun u d =>
          let x := u.die d
          u.setDie d
            { x with keys := x.keys.map fun e =>
                { e with waiters := e.waiters.map fun w => if due w then { w with cycles := w.cycles - 65536 } else w } })
        s
      match walkCycle s b g 64 ((edgesOf s b g).map fun y => ([], y)) with
      | some path => .next (deadlock s b g path)
      | none => .next s
    else .next s
  | _ => .next s

/-- A lane's request is evaluated at its key's home (R254): a lane registered on a key is evaluated again, and a word whose
spill access faulted issues again. -/
def execClauseRequest (a : Agent) (lane : Nat) (s : State) : Host.Outcome State Fault Refusal :=
  match a with
  | .group b g =>
    match s.thread? a with
    | none => .next s
    | some t =>
      if t.wait ≠ .clause ∨ t.gstate = .evicted then .next s
      else if t.clause.all ClauseWait.redo then .next (wake s a)
      else
        .next (settleKeys settleFuel s
          ((List.range 17).flatMap fun d =>
            ((s.die d).keys.filter fun e => e.waiters.any fun w => w.block = b && w.grp = g && w.lane = lane).map fun e =>
              (d, e.asid, e.key)))
  | _ => .next s

end Sys2Proof.Machine
end

