-- ==== Sys2Proof/Machine/Integer.lean ====
section
/-!
DEFINITION. The integer and logic instructions, opcodes 0x00 to 0x1F (R83 to R91).
-/
namespace Sys2Proof.Machine

/-- Width of the word's integer type. -/
def Env.iw (e : Env) : Nat := e.f.ity.width

/-- Operands as integers of the word's type (R81). -/
def Env.ia (e : Env) (l : Nat) : Int := e.f.ity.value (e.va e.iw l)
def Env.ib (e : Env) (l : Nat) : Int := e.f.ity.value (e.vb e.iw l)
def Env.ic (e : Env) (l : Nat) : Int := e.f.ity.value (e.vc e.iw l)

/-- Operands as bit patterns of the type's width. -/
def Env.pa (e : Env) (l : Nat) : Nat := (e.va e.iw l).toNat % 2 ^ e.iw
def Env.pb (e : Env) (l : Nat) : Nat := (e.vb e.iw l).toNat % 2 ^ e.iw
def Env.pc (e : Env) (l : Nat) : Nat := (e.vc e.iw l).toNat % 2 ^ e.iw

/-- An instruction whose exact result in lane `l` is `g l`, fitted to the type (R84). -/
def intOp (g : Env → Nat → Int) (e : Env) (s : State) : Res :=
  laneWise e s e.iw fun l => e.f.ity.fit e.f.sat (g e l)

/-- The absolute value of an integer. -/
def iabs (x : Int) : Int := (x.natAbs : Int)

/-- The number of one bits among the low `n`. -/
def onesIn (n x : Nat) : Nat := ((List.range n).filter fun i => x.testBit i).length

/-- The low `n` bits in reverse order. -/
def revBits (n x : Nat) : Nat := (List.range n).foldl (fun acc i => if x.testBit i then acc + 2 ^ (n - 1 - i) else acc) 0

/-- Trailing zeros of the low `n` bits. -/
def trailZeros (n x : Nat) : Nat := ((List.range n).find? fun i => x.testBit i).getD n

/-- Leading zeros of the low `n` bits. -/
def leadZeros (n x : Nat) : Nat := if x = 0 then n else n - 1 - x.log2

/-- The signed reading of an `n`-bit pattern. -/
def signedOf (n x : Nat) : Int := if 2 ^ (n - 1) ≤ x then (x : Int) - 2 ^ n else x

/-- Shifts and rotates (R86): the count is b read as an unsigned `n`-bit value. -/
def shlPat (n a k : Nat) : Nat := if n ≤ k then 0 else (a <<< k) % 2 ^ n
def shrPat (n a k : Nat) : Nat := if n ≤ k then 0 else a >>> k
def sarVal (n a k : Nat) : Int := signedOf n a / 2 ^ (min k n)
def rotPat (n a k : Nat) : Nat := ((a <<< (k % n)) ||| (a >>> (n - k % n))) % 2 ^ n

/-- Offset and width of a bit field, from b read as `N32` (R87). -/
def fieldOf (n b : Nat) : Nat × Nat := (b % 256, min (b / 256 % 256) n)

/-- `BFX` (R87). -/
def bfxVal (t : IntTy) (a : Int) (b : Nat) : Int :=
  let ow := fieldOf t.width b
  let v := (a / 2 ^ ow.1) % 2 ^ ow.2
  if t.signed && decide (ow.2 ≠ 0) && decide (2 ^ (ow.2 - 1) ≤ v) then v - 2 ^ ow.2 else v

/-- `BFI` (R87). -/
def bfiPat (n a b c : Nat) : Nat :=
  let ow := fieldOf n b
  let mask := ((2 ^ ow.2 - 1) <<< ow.1) % 2 ^ n
  (c - (c &&& mask)) ||| (((a % 2 ^ ow.2) <<< ow.1) % 2 ^ n)

/-- One result byte of `PRMB` (R88). -/
def prmbByte (a b ctl : Nat) : Nat :=
  let src := a + 2 ^ 32 * b
  let sel := (src >>> (8 * (ctl % 8))) % 256
  match ctl / 8 % 8 with
  | 0 => sel
  | 2 => 0xFF
  | 3 => 255 - sel
  | 4 => revBits 8 sel
  | 5 => if 128 ≤ sel then 0xFF else 0
  | _ => 0

/-- `PRMB` (R88). -/
def prmbPat (a b c : Nat) : Nat :=
  (List.range 4).foldl (fun acc k => acc + prmbByte a b ((c >>> (8 * k)) % 256) * 2 ^ (8 * k)) 0

/-- The conditions of `ICMP` (R89). -/
def iCond (c : Nat) (a b : Int) : Bool :=
  match c with
  | 0 => decide (a = b)
  | 1 => decide (a ≠ b)
  | 2 => decide (a < b)
  | 3 => decide (a ≤ b)
  | 4 => decide (b < a)
  | _ => decide (b ≤ a)

def execIadd (f : Fields) (s : State) := issue 0x00 f s (intOp fun e l => e.ia l + e.ib l)
def execIsub (f : Fields) (s : State) := issue 0x01 f s (intOp fun e l => e.ia l - e.ib l)
def execImul (f : Fields) (s : State) := issue 0x02 f s (intOp fun e l => e.ia l * e.ib l)

/-- The upper half of the 2n-bit product. -/
def execImulh (f : Fields) (s : State) := issue 0x03 f s (intOp fun e l => e.ia l * e.ib l / 2 ^ e.iw)
def execImad (f : Fields) (s : State) := issue 0x04 f s (intOp fun e l => e.ia l * e.ib l + e.ic l)

/-- The 64-bit type of the signedness of a 32-bit one. -/
def wideTy (t : IntTy) : IntTy := if t.signed then .i64 else .n64

/-- R85: c and the result are 64-bit. -/
def execImadw (f : Fields) (s : State) := issue 0x05 f s fun e s =>
  laneWise e s 64 fun l => (wideTy f.ity).fit false (e.ia l * e.ib l + (wideTy f.ity).value (e.vc 64 l))

def execIabs (f : Fields) (s : State) := issue 0x06 f s (intOp fun e l => iabs (e.ia l))
def execIneg (f : Fields) (s : State) := issue 0x07 f s (intOp fun e l => -e.ia l)
def execImin (f : Fields) (s : State) := issue 0x08 f s (intOp fun e l => min (e.ia l) (e.ib l))
def execImax (f : Fields) (s : State) := issue 0x09 f s (intOp fun e l => max (e.ia l) (e.ib l))
def execIsad (f : Fields) (s : State) := issue 0x0A f s (intOp fun e l => iabs (e.ia l - e.ib l) + e.ic l)
def execAnd (f : Fields) (s : State) := issue 0x0B f s (intOp fun e l => (e.pa l &&& e.pb l : Nat))
def execOr (f : Fields) (s : State) := issue 0x0C f s (intOp fun e l => (e.pa l ||| e.pb l : Nat))
def execXor (f : Fields) (s : State) := issue 0x0D f s (intOp fun e l => (e.pa l ^^^ e.pb l : Nat))
def execAndn (f : Fields) (s : State) := issue 0x0E f s (intOp fun e l => (e.pa l - (e.pa l &&& e.pb l) : Nat))
def execShl (f : Fields) (s : State) := issue 0x0F f s (intOp fun e l => (shlPat e.iw (e.pa l) (e.pb l) : Nat))
def execShr (f : Fields) (s : State) := issue 0x10 f s (intOp fun e l => (shrPat e.iw (e.pa l) (e.pb l) : Nat))
def execSar (f : Fields) (s : State) := issue 0x11 f s (intOp fun e l => sarVal e.iw (e.pa l) (e.pb l))
def execRot (f : Fields) (s : State) := issue 0x12 f s (intOp fun e l => (rotPat e.iw (e.pa l) (e.pb l) : Nat))

/-- The `B` operand read as `N32` (R87). -/
def Env.b32 (e : Env) (l : Nat) : Nat := (e.vb 32 l).toNat % 2 ^ 32

def execBfx (f : Fields) (s : State) := issue 0x13 f s (intOp fun e l => bfxVal e.f.ity (e.ia l) (e.b32 l))
def execBfi (f : Fields) (s : State) := issue 0x14 f s (intOp fun e l => (bfiPat e.iw (e.pa l) (e.b32 l) (e.pc l) : Nat))
def execPopc (f : Fields) (s : State) := issue 0x15 f s (intOp fun e l => (onesIn e.iw (e.pa l) : Nat))
def execClz (f : Fields) (s : State) := issue 0x16 f s (intOp fun e l => (leadZeros e.iw (e.pa l) : Nat))
def execCtz (f : Fields) (s : State) := issue 0x17 f s (intOp fun e l => (trailZeros e.iw (e.pa l) : Nat))
def execBrev (f : Fields) (s : State) := issue 0x18 f s (intOp fun e l => (revBits e.iw (e.pa l) : Nat))
def execPrmb (f : Fields) (s : State) := issue 0x19 f s (intOp fun e l => (prmbPat (e.pa l) (e.pb l) (e.pc l) : Nat))

def execIcmp (f : Fields) (s : State) := issue 0x1A f s fun e s =>
  laneTest e s fun l => (iCond f.fnn (e.ia l) (e.ib l), 0)

/-- C is a predicate (R89). -/
def execSel (f : Fields) (s : State) := issue 0x1B f s (intOp fun e l => if e.vc 32 l = 1 then e.ia l else e.ib l)

/-- The three forms of R90 with a register, predicate or immediate source. -/
def execMov (f : Fields) (s : State) := issue 0x1C f s fun e s =>
  if f.d.isP then laneTest e s fun l => (decide (e.pa l ≠ 0), 0)
  else intOp (fun e l => if f.a.isP then ((e.va 32 l).toNat : Int) else e.ia l) e s

/-- `MOVI` (R90): a 64-bit type keeps the other half of the destination. -/
def execMovi (f : Fields) (s : State) := issue 0x1D f s fun e s =>
  if f.ity.width = 64 then
    laneWise e s 64 fun l =>
      let old := e.vd 64 l
      (if f.fn = 0#4 then (old.extractLsb' 32 32) ++ f.x else f.x ++ (old.setWidth 32), 0)
  else laneWise e s 32 fun _ => f.ity.fit false (f.x.toNat : Int)

/-- The effective address, with no check (R91). -/
def execLea (f : Fields) (s : State) := issue 0x1E f s fun e s => laneWise e s 64 fun l => (e.ea l, 0)

/-- min(max(a, b), c). -/
def execIclmp (f : Fields) (s : State) := issue 0x1F f s (intOp fun e l => min (max (e.ia l) (e.ib l)) (e.ic l))

end Sys2Proof.Machine
end

