-- ==== Sys2Proof/Machine/Accesses.lean ====
section
/-!
DEFINITION. Single accesses to memory: what one load, store or atomic does (R157, R304, R310, R312), the class under which it is made
(R27, R300, R301), and what comes before it at its place: the end of a request that its slice is about (R310), and the SC operations
that are earlier there (R308).
-/
namespace Sys2Proof.Machine

/-! ### Loads and stores -/

/-- Reads `n` bytes at a physical address: a control block's word, memory at a place, or a free value from the device behind
the storage port (notes/assumptions/22.md). -/
def loadAt (s : State) (core : Nat) (pl : Place) (c : Cls) (p n : Nat) : List Byte × State :=
  match devPlace p with
  | some (d, o) => (leBytes n ((devRead s d o).getD 0).toNat, s)
  | none =>
    if pcieSpace p then
      let r := s.free
      (leBytes n r.1.toNat, r.2)
    else s.loadBytes core pl c p n

/-- Writes bytes at a physical address; what a write does to the device behind the storage port is outside the package. -/
def storeAt (s : State) (core : Nat) (pl : Place) (c : Cls) (p : Nat) (bs : List Byte) : State :=
  match devPlace p with
  | some (d, o) => (devWrite s d o (BitVec.ofNat 64 (leNat bs))).getD s
  | none => if pcieSpace p then s else s.storeBytes core pl c p bs

/-- The class of an access for a grid's queue (R27, R300, R301): that of its `CC`, where 0 stands for the queue's default, under the
queue's cache index. -/
def queueClass (s : State) (grid : Nat) (cc : BitVec 2) : Cls :=
  let w : Dword := (((s.grid? grid).bind Grid.queue).map fun q => (s.queue q).qcache).getD 0
  let ret (n : Nat) : Nat := if n = 1 then 0 else if n = 2 then 2 else 1
  let base := ret (dbits w 0 2)
  let own := if cc = 0#2 ∨ cc = 3#2 then base else ret cc.toNat
  { ret := own, below := own, noL1 := cc = 3#2, cidx := dbits w 48 8 }

/-- The class of a word of the issuing agent. -/
def classOf (s : State) (a : Agent) (cc : BitVec 2) : Cls := queueClass s (s.gridNo a) cc

/-! ### Atomics (R157, R310 to R312) -/

/-- The new value of an atomic on `w`-bit values: old value `m`, operand `b`, compared value `d` (R157). -/
def atomNew (op w m b d : Nat) : Nat :=
  match op with
  | 0x0 => (m + b) % 2 ^ w
  | 0x1 => if signedOf w b < signedOf w m then b else m
  | 0x2 => if signedOf w m < signedOf w b then b else m
  | 0x3 => min m b
  | 0x4 => max m b
  | 0x5 => m &&& b
  | 0x6 => m ||| b
  | 0x7 => m ^^^ b
  | 0x8 => b
  | 0x9 => if m = d then b else m
  | 0xA => if b ≤ m then 0 else m + 1
  | _ => (fAdd .f32 .rn false (widen .f32 m) (widen .f32 b)).1

/-- `Add16` (R312). -/
def add16 (t : FFmt) (x y : Nat) : Nat := (fAdd t .rn false (widen t x) (widen t y)).1

/-- One half's operation at the home slice: the half as it stood, and the state after. -/
def atom2Half (s : State) (core : Nat) (c : Cls) (t : FFmt) (p x : Nat) : Nat × State :=
  let r := s.loadBytes core .home c p 2
  let m := leNat r.1
  (m, r.2.storeBytes core .home c p (leBytes 2 (add16 t m x)))

/-- The format of an `ATOM2`. -/
def atom2Fmt (f : Fields) : FFmt := if f.xb 24 5 = 0 then .bf16 else .f16

/-! ### The accesses of a word that is performed one at a time (R304) -/

/-- Performs one access: the bytes that it gives, and the state after. -/
def performPart (s : State) (a : Agent) (j : MemJob) (x : Part) : List Byte × State :=
  let core := s.coreNo a
  let c := classOf s a j.f.cc
  let sc := scopeOf j.f.ty
  match j.opc with
  | 0xA0 | 0xA4 => loadAt s core (placeOf core sc) c x.phys x.len
  | 0xA1 => ([], storeAt s core (placeOf core sc) c x.phys (leBytes x.len x.b))
  | 0xA7 =>
    let r := atom2Half s core c (atom2Fmt j.f) x.phys x.b
    (leBytes 2 r.1, r.2)
  | _ =>
    let r := s.loadBytes core (placeAtom core sc) c x.phys x.len
    let v := atomNew (j.f.xb 24 5) (8 * x.len) (leNat r.1) x.b x.d
    (r.1, r.2.storeBytes core (placeAtom core sc) c x.phys (leBytes x.len v))

/-- Takes a part off a word that is performed access by access, with the bytes that it gave. -/
def MemJob.done (j : MemJob) (x : Part) (bs : List Byte) : MemJob :=
  { j with parts := j.parts.erase x, got := j.got ++ x.lanes.map fun l => (l, x.off, bs) }

/-- The high half that is still to be performed of a request of `ATOM2` whose low half is, where the request's word meets `n` bytes
at `p`. -/
def MemJob.openHalf (j : MemJob) (p n : Nat) : Option Part :=
  if j.opc ≠ 0xA7 then none
  else
    j.parts.find? fun x =>
      x.off = 2 && decide (x.phys < p + n + 2) && decide (p < x.phys + 2) && !(j.parts.any fun y => y.off = 0 && y.lane = x.lane)

/-- A slice performs the requests on a word one at a time (R310, R336): before an atomic on `n` bytes at `p`, the request of another
agent that it is about there is ended. -/
def State.endRequests (s : State) (a : Agent) (p n : Nat) : State :=
  s.threads.foldl
    (fun u y =>
      match y.2.job with
      | none => u
      | some j =>
        match if y.1 = a then none else j.openHalf p n with
        | none => u
        | some x =>
          let r := atom2Half u (u.coreNo y.1) (classOf u y.1 j.f.cc) (atom2Fmt j.f) x.phys x.b
          r.2.modThread y.1 fun t => { t with job := some (j.done x (leBytes 2 r.1)) })
    s


/-! ### SC operations (R307, R308) -/

/-- The place where a part is performed. -/
def partPlace (core : Nat) (j : MemJob) : Place :=
  if j.opc = 0xA7 then .home else if 0xA5 ≤ j.opc then placeAtom core (scopeOf j.f.ty) else placeOf core (scopeOf j.f.ty)

/-- An access of an SC word that is left, addressed to one of the listed places or to the home slice of one of the addresses `qs`. -/
def scDue (core : Nat) (j : MemJob) (ps : List ScPlace) (qs : List Nat) (x : Part) : Bool :=
  j.f.fnn % 4 = 3 &&
    (ps.contains (scPlaceOf core x.phys (partPlace core j)) || qs.any fun q => scPlaceOf core x.phys .home = scPlaceOf core q .home)

/-- Performs the accesses of a word for which `f` holds, in their order. -/
def performDue (a : Agent) (j : MemJob) (f : Part → Bool) (s : State) : State :=
  (j.parts.filter f).foldl
    (fun u x =>
      let r := performPart u a j x
      r.2.modThread a fun t => { t with job := t.job.map fun j => j.done x r.1 })
    s

/-- A place performs SC operations in the order of their timestamps (R308): before a new one, which is later, those that other agents
have issued and that are addressed there. -/
def State.scSettle (s : State) (a : Agent) (ps : List ScPlace) (qs : List Nat) : State :=
  s.threads.foldl
    (fun u y =>
      match y.2.job with
      | some j => if y.1 = a then u else performDue y.1 j (scDue (s.coreNo y.1) j ps qs) u
      | none => u)
    s

/-- The ordering that precedes the lanes of a word, whose bytes stand at `ok` and are accessed at the place `pl`; it is there when some
lane performs. -/
def ordered (s : State) (a : Agent) (core o : Nat) (sc : Scope) (pl : Place) (ok : List (Nat × Nat)) : State :=
  if ok.isEmpty then s
  else
    let ps := ok.map fun x => scPlaceOf core x.2 pl
    let s := if o = 3 then s.scSettle a ps (ok.map Prod.snd) else s
    s.before core o sc ps (ok.flatMap fun x => scAlong core x.2)

end Sys2Proof.Machine
end

