-- ==== Sys2Proof/Machine/Memory.lean ====
section
/-!
DEFINITION. The memory instructions, opcodes 0xA0 to 0xAB and `RDCI` (R152 to R166, R243 to R247, R309 to R314), and the
remote scratchpad access (R245).
-/
namespace Sys2Proof.Machine

/-! ### Lanes, addresses and checks (R154, R155, R162, R163) -/

/-- A memory word's shape: the lanes it may act on, whether it is performed once for all of them, and its address form. -/
structure MemOp where
  who : Mask
  once : Bool
  off24 : Bool
  acc : Acc
  /-- Bytes, with the alignment they need. -/
  size : Nat
  /-- It reads data, so a poisoned line traps. -/
  data : Bool
  deriving DecidableEq, Repr

/-- The address of lane `l`: as computed, or as a replay entry stores it. -/
def MemOp.addr (m : MemOp) (e : Env) (l : Nat) : Dword :=
  match e.replay? with
  | some r => tget 0 l r.addrs
  | none => if m.off24 then e.ea24 l else e.ea l

/-- The address that lane `l` accesses: of a word performed once, the performing lane's. -/
def MemOp.place (m : MemOp) (e : Env) (l : Nat) : Dword := m.addr e (if m.once then (lowest e.n m.who).getD l else l)

/-- The lanes that perform. -/
def MemOp.lanes (m : MemOp) (e : Env) : List Nat := if m.once then (lowest e.n m.who).toList else lanesOf e.n m.who

/-- Active lanes that are not helpers (R65). -/
def Env.doers (e : Env) : Mask := e.act &&& ~~~e.t.help

/-- How the lanes fared: physical addresses of those that pass, causes of those that fail. -/
structure Fates where
  st : State
  ok : List (Nat × Nat)
  bad : List (Nat × Cause)
  deriving DecidableEq, Repr

/-- The access is one that device space takes, where its address is there: a plain load or store at `PKG` (R339, R393). -/
def devForm (e : Env) (m : MemOp) : Bool :=
  (m.acc = .read || m.acc = .write) && (m.size = 4 || m.size = 8) && scopeOf e.f.ty = .pkg && m.data = (m.acc = .read)

/-- Checks 1 to 8 of one lane (R319). -/
def checkLane (e : Env) (m : MemOp) (r : Fates) (l : Nat) : Fates :=
  let s := r.st
  let b := tlbAt s e.a
  let fail (s : State) (c : Cause) : Fates := { r with st := s, bad := r.bad ++ [(l, c)] }
  match s.check b (s.asidOf e.a) (physicalOf s e.a) (kernelCode s e.a) true m.acc (devForm e m) (m.addr e l).toNat m.size with
  | .fail c => fail (s.walked b (s.asidOf e.a) (physicalOf s e.a) m.acc (m.addr e l).toNat c) c
  | .ok p t c =>
    let s := s.touch b m.acc (.ok p t c)
    if e.bad.getLsbD l then fail s ⟨cECCU, e.badCode⟩
    else
      match devPlace p with
      | some (d, o) => if (devRead s d o).isSome then { r with st := s, ok := r.ok ++ [(l, p)] } else fail s ⟨cPROT, 3⟩
      | none => if m.data && s.poisoned p then fail s ⟨cECCU, 1⟩ else { r with st := s, ok := r.ok ++ [(l, p)] }

/-- The checks of every lane, ascending. -/
def MemOp.check (m : MemOp) (e : Env) (s : State) : Fates := (m.lanes e).foldl (checkLane e m) { st := s, ok := [], bad := [] }

/-- The mask of listed lanes. -/
def maskList (ls : List Nat) : Mask := ls.foldl (fun m l => m ||| bitMask l) 0

/-- The lanes that a fate stands for: every lane of a word performed once. -/
def MemOp.spread (m : MemOp) (ls : List Nat) : Mask := if m.once && !ls.isEmpty then m.who else maskList ls

/-- The trap of a word some of whose lanes failed, with its replay entry: the lowest cause traps in its lanes, and the entry holds
every lane that met a cause, with its address (R73, R162). Where those lanes have different detail codes, the lowest lane's is
reported (DESIGN CHOICE, notes/assumptions/76.md). -/
def MemOp.failure (m : MemOp) (e : Env) (bad : List (Nat × Cause)) : Option (Trap × Replay) :=
  match (bad.map fun x => x.2.code).min? with
  | none => none
  | some c =>
    let won := bad.filter fun x => x.2.code = c
    let lanes := m.spread (bad.map Prod.fst)
    let entry : Replay :=
      { word := wordOf e.opc e.f, pc := e.t.pc, lanes := lanes, addrs := (lanesOf e.n lanes).map fun l => (l, m.place e l),
        armed := false, deferred := (e.replay?.map Replay.deferred).getD false }
    some ({ Trap.all c ((won.head?.map fun x => x.2.detail).getD 0) (m.spread (won.map Prod.fst)) with
            cdetail := BitVec.ofNat 64 m.acc.kind, addrs := e.lanes.map fun l => (l, m.place e l) }, entry)

/-- The end of a word: its trap where lanes failed, else it is done. -/
def MemOp.fault (m : MemOp) (e : Env) (bad : List (Nat × Cause)) (s : State) : Res :=
  match m.failure e bad with
  | none => .ok s
  | some x => .trap x.1 (s.modThread e.a fun t => { t with replay := some x.2 })

/-- Register results written at once, as when a word faults in other lanes. -/
def writeNow (e : Env) (s : State) (w : Writes) : State := s.modThread e.a fun t => t.applyW w

/-- Under a lookahead count, uncorrectable data found when the load returns is noted with the outstanding result (R327): its lanes,
its detail code and their addresses. An error met by the walk fails a translation check, and a replay stalls the group until it ends:
neither is found late (R155, R163). -/
def MemOp.lateData (m : MemOp) (e : Env) (bad : List (Nat × Cause)) (late : Bool) : Option (Mask × BitVec 32 × Tab Dword) :=
  if !bad.isEmpty && late && e.f.la ≠ 0 && e.bad = 0 && e.replay?.isNone && bad.all fun x => x.2 = ⟨cECCU, 1⟩ then
    let lanes := m.spread (bad.map Prod.fst)
    some (lanes, (bad.head?.map fun x => x.2.detail).getD 0,
      (lanesOf e.n lanes).map fun l => (l, m.place e l))
  else none

/-- The results of the passing lanes, and the trap of the failing ones. -/
def MemOp.finish (m : MemOp) (e : Env) (bad : List (Nat × Cause)) (w : Writes) (late : Bool) (s : State) : Res :=
  if bad.isEmpty then .ok (complete e s w 0 0 0 [])
  else
    match m.lateData e bad late with
    | some x => .ok (complete e s w 0 x.1 x.2.1 x.2.2)
    | none => m.fault e bad (writeNow e s w)

/-! ### Data of a word (R153) -/

/-- Bytes as a number extended to 64 bits, with the sign where `sx`. -/
def extend (sx : Bool) (bs : List Byte) : Dword :=
  let n := leNat bs
  let w := 8 * bs.length
  if sx && decide (2 ^ (w - 1) ≤ n) then BitVec.ofInt 64 ((n : Int) - 2 ^ w) else BitVec.ofNat 64 n

/-- The register results of a load of `bs` into the destination in lane `l`. -/
def loadWrites (f : Fields) (l : Nat) (bs : List Byte) : Writes :=
  if bs.length = 16 then
    { Writes.none with
      vw := (List.range 4).map fun i => (64 * (vIdx f.d + i) + l, BitVec.ofNat 32 (leNat ((bs.drop (4 * i)).take 4))) }
  else laneWrite f.d (8 * bs.length) l (extend (f.fn.getLsbD 2) bs)

/-- The store data of lane `l`. -/
def storeData (e : Env) (size l : Nat) : List Byte :=
  if size = 16 then (List.range 4).flatMap fun i => leBytes 4 (e.t.getV (vIdx e.f.d + i) l).toNat
  else leBytes size (e.vd (if size = 8 then 64 else 32) l).toNat

/-! ### Loads and stores (R156, R159) -/

/-- Loads for the lanes that passed, ascending; `wr` gives a lane's results from its bytes. -/
def loadLanes (s : State) (core : Nat) (pl : Place) (c : Cls) (n : Nat) (wr : Nat → List Byte → Writes) :
    List (Nat × Nat) → Writes × State
  | [] => (Writes.none, s)
  | (l, p) :: r =>
    let x := loadAt s core pl c p n
    let y := loadLanes x.2 core pl c n wr r
    ((wr l x.1).append y.1, y.2)

/-- Stores for the lanes that passed, ascending. One group's stores are performed at L1 in program order, where the spec allows any
order for different addresses (DESIGN CHOICE, notes/assumptions/61.md). -/
def storeLanes (s : State) (core : Nat) (pl : Place) (c : Cls) (data : Nat → List Byte) : List (Nat × Nat) → State
  | [] => s
  | (l, p) :: r => storeLanes (storeAt s core pl c p (data l)) core pl c data r

/-- The class of a word. -/
def Env.cls (e : Env) (s : State) : Cls := classOf s e.a e.f.cc

/-- The ordering that follows the lanes of a word, when some lane performs. -/
def orderedEnd (s : State) (core o : Nat) (sc : Scope) (any : Bool) : State := if any then s.after core o sc else s

/-- The shape of `LD`: helper lanes load too (R65). -/
def ldShape (e : Env) : MemOp :=
  { who := if e.f.d.isS ∧ e.doers ≠ 0 then e.doers else e.act, once := e.f.d.isS, off24 := false, acc := .read,
    size := 2 ^ e.f.size, data := true }

/-- A helper lane that meets a per-lane cause receives 0 and raises nothing (R65); `GATED` is none (R73). -/
def splitHelp (e : Env) (bad : List (Nat × Cause)) : List (Nat × Cause) × List Nat :=
  let mine (x : Nat × Cause) : Bool := e.t.help.getLsbD x.1 && x.2.code ≠ cGATED
  (bad.filter fun x => !mine x, (bad.filter mine).map Prod.fst)

def ldOp (e : Env) (s : State) : Res :=
  let m := ldShape e
  let r := m.check e s
  let h := splitHelp e r.bad
  let core := s.coreNo e.a
  let sc := scopeOf e.f.ty
  let o := e.f.fnn % 4
  let any := !r.ok.isEmpty
  let pl := placeOf core sc
  let x := loadLanes (ordered r.st e.a core o sc pl r.ok) core pl (e.cls s) m.size (loadWrites e.f) r.ok
  let w := h.2.foldl (fun acc l => acc.append (loadWrites e.f l (List.replicate m.size 0))) x.1
  m.finish e h.1 w true (orderedEnd x.2 core o sc any)

def execLd (f : Fields) (s : State) := issue 0xA0 f s ldOp

/-- The shape of `ST`: helper lanes store nothing (R65). -/
def stShape (e : Env) : MemOp :=
  { who := e.doers, once := e.f.d.isS, off24 := false, acc := .write, size := 2 ^ e.f.size, data := false }

def stOp (e : Env) (s : State) : Res :=
  let m := stShape e
  let r := m.check e s
  let core := s.coreNo e.a
  let sc := scopeOf e.f.ty
  let o := e.f.fnn % 4
  let any := !r.ok.isEmpty
  let pl := placeOf core sc
  let s := storeLanes (ordered r.st e.a core o sc pl r.ok) core pl (e.cls s) (storeData e m.size) r.ok
  m.fault e r.bad (orderedEnd s core o sc any)

def execSt (f : Fields) (s : State) := issue 0xA1 f s stOp

/-- The 16 entries of a codebook register from 32 bytes. -/
def kWrites (n : Nat) (bs : List Byte) : Writes :=
  { Writes.none with kw := (List.range 16).map fun j => (16 * n + j, BitVec.ofNat 16 (leNat ((bs.drop (2 * j)).take 2))) }

/-- `LDK` reads one 32-byte block at a uniform address (R156). -/
def ldkShape (e : Env) : MemOp := { who := e.act, once := true, off24 := false, acc := .read, size := 32, data := true }

def execLdk (f : Fields) (s : State) := issue 0xA4 f s fun e s =>
  let m := ldkShape e
  let r := m.check e s
  let core := s.coreNo e.a
  let x := loadLanes r.st core (placeOf core (scopeOf f.ty)) (e.cls s) 32 (fun _ bs => kWrites f.d.num bs) r.ok
  m.finish e r.bad x.1 true x.2

/-! ### Scratchpads (R158, R243 to R247) -/

/-- The block of the issuer's grid on a core with the lowest placement position (R244). -/
def gridBlockOn (s : State) (grid core : Nat) : Option (Nat × Block) :=
  ((s.blocks.filter fun x => x.2.resident && x.2.core = core && x.2.grid = grid).foldl
    (fun acc x =>
      match acc with
      | none => some x
      | some y => if x.2.pos < y.2.pos then some x else some y)
    none)

/-- Where `n` bytes at a scratchpad address lie: block and offset in its window; a core being gated refuses them (R249). -/
def scratchRange (s : State) (a : Agent) (va : Dword) (n : Nat) : Except Cause (Nat × Nat) :=
  let v := va.toNat
  if 2 ^ 32 ≤ v then .error ⟨cPROT, 4⟩
  else if v < 2 ^ 31 then
    match s.block? (s.blockNo a) with
    | some k => if v + n ≤ k.spadBytes then .ok (s.blockNo a, v) else .error ⟨cPROT, 2⟩
    | none => .error ⟨cPROT, 2⟩
  else
    let c := v / 2 ^ 24 % 128
    if 96 ≤ c ∨ v / 2 ^ 21 % 8 ≠ 0 then .error ⟨cPROT, 11⟩
    else if 16 ≤ s.dieNo a then .error ⟨cPROT, 1⟩
    else
      let core := 96 * s.dieNo a + c
      if (s.core core).gating ≠ .on then .error ⟨cGATED, 0⟩
      else
        match gridBlockOn s (s.gridNo a) core with
        | none => .error ⟨cPROT, 1⟩
        | some (b, k) => if v % 2 ^ 21 + n ≤ k.spadBytes then .ok (b, v % 2 ^ 21) else .error ⟨cPROT, 2⟩

/-- Where an aligned scratchpad access of `n` bytes goes. -/
def scratchSpot (s : State) (a : Agent) (va : Dword) (n : Nat) : Except Cause (Nat × Nat) :=
  if va.toNat % n ≠ 0 then .error ⟨cMISALIGN, 0⟩ else scratchRange s a va n

/-- The address names a window on another core (R245). -/
def isRemote (s : State) (a : Agent) (va : Dword) : Bool :=
  let v := va.toNat
  decide (v < 2 ^ 32) && decide (2 ^ 31 ≤ v) && decide (v / 2 ^ 24 % 128 < 96) && 96 * s.dieNo a + v / 2 ^ 24 % 128 ≠ s.coreNo a

/-- Reads bytes of a block's window. -/
def spadRead (s : State) (b off n : Nat) : List Byte :=
  match s.block? b with
  | some k => readBytes (fun p => tget 0 p k.spad) off n
  | none => []

/-- The shape of `LDS` and `STS`. -/
def scratchShape (e : Env) : MemOp :=
  if e.opc = 0xA2 then { ldShape e with data := false } else stShape e

/-- The lanes' fates at the scratchpads: block and offset, or a cause. -/
def scratchFates (m : MemOp) (e : Env) (s : State) : List (Nat × Nat × Nat) × List (Nat × Cause) :=
  (m.lanes e).foldl
    (fun acc l =>
      match scratchSpot s e.a (m.addr e l) m.size with
      | .error c => (acc.1, acc.2 ++ [(l, c)])
      | .ok p => if e.bad.getLsbD l then (acc.1, acc.2 ++ [(l, ⟨cECCU, e.badCode⟩)]) else (acc.1 ++ [(l, p)], acc.2))
    ([], [])

/-- The results of helper lanes whose loads fail: 0 (R65). -/
def helpZeros (e : Env) (size : Nat) (ls : List Nat) (w : Writes) : Writes :=
  ls.foldl (fun acc l => acc.append (loadWrites e.f l (List.replicate size 0))) w

/-- The trap of a word one of whose lanes a core that is being gated refuses: no lane performs (R245, R249). A lower cause in another
lane traps there, and leaves every lane to replay; else `GATED` traps in all active lanes and leaves no entry (R73, R162). -/
def gatedTrap (m : MemOp) (e : Env) (bad : List (Nat × Cause)) (zero : List Nat) (ok : List (Nat × Nat × Nat)) (s : State) : Res :=
  if bad.any fun x => x.2.code < cGATED then
    m.fault e (bad ++ ok.map fun x => (x.1, ⟨cGATED, 0⟩)) (writeNow e s (helpZeros e m.size zero Writes.none))
  else .trap { Trap.all cGATED 0 e.act with addrs := e.lanes.map fun l => (l, m.place e l) } s

/-- `LDS` and `STS` once every lane is accepted or refused (R158, R245): no lane performs where a core that is being gated refuses one,
and a failing helper lane's load gives 0 (R65). `write` performs a store. -/
def scratchPerform (write : State → Nat → Nat → List Byte → State) (e : Env) (s : State) : Res :=
  let m := scratchShape e
  let r := scratchFates m e s
  let core := s.coreNo e.a
  let mine (x : Posted) : Bool := x.core = core && r.1.any fun y => y.2.1 = x.block && decide (y.2.2 < x.off + x.bytes.length) &&
    decide (x.off < y.2.2 + m.size)
  let h := if e.opc = 0xA2 then splitHelp e r.2 else (r.2, [])
  if h.1.any fun x => x.2.code = cGATED then gatedTrap m e h.1 h.2 r.1 s
  else
    let sc := scopeOf e.f.ty
    let o := e.f.fnn % 4
    let any := !r.1.isEmpty
    let s := (if any then s.before core o sc [] [] else s).performPosted mine
    if e.opc = 0xA2 then
      let w := r.1.foldl (fun acc x => acc.append (loadWrites e.f x.1 (spadRead s x.2.1 x.2.2 m.size))) Writes.none
      m.finish e h.1 (helpZeros e m.size h.2 w) false (orderedEnd s core o sc any)
    else
      let s := r.1.foldl (fun u x => write u x.2.1 x.2.2 (storeData e m.size x.1)) s
      m.fault e r.2 (orderedEnd s core o sc any)

/-- `LDS` and `STS`: with a remote lane the group's fetch stays suspended until its target cores answer (R155, R245). -/
def scratchOp (e : Env) (s : State) : Res :=
  let m := scratchShape e
  if (m.lanes e).any fun l => isRemote s e.a (m.addr e l) then
    .go ((hold s e.a .remote 0).modThread e.a fun t => { t with remote := some { opc := e.opc, f := e.f, act := e.act } })
  else scratchPerform spadWrite e s

def execLds (f : Fields) (s : State) := issue 0xA2 f s scratchOp
def execSts (f : Fields) (s : State) := issue 0xA3 f s scratchOp

/-- The target cores answer a waiting remote access (R245), whose stores `write` performs; else nothing happens. -/
def answerRemote (write : State → Nat → Nat → List Byte → State) (a : Agent) (s : State) : State :=
  match s.thread? a with
  | none => s
  | some t =>
    match if t.wait = .remote ∧ t.gstate ≠ .evicted then t.remote else none with
    | none => s
    | some r =>
      let b := badLanes t r.opc r.f (s.lanes a) r.act
      let s := (wake s a).modThread a fun t => { t with remote := none }
      let t := { t with remote := none }
      let e : Env := { a := a, t := t, n := s.lanes a, act := r.act, opc := r.opc, f := r.f, qa := [], qb := [], qc := [],
                       bad := b.1, badCode := b.2 }
      settle s a (wordOf r.opc r.f) e [] (scratchPerform write e s)

/-- The target cores answer a waiting remote access and perform it (R245); else nothing happens. -/
def execRemoteScratchpadAccess (a : Agent) (s : State) : Host.Outcome State Fault Refusal := .next (answerRemote spadWrite a s)

/-- A store that its target core has accepted and performs later, behind those it has accepted before (R245, R247). -/
def postWrite (core : Nat) (s : State) (b off : Nat) (bs : List Byte) : State :=
  { s with posted := s.posted ++ [{ core := core, block := b, off := off, bytes := bs }] }

/-- Accepted store `i` is performed, unless an earlier one of its core to the same bytes is still to be. -/
def performOne (i : Nat) (s : State) : State :=
  match s.posted[i]? with
  | none => s
  | some x =>
    let same (y : Posted) : Bool :=
      y.core = x.core && y.block = x.block && decide (y.off < x.off + x.bytes.length) && decide (x.off < y.off + y.bytes.length)
    if (s.posted.take i).any same then s
    else { spadWrite s x.block x.off x.bytes with posted := s.posted.eraseIdx i }

/-! ### Atomics (R157, R310 to R312) -/

/-- The shape of `ATOM` and `RED`. -/
def atomShape (e : Env) (acc : Acc) : MemOp :=
  { who := e.doers, once := false, off24 := true, acc := acc, size := 2 ^ e.f.size, data := true }

/-- The slices end the requests that they are about at the words of listed places. -/
def State.endAll (s : State) (a : Agent) (n : Nat) (ok : List (Nat × Nat)) : State :=
  ok.foldl (fun u x => u.endRequests a x.2 n) s

/-- The atomics of the lanes that passed, ascending: each lane's old value, and the state after. -/
def atomLanes (e : Env) (s : State) (core : Nat) (pl : Place) (n : Nat) : List (Nat × Nat) → List (Nat × Nat) × State
  | [] => ([], s)
  | (l, p) :: r =>
    let x := s.loadBytes core pl (e.cls s) p n
    let m := leNat x.1
    let w := 8 * n
    let v := atomNew (e.f.xb 24 5) w m ((e.vb w l).toNat % 2 ^ w) ((e.vd w l).toNat % 2 ^ w)
    let y := atomLanes e (x.2.storeBytes core pl (e.cls s) p (leBytes n v)) core pl n r
    ((l, m) :: y.1, y.2)

/-- Helper lanes that are active (R65). -/
def Env.helpers (e : Env) : List Nat := lanesOf e.n (e.act &&& e.t.help)

def atomOp (acc : Acc) (e : Env) (s : State) : Res :=
  let m := atomShape e acc
  let r := m.check e s
  let core := s.coreNo e.a
  let sc := scopeOf e.f.ty
  let o := e.f.fnn % 4
  let any := !r.ok.isEmpty
  let pl := placeAtom core sc
  let u := ordered r.st e.a core o sc pl r.ok
  let x := atomLanes e (if pl = .home then u.endAll e.a m.size r.ok else u) core pl m.size r.ok
  let w := (x.1 ++ e.helpers.map fun l => (l, 0)).foldl
    (fun acc (y : Nat × Nat) => acc.append (laneWrite e.f.d (8 * m.size) y.1 (BitVec.ofNat 64 y.2))) Writes.none
  m.finish e r.bad w false (orderedEnd x.2 core o sc any)

def execAtom (f : Fields) (s : State) := issue 0xA5 f s (atomOp .atomic)
def execRed (f : Fields) (s : State) := issue 0xA6 f s (atomOp .red)

/-- Both halves added. -/
def add16x2 (t : FFmt) (x y : Nat) : Nat :=
  add16 t (x % 65536) (y % 65536) + 65536 * add16 t (x / 65536 % 65536) (y / 65536 % 65536)

/-- Lanes grouped by a number they have, in ascending order of their lowest lane; each group's lanes ascend. -/
def mergeByAddr : List (Nat × Nat) → List (Nat × List Nat)
  | [] => []
  | (l, p) :: r =>
    let g := mergeByAddr r
    match g.find? fun x => x.1 = p with
    | some x => (p, l :: x.2) :: g.filter fun y => y.1 ≠ p
    | none => (p, [l]) :: g

def atom2Shape (e : Env) : MemOp := { atomShape e .atomic with size := 4 }

/-- The requests of `ATOM2` (R312): the lanes that name one address, the word's place, and the sum of their operands. -/
def atom2Reqs (e : Env) (ok : List (Nat × Nat)) : List (List Nat × Nat × Nat) :=
  let m := atom2Shape e
  let b (l : Nat) : Nat := (e.vb 32 l).toNat % 2 ^ 32
  (mergeByAddr (ok.map fun x => (x.1, (m.addr e x.1).toNat))).map fun g =>
    (g.2, (tlook (g.2.headD 0) ok).getD 0,
      (g.2.drop 1).foldl (fun acc l => add16x2 (atom2Fmt e.f) acc (b l)) (b (g.2.headD 0)))

/-- The requests in turn, each its low half and then its high half: each lane's old word, and the state after. -/
def atom2Groups (t : FFmt) (core : Nat) (c : Cls) (s : State) : List (List Nat × Nat × Nat) → List (Nat × Nat) × State
  | [] => ([], s)
  | (ls, p, x) :: r =>
    let lo := atom2Half s core c t p (x % 65536)
    let hi := atom2Half lo.2 core c t (p + 2) (x / 65536 % 65536)
    let y := atom2Groups t core c hi.2 r
    (ls.map (fun l => (l, lo.1 + 65536 * hi.1)) ++ y.1, y.2)

def execAtom2 (f : Fields) (s : State) := issue 0xA7 f s fun e s =>
  let m := atom2Shape e
  let r := m.check e s
  let core := s.coreNo e.a
  let sc := scopeOf f.ty
  let o := f.fnn % 4
  let any := !r.ok.isEmpty
  let x := atom2Groups (atom2Fmt f) core (e.cls s) ((ordered r.st e.a core o sc .home r.ok).endAll e.a 4 r.ok) (atom2Reqs e r.ok)
  let w := (x.1 ++ e.helpers.map fun l => (l, 0)).foldl
    (fun acc (y : Nat × Nat) => acc.append (laneWrite f.d 32 y.1 (BitVec.ofNat 64 y.2))) Writes.none
  m.finish e r.bad w false (orderedEnd x.2 core o sc any)

/-! ### Fences, pins and prefetches (R160, R161, R166) -/

/-- What a fence of suffix `o` does at a scope (R166, R306). -/
def fenceAct (s : State) (core o : Nat) (sc : Scope) : State :=
  let s := if o = 3 then s.scTick core [] [] else s
  let s := if o ≠ 1 then s.release core sc else s
  if o ≠ 2 then s.acquire core sc else s

def execFence (f : Fields) (s : State) := issue 0xA8 f s fun e s =>
  .ok (fenceAct s (s.coreNo e.a) (f.fnn % 4) (scopeOf f.ty))

/-- The pins of a level where a line stands: a core's L1, or the line's home die. -/
def pinsAt (s : State) (l2 : Bool) (core line : Nat) : List (Nat × BitVec 16) :=
  if l2 then (s.die (homeOf (128 * line))).pins else (s.core core).pins

def setPins (s : State) (l2 : Bool) (core line : Nat) (ps : List (Nat × BitVec 16)) : State :=
  if l2 then s.setDie (homeOf (128 * line)) { s.die (homeOf (128 * line)) with pins := ps }
  else s.setCore core { s.core core with pins := ps }

/-- The cache whose lines a level pins: a core's L1, or the home die's L2. -/
def pinCache (l2 : Bool) (core line : Nat) : CacheAt := if l2 then .l2 (homeOf (128 * line)) else .l1 core

/-- Every way of the line's set holds a pinned line. -/
def setFull (ps : List (Nat × BitVec 16)) (c : CacheAt) (line : Nat) : Bool :=
  !ps.isEmpty && decide (c.ways ≤ (((ps.filter fun x => c.sameSet x.1 line).map Prod.fst).eraseDups).length)

/-- Pins a line for a context: the state and the status (R160). A line that it pins has a place in its set, whatever its owner's
quota of lines (DESIGN CHOICE, notes/assumptions/73.md). -/
def pinLine (s : State) (l2 : Bool) (core : Nat) (asid : BitVec 16) (c : Cls) (line : Nat) : State × Nat :=
  let ps := pinsAt s l2 core line
  let q := (s.ctxWord asid 0x30).toNat
  if ps.contains (line, asid) then (s, 1)
  else if (if l2 then q / 2 ^ 32 else q % 2 ^ 32) ≤ (ps.filter fun x => x.2 = asid).length then (s, 2)
  else if setFull ps (pinCache l2 core line) line then (s, 3)
  else
    let s := if l2 then (s.useL2 line c.below c.cidx true).reply core (.slice (homeOf (128 * line)) (l2Slice line))
      else (s.useL1 core line c.ret c.cidx true).2
    (setPins s l2 core line (ps ++ [(line, asid)]), 0)

/-- The shape of `LOCK`, `UNLOCK` and `PRF`. -/
def lineShape (e : Env) (acc : Acc) : MemOp :=
  { who := e.act, once := false, off24 := false, acc := acc, size := 1, data := false }

/-- The lanes' lines in turn; of lanes that name one line the lowest has its status and the others 1. -/
def lockLanes (s : State) (l2 : Bool) (core : Nat) (asid : BitVec 16) (c : Cls) : List (Nat × Nat) → List Nat → List (Nat × Nat) × State
  | [], _ => ([], s)
  | (l, p) :: r, seen =>
    let line := lineOf p
    if seen.contains line then
      let y := lockLanes s l2 core asid c r seen
      ((l, 1) :: y.1, y.2)
    else
      let x := pinLine s l2 core asid c line
      let y := lockLanes x.1 l2 core asid c r (line :: seen)
      ((l, x.2) :: y.1, y.2)

def execLock (f : Fields) (s : State) := issue 0xA9 f s fun e s =>
  let m := lineShape e .read
  let r := m.check e s
  let x := lockLanes r.st (f.fn.getLsbD 2) (s.coreNo e.a) (s.asidOf e.a) (e.cls s) r.ok []
  let w := x.1.foldl (fun acc y => acc.append (laneWrite f.d 32 y.1 (BitVec.ofNat 64 y.2))) Writes.none
  m.fault e r.bad (writeNow e x.2 w)

/-- A line that is not pinned is left as it is. -/
def execUnlock (f : Fields) (s : State) := issue 0xAA f s fun e s =>
  let m := lineShape e .unlock
  let r := m.check e s
  let l2 := f.fn.getLsbD 2
  let core := s.coreNo e.a
  let s := r.ok.foldl
    (fun u x =>
      let line := lineOf x.2
      setPins u l2 core line ((pinsAt u l2 core line).filter fun y => y ≠ (line, s.asidOf e.a))) r.st
  m.fault e r.bad s

/-- The bytes of a line. -/
def lineBytes (line : Nat) : List Nat := (List.range 128).map fun i => 128 * line + i

/-- A line is brought into a core's L1, or into the L2 or the remote-data cache of a core's die (R161, R296). -/
def fillLine (s : State) (core line : Nat) (l2 : Bool) (c : Cls) : State :=
  if systemCore0 ≤ core then s
  else
    let p := 128 * line
    let pl := if l2 then Place.clu else .l1
    (unitsOf p 128).foldl (fun u q => u.fetchUnit core q (u.placeNow core q pl) q 8) (s.approach core p 128 pl c true)

/-- A lane whose translation fails is dropped, and so is one that would read a poisoned register. -/
def execPrf (f : Fields) (s : State) := issue 0xAB f s fun e s =>
  let r := (lineShape e .prefetch).check e s
  let c := e.cls s
  .ok (r.ok.foldl (fun u x => if c.noL1 && !f.fn.getLsbD 2 then u else fillLine u (s.coreNo e.a) (lineOf x.2) (f.fn.getLsbD 2) c)
    r.st)

/-! ### `RDCI` (R313, R314) -/

/-- The physical ranges of the pages of a virtual range, a page at a time from `va` on; an inaccessible page is skipped. -/
def rangePages (e : Env) (s : State) (va : Nat) : Nat → List (Nat × Nat) × State
  | 0 => ([], s)
  | n + 1 =>
    let b := tlbAt s e.a
    match s.check b (s.asidOf e.a) (physicalOf s e.a) (kernelCode s e.a) false .read false (va / 4096 * 4096) 1 with
    | .ok p t c =>
      let r := rangePages e (s.touch b .read (.ok p t c)) (va / 4096 * 4096 + 4096) n
      ((va / 4096 * 4096, p) :: r.1, r.2)
    | .fail _ => rangePages e s (va / 4096 * 4096 + 4096) n

/-- Byte `p` lies in a line that holds bytes `lo` to `hi` - 1 of the range, given the pages' places. -/
def inRange (pages : List (Nat × Nat)) (lo hi p : Nat) : Bool :=
  pages.any fun x =>
    decide (x.2 ≤ p) && decide (p < x.2 + 4096) &&
      (let v := x.1 + (p - x.2)
       decide (lo / 128 * 128 ≤ v) && decide (v < (hi + 127) / 128 * 128))

def execRdci (f : Fields) (s : State) := issue 0xAF f s fun e s =>
  let lo := (e.va 64 e.low).toNat
  let len := (e.vb 64 e.low).toNat
  if 2 ^ 30 < len then .trap (Trap.all cILLOP 0 e.act) s
  else if len = 0 then .ok s
  else
    let r := rangePages e s lo ((lo + len - 1) / 4096 - lo / 4096 + 1)
    let z := inRange r.1 lo (lo + len)
    let core := s.coreNo e.a
    let s := if f.fn ≠ 1#4 then r.2.releaseIn core .pkg z else r.2
    .ok (if f.fn ≠ 0#4 then s.acquireIn core .pkg z else s)

end Sys2Proof.Machine
end

