-- ==== Sys2Proof/Machine/Tiles.lean ====
section
/-!
DEFINITION. Tiles: descriptors, slots and their allocation (R177 to R183), and the tile instructions `TDEF`, `TLD`, `TST`,
`TSTAT`, `TREL`, opcodes 0xC0 to 0xC4 (R198 to R200), with the wait on a tile (R182).
-/
namespace Sys2Proof.Machine

/-! ### Descriptors (R178) -/

/-- The descriptor at block launch of a tile that no `.tile` line defines. -/
def Tile.blank : Tile :=
  { st := .empty, by' := .nobody, sbase := 0, nslot := 0, rcap := 0, rank := 0, fmt := .d32, rows := 1, cols := 1, vstat := 0 }

def TState.code : TState → Nat
  | .empty => 0
  | .filling => 1
  | .ready => 2
  | .draining => 3

def TFmt.code : TFmt → Nat
  | .d32 => 0
  | .d16b => 1
  | .d16h => 2
  | .lrf => 3

def tfmtOf (c : Nat) : TFmt :=
  match c with
  | 0 => .d32
  | 1 => .d16b
  | 2 => .d16h
  | _ => .lrf

/-- The descriptor word. -/
def Tile.word (t : Tile) : Dword :=
  dfield t.st.code 62 2 ||| dfield t.sbase 37 11 ||| dfield t.nslot 32 5 ||| dfield t.rcap 20 4 ||| dfield t.rank 16 4 |||
    dfield t.fmt.code 14 2 ||| dfield (t.rows - 1) 5 5 ||| dfield (t.cols - 1) 0 5

/-- `TileSlots` (R33). -/
def tileSlots (f : TFmt) (rank : Nat) : Nat :=
  match f with
  | .d32 => 16
  | .d16b | .d16h => 8
  | .lrf => rank

/-- Tile register `n` of a block. -/
def Block.tile (k : Block) (n : Nat) : Tile := tget Tile.blank n k.tiles
def Block.setTile (k : Block) (n : Nat) (t : Tile) : Block := { k with tiles := tput n t k.tiles }

/-! ### Slots (R179, R183) -/

/-- A run of `s` slots at `base` meets no slot that another tile holds. -/
def runFree (k : Block) (n base s : Nat) : Bool :=
  k.tiles.all fun x => x.1 = n || decide (x.2.sbase + x.2.nslot ≤ base) || decide (base + s ≤ x.2.sbase) || x.2.nslot = 0

/-- The lowest base of `s` consecutive free slots, those that tile `n` holds counted as free. -/
def firstFit (k : Block) (n s : Nat) : Option Nat :=
  if s = 0 then some 0 else (List.range (k.ns + 1 - s)).find? fun b => runFree k n b s

/-- Writes bytes at keys 256 slot + byte; a granule all of whose bytes are written loses its poison (R327). -/
def writeSlots (k : Block) (bs : List (Nat × Byte)) : Block :=
  { k with slots := bs.foldl (fun t x => tset 0 x.1 x.2 t) k.slots,
           badSlots := if k.badSlots.isEmpty then []
             else k.badSlots.filter fun g => (List.range 32).any fun i => !(bs.any fun x => x.1 = 32 * g + i) }

/-- Zero bytes over `s` slots from `base`. -/
def zeroSlots (base s : Nat) : List (Nat × Byte) := (List.range (256 * s)).map fun i => (256 * base + i, 0)

/-- The key of the first byte of element (i, j) of a dense tile (R179). -/
def elemKey (f : TFmt) (sbase i j : Nat) : Nat :=
  match f with
  | .d32 => 256 * (sbase + i / 2) + 128 * (i % 2) + 4 * j
  | _ => 256 * (sbase + i / 4) + 64 * (i % 4) + 2 * j

/-- Bytes of a dense element. -/
def elemSize (f : TFmt) : Nat := if f = .d32 then 4 else 2

/-- The floating-point format of a dense element. -/
def TFmt.ffmt : TFmt → FFmt
  | .d16b => .bf16
  | .d16h => .f16
  | _ => .f32

/-- `n` bytes of the slots as a number. -/
def Block.slotNat (k : Block) (key n : Nat) : Nat := leNat (readBytes (fun p => tget 0 p k.slots) key n)

/-- The encoding of element (i, j) of a dense tile; +0 outside its rows and columns (R180). -/
def Block.elem (k : Block) (t : Tile) (i j : Nat) : Nat :=
  if i < t.rows ∧ j < t.cols then k.slotNat (elemKey t.fmt t.sbase i j) (elemSize t.fmt) else 0

/-- Factor entries U(i, p) and V(j, p) of an `LRF` tile; +0 outside. -/
def Block.facU (k : Block) (t : Tile) (i p : Nat) : Nat :=
  if i < t.rows ∧ p < t.rank then k.slotNat (256 * (t.sbase + p) + 4 * i) 4 else 0
def Block.facV (k : Block) (t : Tile) (j p : Nat) : Nat :=
  if j < t.cols ∧ p < t.rank then k.slotNat (256 * (t.sbase + p) + 128 + 4 * j) 4 else 0

/-- The exact value of an element of any tile, with `IV` where a signalling NaN was read. -/
def Block.value (k : Block) (t : Tile) (i j : Nat) : Val × Flags :=
  if t.fmt = .lrf then
    if i < t.rows ∧ j < t.cols then
      sumProds ((List.range t.rank).map fun p => (widen .f32 (k.facU t i p), widen .f32 (k.facV t j p)))
    else (.fin (Ex.zero false), 0)
  else
    let v := widen t.fmt.ffmt (k.elem t i j)
    (v, sigFlag [v])

/-- A granule that holds one of `n` bytes from `key` is poisoned. -/
def Block.badAt (k : Block) (key n : Nat) : Bool := k.badSlots.any fun g => decide (key / 32 ≤ g) && decide (g ≤ (key + n - 1) / 32)

/-- Element (i, j) is poisoned: its bytes, or those of the factors it is computed from. -/
def Block.badElem (k : Block) (t : Tile) (i j : Nat) : Bool :=
  if i < t.rows ∧ j < t.cols then
    if t.fmt = .lrf then
      (List.range t.rank).any fun p =>
        k.badAt (256 * (t.sbase + p) + 4 * i) 4 || k.badAt (256 * (t.sbase + p) + 128 + 4 * j) 4
    else k.badAt (elemKey t.fmt t.sbase i j) (elemSize t.fmt)
  else false

/-! ### The wait on a tile (R182) -/

/-- `TILESTATE` with the detail (n << 8) | d in the cause detail (R75). -/
def tileTrap (e : Env) (n d : Nat) : Trap := { Trap.all cTILESTATE 0 e.act with cdetail := BitVec.ofNat 64 (256 * n + d) }

/-- A word that names tile `n` proceeds, waits or traps by the tile's state. -/
def withTile (e : Env) (s : State) (n : Nat) (g : Block → Tile → Res) : Res :=
  match e.blk s with
  | none => .ok s
  | some k =>
    let t := k.tile n
    match t.st with
    | .filling | .draining => .go (park s e.a .tile n)
    | .empty => .trap (tileTrap e n 1) s
    | .ready => g k t

/-! ### The instructions -/

/-- The descriptor that `TDEF` forms from its operand, before slots are allocated; none where a bit that must be 0 is set. -/
def tdefTile (a : Dword) : Option Tile :=
  if dbits a 24 40 ≠ 0 ∨ dbits a 16 4 ≠ 0 ∨ dbits a 10 4 ≠ 0 then none
  else
    some { Tile.blank with
           st := .ready, rcap := dbits a 20 4, fmt := tfmtOf (dbits a 14 2), rows := dbits a 5 5 + 1, cols := dbits a 0 5 + 1 }

/-- Defines an `EMPTY` tile with contents +0; none where no run of slots is free. -/
def defineTile (k : Block) (n : Nat) (t : Tile) : Option Block :=
  let s := tileSlots t.fmt 0
  match firstFit k n s with
  | none => none
  | some b => some (writeSlots (k.setTile n { t with sbase := b, nslot := s }) (zeroSlots b s))

def execTdef (f : Fields) (s : State) := issue 0xC0 f s fun e s =>
  let n := f.d.num
  match e.blk s, tdefTile (e.va 64 e.low) with
  | _, none => .trap (Trap.all cILLOP 0 e.act) s
  | none, _ => .ok s
  | some k, some t =>
    if (k.tile n).st ≠ .empty then .trap (tileTrap e n 1) s
    else
      match defineTile k n t with
      | none => .trap { Trap.all cSLOTFULL 0 e.act with cdetail := BitVec.ofNat 64 (tileSlots t.fmt 0) } s
      | some k => .ok (s.setBlock (s.blockNo e.a) k)

/-- The row and column of the element for a lane. -/
def rowCol (f : Fields) (x l : Nat) : Nat × Nat := if f.fn.getLsbD 0 then (l, x) else (x, l)

/-- A dense element as `TLD` writes it: widened, a NaN carried as it stands (R200). -/
def carryElem (t : TFmt) (fz : Bool) (b : Nat) : Nat :=
  let v := widenFz t.ffmt fz b
  if v.isNan then
    match t with
    | .d16b => b * 65536
    | .d16h => (b / 32768) * 2 ^ 31 + 0x7F800000 + (b % 1024) * 2 ^ 13
    | _ => b
  else (roundVal .f32 .rn false v).1

/-- What `TLD` writes in a lane. -/
def tldLane (k : Block) (t : Tile) (f : Fields) (i j : Nat) : Dword × Flags :=
  if 32 ≤ i ∨ 32 ≤ j then (0, 0)
  else if t.fmt = .lrf then
    let v := k.value t i j
    asReg (roundOff .f32 f.mode f.fz v.2 (v.1, 0))
  else asReg (carryElem t.fmt f.fz (k.elem t i j), 0)

/-- `ECCU` in the lanes of `m`: a poisoned tile granule (R327). -/
def granuleTrap (m : Mask) : Trap := Trap.all cECCU 3 m

/-- The lanes that meet a poisoned granule. -/
def badTileLanes (e : Env) (k : Block) (t : Tile) (x : Nat) : Mask :=
  (e.lanes.filter fun l => k.badElem t (rowCol e.f x l).1 (rowCol e.f x l).2).foldl (fun m l => m ||| bitMask l) 0

def execTld (f : Fields) (s : State) := issue 0xC1 f s fun e s =>
  withTile e s f.a.num fun k t =>
    let x := (e.vb 64 e.low).toNat
    let m := badTileLanes e k t x
    let r := laneWise e s 32 fun l => tldLane k t f (rowCol f x l).1 (rowCol f x l).2
    match r with
    | .trap i s' => .trap i s'
    | o => if m ≠ 0 then .trap (granuleTrap m) s else o

/-- The bytes that `TST` writes in a lane. -/
def tstLane (t : Tile) (f : Fields) (v : Nat) (i j : Nat) : List (Nat × Byte) × Flags :=
  if i < t.rows ∧ j < t.cols then
    let x := widenFz .f32 f.fz (v % 2 ^ 32)
    let r := roundOff t.fmt.ffmt f.mode f.fz (sigFlag [x]) (x, 0)
    let n := elemSize t.fmt
    (((leBytes n r.1).zip (List.range n)).map fun b => (elemKey t.fmt t.sbase i j + b.2, b.1), r.2)
  else ([], 0)

def execTst (f : Fields) (s : State) := issue 0xC2 f s fun e s =>
  withTile e s f.d.num fun k t =>
    if t.fmt = .lrf then .trap (tileTrap e f.d.num 2) s
    else
      let x := (e.vb 64 e.low).toNat
      let rs := e.lanes.map fun l => (l, tstLane t f (e.va 32 l).toNat (rowCol f x l).1 (rowCol f x l).2)
      let m := badTileLanes e k t x
      match fpTrap e (rs.map fun r => (r.1, r.2.2)) with
      | some i => .trap i s
      | none =>
        if m ≠ 0 then .trap (granuleTrap m) s
        else
          finishWith e (modBlock e s fun k => rs.foldl (fun k r => writeSlots k r.2.1) k) Writes.none
            (rs.map fun r => (r.1, r.2.2))

def execTstat (f : Fields) (s : State) := issue 0xC3 f s fun e s =>
  laneWise e s 64 fun _ => ((e.blk s).elim 0 fun k => (k.tile f.a.num).word, 0)

/-- A released tile keeps its view status word and nothing else. -/
def Tile.release (t : Tile) : Tile := { Tile.blank with vstat := t.vstat }

def execTrel (f : Fields) (s : State) := issue 0xC4 f s fun e s =>
  match e.blk s with
  | none => .ok s
  | some k =>
    let t := k.tile f.d.num
    match t.st with
    | .empty => .ok s
    | .ready => .ok (s.setBlock (s.blockNo e.a) (k.setTile f.d.num t.release))
    | .filling | .draining => .trap (tileTrap e f.d.num 1) s

/-- The end of a wait on a tile that is no longer `FILLING` or `DRAINING`: the agent's word issues again. Where a view filled
the tile, the end of the wait is an acquire at `PKG` (R182, R287). Else nothing happens. -/
def execTileWaitRelease (a : Agent) (s : State) : Host.Outcome State Fault Refusal :=
  match s.thread? a, s.block? (s.blockNo a) with
  | some t, some k =>
    let x := k.tile t.warg.toNat
    if t.wait = .tile ∧ t.gstate ≠ .evicted ∧ (x.st = .ready ∨ x.st = .empty) then
      .next (if x.vstat &&& 0xFF#32 = 2#32 then (wake s a).acquire (s.coreNo a) .pkg else wake s a)
    else .next s
  | _, _ => .next s

end Sys2Proof.Machine
end

