-- ==== Sys2Proof/Machine/Phrase.lean ====
section
/-!
DEFINITION. Phrase engines: layout records and their addresses (R210 to R212), endpoints and the checks at issue (R213 to R216),
launches and batches (R219 to R221), and the phrase instructions, opcodes 0xCF to 0xDA (R230 to R239).
-/
namespace Sys2Proof.Machine

/-! ### An engine's accesses (R209, R309) -/

/-- The context of a phrase agent. -/
def ctxOf (s : State) (a : Agent) : Option PCtx :=
  match a with
  | .phrase c x => tlook x (s.core c).pctx
  | _ => none

/-- Changes the context of a phrase agent. -/
def modCtx (s : State) (a : Agent) (g : PCtx → PCtx) : State :=
  match a with
  | .phrase c x =>
    match tlook x (s.core c).pctx with
    | some p => s.setCore c { s.core c with pctx := tput x (g p) (s.core c).pctx }
    | none => s
  | _ => s

/-- A read of `n` bytes through the core's L1. -/
def engRead (s : State) (a : Agent) (cc : BitVec 2) (va : Dword) (n : Nat) : Except Cause (List Byte × State) :=
  let b := tlbAt s a
  match s.check b (s.asidOf a) (physicalOf s a) false false .read false va.toNat n with
  | .fail c => .error c
  | .ok p t c =>
    if s.poisoned p then .error ⟨cECCU, 1⟩
    else .ok ((s.touch b .read (.ok p t c)).loadBytes (s.coreNo a) .l1 (classOf s a cc) p n)

/-- A write of bytes through the core's L1, with the physical address written. -/
def engWrite (s : State) (a : Agent) (cc : BitVec 2) (va : Dword) (bs : List Byte) : Except Cause (Nat × State) :=
  let b := tlbAt s a
  match s.check b (s.asidOf a) (physicalOf s a) false false .write false va.toNat bs.length with
  | .fail c => .error c
  | .ok p t c => .ok (p, (s.touch b .write (.ok p t c)).storeBytes (s.coreNo a) .l1 (classOf s a cc) p bs)

/-! ### Layout records (R210 to R212) -/

/-- A field of a record's bytes. -/
def recNat (bs : List Byte) (off n : Nat) : Nat := leNat ((bs.drop off).take n)

/-- The record that 128 bytes hold, whatever they are. -/
def layoutOf (bs : List Byte) : Layout :=
  { kind := recNat bs 0 1, esz := recNat bs 1 1, ndim := recNat bs 2 1, fill := BitVec.ofNat 32 (recNat bs 4 4),
    base := BitVec.ofNat 64 (recNat bs 8 8), ext := (List.range 5).map fun i => recNat bs (0x10 + 4 * i) 4,
    str := (List.range 5).map fun i => BitVec.ofNat 64 (recNat bs (0x28 + 8 * i) 8),
    idxbase := BitVec.ofNat 64 (recNat bs 0x50 8), ibound := recNat bs 0x58 4, tw := recNat bs 0x60 2, th := recNat bs 0x62 2,
    swz := recNat bs 0x64 1 }

/-- Element size in bytes: a `BLKSTR` element is one block. -/
def Layout.size (l : Layout) : Nat := if l.kind = 4 then 64 else 2 ^ l.esz

def Layout.extent (l : Layout) (i : Nat) : Nat := l.ext.getD i 0
def Layout.stride (l : Layout) (i : Nat) : Dword := l.str.getD i 0

/-- The rules of R210 and R211. -/
def layoutOk (bs : List Byte) (l : Layout) : Bool :=
  let zero (off n : Nat) : Bool := recNat bs off n = 0
  decide (l.kind ≤ 4) && decide (l.esz ≤ 4) && (l.kind ≠ 4 || l.esz = 0) &&
    decide (1 ≤ l.ndim) && decide (l.ndim ≤ 5) && (l.kind ≠ 2 || decide (2 ≤ l.ndim)) && (l.kind ≠ 3 || l.ndim = 1) &&
    zero 3 1 && zero 0x24 4 && zero 0x5C 4 && zero 0x65 27 &&
    ((List.range 5).all fun i =>
      if i < l.ndim then decide (1 ≤ l.extent i) else l.extent i = 0 && l.stride i = 0) &&
    (if l.kind = 3 then l.idxbase.toNat % 4 = 0 && decide (1 ≤ l.ibound) else l.idxbase = 0 && l.ibound = 0) &&
    (if l.kind = 2 then
      decide (1 ≤ l.tw) && decide (1 ≤ l.th) && decide (l.swz ≤ 3) &&
        (l.swz = 0 || l.tw * l.size % (16 * 2 ^ l.swz) = 0)
     else l.tw = 0 && l.th = 0 && l.swz = 0)

/-- Reads a record: 128 bytes at an aligned address, with the cause and address of a failure. It is read under class `N` whatever
`CC` the data word has (DESIGN CHOICE, notes/assumptions/91.md). -/
def readLayout (s : State) (a : Agent) (ra : Dword) : Except (Cause × Dword) (List Byte × State) :=
  if ra.toNat % 128 ≠ 0 then .error (⟨cMISALIGN, 0⟩, ra)
  else
    (List.range 16).foldl
      (fun acc i =>
        match acc with
        | .error e => .error e
        | .ok (bs, s) =>
          let va := ra + BitVec.ofNat 64 (8 * i)
          match engRead s a 0 va 8 with
          | .error c => .error (c, va)
          | .ok (x, s) => .ok (bs ++ x, s))
      (.ok ([], s))

/-- Σ of coordinate times stride over dimensions `from'` up to `NDIM`. -/
def strideSum (l : Layout) (c : List Dword) (from' : Nat) : Dword :=
  (List.range l.ndim).foldl (fun acc i => if from' ≤ i then acc + c.getD i 0 * l.stride i else acc) 0

/-- `Addr`: the address of the element at coordinates `c` (R212). -/
def Layout.addr (l : Layout) (c : List Dword) : Dword :=
  let co (i : Nat) : Dword := if i < l.ndim then c.getD i 0 else 0
  let x (i : Nat) : Dword := BitVec.ofNat 64 (l.extent i)
  let e : Dword := BitVec.ofNat 64 l.size
  match l.kind with
  | 0 => l.base + e * (co 0 + x 0 * (co 1 + x 1 * (co 2 + x 2 * (co 3 + x 3 * co 4))))
  | 1 => l.base + strideSum l c 0
  | 2 =>
    let gw := (l.extent 0 + l.tw - 1) / l.tw
    let c0 := (co 0).toInt
    let c1 := (co 1).toInt
    let o := c0 % l.tw * l.size
    let y := c1 % l.th
    let q := (o / 16).toNat ^^^ (y.toNat % 2 ^ l.swz)
    l.base + BitVec.ofInt 64 ((c1 / l.th * gw + c0 / l.tw) * l.tw * l.th * l.size + y * l.tw * l.size + 16 * q + o % 16) +
      strideSum l c 2
  | 3 => l.base + co 0 * l.stride 0 + (c.getD 1 0) * e
  | _ => l.base + 64 * co 0 + strideSum l c 1

/-- The product of the extents. -/
def Layout.total (l : Layout) : Nat := (List.range l.ndim).foldl (fun acc i => acc * l.extent i) 1

/-- `Lin`: the linear position of coordinates, dimension 0 fastest. -/
def Layout.lin (l : Layout) (c : List Dword) : Nat :=
  (List.range l.ndim).foldr (fun i acc => (c.getD i 0).toNat + l.extent i * acc) 0

/-- The coordinates of a linear position. -/
def Layout.coords (l : Layout) (p : Nat) : List Dword :=
  ((List.range l.ndim).foldl
    (fun (acc : List Dword × Nat) i => (acc.1 ++ [BitVec.ofNat 64 (acc.2 % max 1 (l.extent i))], acc.2 / max 1 (l.extent i)))
    ([], p)).1

/-- The address of element `e` of a walk from an origin. -/
def Layout.walk (l : Layout) (origin : List Dword) (e : Nat) : Dword := l.addr (l.coords (l.lin origin + e))

/-! ### Endpoints (R213, R214) -/

/-- An endpoint as it was read: itself, its field, and for a record its bytes. -/
structure EndRead where
  ep : Endpoint
  opd : Opd
  bytes : List Byte
  deriving DecidableEq, Repr

/-- A trap of a phrase context with the address concerned. -/
def phTrap (cause : Nat) (detail : BitVec 32) (kind : Nat) (addr : Dword) : Trap :=
  { Trap.all cause detail 1 with cdetail := BitVec.ofNat 64 kind, addrs := [(0, addr)] }

/-- Register `i` of the run that begins at an operand. -/
def runReg (t : Thread) (o : Opd) (i : Nat) : Dword := t.getS (o.num + i)

/-- Reads the endpoint of a kind. -/
def readEnd (s : State) (e : Env) (kind : Nat) (o : Opd) (start : Nat) : Except Trap (EndRead × State) :=
  match kind with
  | 0 =>
    let ra := runReg e.t o 0
    match readLayout s e.a ra with
    | .error (c, va) => .error (phTrap c.code c.detail 0 va)
    | .ok (bs, s) =>
      let l := layoutOf bs
      .ok ({ ep := .mem ra l ((List.range 5).map fun i => if i < l.ndim then runReg e.t o (1 + i) else 0), opd := o,
             bytes := bs }, s)
  | 1 => .ok ({ ep := .spad (runReg e.t o 0), opd := o, bytes := [] }, s)
  | 2 => .ok ({ ep := .tile o.num start, opd := o, bytes := [] }, s)
  | _ => .ok ({ ep := .fab (runReg e.t o 0) (runReg e.t o 1), opd := o, bytes := [] }, s)

/-- Check 1: registers of the endpoint's run. -/
def EndRead.run (x : EndRead) : Nat :=
  match x.ep with
  | .mem _ l _ => if l.ndim = 0 ∨ 5 < l.ndim then 2 else l.ndim + 1
  | .spad _ => 1
  | .fab _ _ => 2
  | _ => 0

def EndRead.runOk (x : EndRead) : Bool := x.run = 0 || decide (x.opd.num + x.run ≤ 64)

/-- The element size that an endpoint brings itself. An `LRF` tile has none: check 6 turns it away. -/
def ownSize (k : Block) : Endpoint → Option Nat
  | .mem _ l _ => some l.size
  | .tile t _ => if (k.tile t).fmt = .lrf then none else some (elemSize (k.tile t).fmt)
  | .port _ => some 4
  | _ => none

/-- The element size of a pair of endpoints (R213). -/
def pairSize (k : Block) (d x : Endpoint) : Nat := ((ownSize k d).or (ownSize k x)).getD 1

/-- A `BLKSTR` record pairs only with `.SPAD`, `.FAB` or another one. -/
def blkPairOk (d x : Endpoint) : Bool :=
  let isBlk : Endpoint → Bool
    | .mem _ l _ => l.kind = 4
    | _ => false
  let takes : Endpoint → Bool
    | .mem _ l _ => l.kind = 4
    | .spad _ | .fab _ _ => true
    | _ => false
  (!isBlk d || takes x) && (!isBlk x || takes d)

/-- Check 4: sizes agree. -/
def sizesOk (k : Block) (d x : Endpoint) : Bool :=
  (match ownSize k d, ownSize k x with
    | some p, some q => p = q
    | _, _ => true) && blkPairOk d x

/-- Check 3 for a walked endpoint of `m` elements. A coordinate of the origin is read as `N64`: a negative one is not below its extent
(DESIGN CHOICE, notes/assumptions/98.md). -/
def walkOk (m : Nat) : Endpoint → Bool
  | .mem _ l o => ((List.range l.ndim).all fun i => decide ((o.getD i 0).toNat < l.extent i)) && decide (l.lin o + m ≤ l.total)
  | _ => true

/-- Check 3 for an index endpoint. -/
def indexOk (n : Nat) : Endpoint → Bool
  | .mem _ _ o => decide ((o.getD 0 0).toNat + n ≤ 2 ^ 32)
  | _ => true

/-- The record of an index endpoint. -/
def indexRec : Endpoint → Layout
  | .mem _ l _ => l
  | _ => layoutOf []

/-- Check 9: the base or address and every stride are multiples of the element size. -/
def alignOk (sz : Nat) : Endpoint → Bool
  | .mem _ l _ => l.base.toNat % sz = 0 && l.str.all fun x => x.toInt % sz = 0
  | .spad a | .fab _ a => a.toNat % sz = 0
  | _ => true

/-- The address that check 9 is about: a record's `BASE`, or the endpoint's own (notes/assumptions/55.md). -/
def endAddr : Endpoint → Dword
  | .mem _ l _ => l.base
  | .spad a | .fab _ a => a
  | _ => 0

/-- How a data instruction walks: which side is the index, and the elements of the walked side and its count's unit. -/
inductive Shape where
  | xfer | gather | scatter | push
  deriving DecidableEq, Repr

def shapeOf (opc : Nat) : Shape :=
  match opc with
  | 0xD3 => .xfer
  | 0xD4 => .gather
  | 0xD5 => .scatter
  | _ => .push

/-- Elements of the walked endpoints. -/
def walkCount (sh : Shape) (d x : Endpoint) (n : Nat) : Nat :=
  match sh with
  | .xfer => n
  | .push => 32 * n
  | .gather => n * (indexRec x).extent 0
  | .scatter => n * (indexRec d).extent 0

/-- How a data instruction passes its checks. -/
inductive Issued where
  | trap (i : Trap)
  | tile (n : Nat)
  | ok (sz : Nat)
  deriving DecidableEq, Repr

/-- `QERR` with a detail code. -/
def qerr (d : BitVec 32) : Trap := Trap.all cQERR d 1

/-- The tile checks 5 to 7 of an endpoint with `m` elements. -/
def tileCheck (k : Block) (m : Nat) : Endpoint → Issued
  | .tile t start =>
    let x := k.tile t
    if k.nt ≤ t then .trap { Trap.all cREGRANGE 0 1 with cdetail := (opdCode (.t (BitVec.ofNat 6 t))).setWidth 64 }
    else
      match x.st with
      | .empty => .trap { Trap.all cTILESTATE 0 1 with cdetail := BitVec.ofNat 64 (256 * t + 1) }
      | .filling | .draining => .tile t
      | .ready =>
        if x.fmt = .lrf then .trap { Trap.all cTILESTATE 0 1 with cdetail := BitVec.ofNat 64 (256 * t + 2) }
        else if x.rows * x.cols < start + m then .trap (qerr 4)
        else .ok 0
  | _ => .ok 0

/-- Check 8: the scratchpad range; a core being gated is met when a chunk is performed (R249). -/
def spadCheck (s : State) (a : Agent) (len kind : Nat) : Endpoint → Option Trap
  | .spad p =>
    match scratchRange s a p len with
    | .error c => if c.code = cGATED then none else some (phTrap c.code c.detail kind p)
    | .ok _ => none
  | _ => none

/-- The checks of R214 on endpoints that were read: `d` the destination, `x` the source, `n` the count. The element
size that `PQPSH` asks for (`QERR` 5, R234) is looked at after check 3 and before check 4 (DESIGN CHOICE, notes/assumptions/98.md). -/
def issueChecks (s : State) (e : Env) (k : Block) (sh : Shape) (d x : EndRead) (n : Nat) : Issued :=
  let bad (y : EndRead) : Trap := { Trap.all cREGRANGE 0 1 with cdetail := (opdCode y.opd).setWidth 64 }
  let isRec (y : EndRead) : Bool := !y.bytes.isEmpty
  let kindOf (y : EndRead) : Nat := (indexRec y.ep).kind
  let index (y : EndRead) (isD : Bool) : Bool := sh = .gather && !isD || sh = .scatter && isD && y.run ≠ 0
  let wrong (y : EndRead) (isD : Bool) : Bool :=
    isRec y && if index y isD then kindOf y ≠ 3 else (sh = .xfer || sh = .push) && kindOf y = 3
  let m := walkCount sh d.ep x.ep n
  let sz := pairSize k d.ep x.ep
  if !d.runOk then .trap (bad d)
  else if !x.runOk then .trap (bad x)
  else if [d, x].any fun y => isRec y && !layoutOk y.bytes (indexRec y.ep) then .trap (qerr 1)
  else if wrong d true || wrong x false then .trap (qerr 8)
  else if !(if index d true then indexOk n d.ep else walkOk m d.ep) || !(if index x false then indexOk n x.ep else walkOk m x.ep)
  then .trap (qerr 2)
  else if sh = .push && (ownSize k x.ep).getD 4 ≠ 4 then .trap (qerr 5)
  else if !sizesOk k d.ep x.ep then .trap (qerr 3)
  else
    match tileCheck k m d.ep, tileCheck k m x.ep with
    | .trap i, _ => .trap i
    | .tile t, _ => .tile t
    | _, .trap i => .trap i
    | _, .tile t => .tile t
    | _, _ =>
      match (spadCheck s e.a (m * sz) 1 d.ep).or (spadCheck s e.a (m * sz) 0 x.ep) with
      | some i => .trap i
      | none =>
        if !alignOk sz d.ep then .trap (phTrap cMISALIGN 0 1 (endAddr d.ep))
        else if !alignOk sz x.ep then .trap (phTrap cMISALIGN 0 0 (endAddr x.ep))
        else .ok sz

/-! ### Locks and overlaps (R215, R216) -/

/-- The least and the greatest byte address of `m` elements of a walk. -/
def bounds (l : Layout) (o : List Dword) (m : Nat) : Nat × Nat :=
  let first := (l.walk o 0).toNat
  (List.range m).foldl (fun acc e => let p := (l.walk o e).toNat; (min acc.1 p, max acc.2 (p + l.size))) (first, first + l.size)

/-- Rounds a range outward to 256-byte boundaries. -/
def outward (r : Nat × Nat) : Nat × Nat := (r.1 / 256 * 256, (r.2 + 255) / 256 * 256)

/-- The rows that an index record may reach; with a negative `STR0` they reach down from `BASE` to the lowest row (DESIGN CHOICE,
notes/assumptions/98.md). -/
def rowRange (l : Layout) : Nat × Nat :=
  let d := ((l.ibound : Int) - 1) * (l.stride 0).toInt
  let b : Int := l.base.toNat
  ((b + min 0 d).toNat, (b + max 0 d).toNat + l.extent 0 * l.size)

/-- The lock ranges of a transfer: range, and whether it is written. -/
def lockRanges (sh : Shape) (d x : Endpoint) (n : Nat) : List ((Nat × Nat) × Bool) :=
  let m := walkCount sh d x n
  let walked (y : Endpoint) (w : Bool) : List ((Nat × Nat) × Bool) :=
    match y with
    | .mem _ l o => [(outward (bounds l o m), w)]
    | _ => []
  let indexed (y : Endpoint) (w : Bool) : List ((Nat × Nat) × Bool) :=
    match y with
    | .mem _ l o =>
      let p := l.idxbase.toNat + 4 * (o.getD 0 0).toNat
      [(outward (p, p + 4 * n), false), (outward (rowRange l), w)]
    | _ => []
  match sh with
  | .xfer | .push => walked d true ++ walked x false
  | .gather => walked d true ++ indexed x false
  | .scatter => indexed d true ++ walked x false

/-- Entries of a die's range-lock table. -/
def lockTableSize : Nat := 4096

/-- Two ranges meet. -/
def meets (a b : Nat × Nat) : Bool := decide (a.1 < b.2) && decide (b.1 < a.2)

/-- The byte range, in some block's window, that a scratchpad endpoint names. -/
def spadSpan (s : State) (a : Agent) (len : Nat) : Endpoint → Option (Nat × (Nat × Nat))
  | .spad p =>
    match scratchRange s a p len with
    | .ok (b, o) => some (b, (o, o + len))
    | .error _ => none
  | _ => none

/-- Bytes of the walked side of a slot. -/
def PhSlot.bytes (l : PhSlot) : Nat := walkCount (shapeOf l.opc) l.dst l.src l.n * l.esz

/-- Endpoints that are not memory meet: scratchpad ranges, one tile, one port. -/
def endMeets (s : State) (a : Agent) (x y : PhSlot) (p q : Endpoint) : Bool :=
  match p, q with
  | .tile t _, .tile u _ => t = u
  | .port m, .port n => m = n
  | _, _ =>
    match spadSpan s a x.bytes p, spadSpan s a y.bytes q with
    | some u, some v => u.1 = v.1 && meets u.2 v.2
    | _, _ => false

/-- The memory ranges that a slot holds. -/
def slotLocks (s : State) (c x i : Nat) : List RLock :=
  (s.die (dieOfCore c)).locks.filter fun l => l.owner = .slot c x i

/-- Slots `i` and `j` of a context overlap, one of the two writing. -/
def overlaps (s : State) (c x i j : Nat) (p q : PhSlot) : Bool :=
  let a := Agent.phrase c x
  ((slotLocks s c x i).any fun u => (slotLocks s c x j).any fun v => (u.write || v.write) && meets (u.lo, u.hi) (v.lo, v.hi)) ||
    endMeets s a p q p.dst q.dst || endMeets s a p q p.dst q.src || endMeets s a p q p.src q.dst

/-- Sets the tile states of a transfer. -/
def holdTiles (k : Block) (d x : Endpoint) : Block :=
  let hold (k : Block) (y : Endpoint) (st : TState) : Block :=
    match y with
    | .tile t _ => k.setTile t { k.tile t with st := st, by' := .phrase }
    | _ => k
  hold (hold k d .filling) x .draining

/-- The tiles of a transfer are `READY`. -/
def tilesReady (k : Block) (d x : Endpoint) : Bool :=
  let ok : Endpoint → Bool
    | .tile t _ => (k.tile t).st = .ready
    | _ => true
  ok d && ok x

/-- Registers the locks of a slot and sets its tile states, where the table has room. A transfer whose tile has left `READY` while it
waited goes on waiting until the tile is `READY` again, and traps no `TILESTATE` (DESIGN CHOICE, notes/assumptions/98.md). -/
def registerLocks (s : State) (c x i : Nat) (l : PhSlot) : Option State :=
  let a := Agent.phrase c x
  let d := dieOfCore c
  let rs := lockRanges (shapeOf l.opc) l.dst l.src l.n
  match s.block? (s.blockNo a) with
  | none => none
  | some k =>
    if lockTableSize < (s.die d).locks.length + rs.length ∨ !tilesReady k l.dst l.src then none
    else
      let new := rs.map fun r =>
        { asid := k.asid, lo := r.1.1, hi := r.1.2, write := r.2, owner := LockOwner.slot c x i : RLock }
      let s := s.setDie d { s.die d with locks := (s.die d).locks ++ new }
      let s := s.setBlock (s.blockNo a) (holdTiles k l.dst l.src)
      some (modCtx s a fun p => { p with slots := tput i { l with locked := true } p.slots })

/-- The lowest free transfer slot; which free one a transfer takes is open (R215; DESIGN CHOICE, notes/assumptions/101.md). -/
def freeSlot (p : PCtx) : Option Nat := (List.range 8).find? fun i => (tlook i p.slots).isNone

/-- Takes a slot and starts the transfer, or waits with it for the lock table (R215, R216). One that waits for a slot, as one that waits
for a tile, has not issued: it issues again, and reads its records again (DESIGN CHOICE, notes/assumptions/98.md). -/
def startTransfer (e : Env) (s : State) (d x : Endpoint) (n sz : Nat) : Res :=
  match e.a, ctxOf s e.a with
  | .phrase c ctx, some p =>
    if n = 0 then .ok (modCtx s e.a fun p => { p with last := some (p.nextOrder, 0, 0), nextOrder := p.nextOrder + 1 })
    else
      match freeSlot p with
      | none => .go (park s e.a .own 7)
      | some i =>
        let l : PhSlot :=
          { opc := e.opc, f := e.f, pc := e.t.pc, stopped := false, locked := false, n := n, cursor := 0, esz := sz, dst := d,
            src := x, order := p.nextOrder, asked := false, leave := false, sent := none }
        let s' := modCtx s e.a fun p =>
          { p with slots := tput i l p.slots, last := some (p.nextOrder, n, 0), nextOrder := p.nextOrder + 1 }
        match registerLocks s' c ctx i l with
        | some s => .ok s
        | none => .go (park s' e.a .lockTable 0)
  | _, _ => .ok s

/-! ### The data instructions (R234) -/

/-- A data instruction with endpoints of kinds `dk` and `sk`: endpoints read, checks made, transfer started. -/
def dataOp (dk sk : Nat) (e : Env) (s : State) : Res :=
  let sh := shapeOf e.opc
  match e.blk s, ctxOf s e.a with
  | some k, some p =>
    if sh = .push ∧ p.launched then .trap (qerr 5) s
    else
      let dst : Except Trap (EndRead × State) :=
        if sh = .push then .ok ({ ep := .port e.f.d.num, opd := e.f.d, bytes := [] }, s) else readEnd s e dk e.f.d (e.f.xb 0 10)
      match dst with
      | .error i => .trap i s
      | .ok (d, s) =>
        match readEnd s e sk e.f.a (e.f.xb 10 10) with
        | .error i => .trap i s
        | .ok (x, s) =>
          let n := (e.vb 64 e.low).toNat
          match issueChecks s e k sh d x n with
          | .trap i => .trap i s
          | .tile t => .go (park s e.a .tile t)
          | .ok sz => startTransfer e s d.ep x.ep n sz
  | _, _ => .ok s

/-- The port of a push has room for an entry. -/
def portRoom (s : State) (a : Agent) (l : PhSlot) : Bool :=
  match l.dst, s.block? (s.blockNo a) with
  | .port q, some k => decide ((tget [] q k.ports).length < 4)
  | _, _ => true

/-- A context whose push finds its port full waits for it, unless it waits already (R234). -/
def awaitPort (s : State) (a : Agent) (q : Nat) : State :=
  match s.thread? a with
  | some t => if t.wait = .none ∧ t.gstate = .active then park s a .queue q else s
  | none => s

/-- A push: its transfer starts, and the context waits where the port is full. -/
def pushOp (e : Env) (s : State) : Res :=
  match dataOp 0 (e.f.fnn / 4) e s with
  | .ok s =>
    match e.f.d, s.block? (s.blockNo e.a) with
    | .q n, some k => .ok (if 0 < (e.vb 64 e.low).toNat ∧ 4 ≤ (tget [] n.toNat k.ports).length then awaitPort s e.a n.toNat else s)
    | _, _ => .ok s
  | r => r

def execPxfer (f : Fields) (s : State) := issue 0xD3 f s (dataOp (f.fnn % 4) (f.fnn / 4))
def execPgath (f : Fields) (s : State) := issue 0xD4 f s (dataOp (f.fnn % 4) 0)
def execPscat (f : Fields) (s : State) := issue 0xD5 f s (dataOp 0 (f.fnn / 4))
def execPqpsh (f : Fields) (s : State) := issue 0xD7 f s pushOp

/-- The address of an element, with no bound checked (R233). -/
def execPaddr (f : Fields) (s : State) := issue 0xD2 f s fun e s =>
  match readLayout s e.a (e.va 64 e.low) with
  | .error (c, va) => .trap (phTrap c.code c.detail 0 va) s
  | .ok (bs, s) =>
    let l := layoutOf bs
    let nd := if l.ndim = 0 ∨ 5 < l.ndim then 1 else if l.kind = 3 then 2 else l.ndim
    if 64 < f.b.num + nd then .trap { Trap.all cREGRANGE 0 1 with cdetail := (opdCode f.b).setWidth 64 } s
    else if !layoutOk bs l then .trap (qerr 1) s
    else
      .ok (s.modThread e.a fun t => t.setS (sIdx f.d) (l.addr ((List.range nd).map fun i => e.t.getS (f.b.num + i))))

/-- Advances the counter from dimension `i`: the registers written, and whether the branch is taken (R235). -/
def ploopFrom (t : Thread) (d a : Nat) : Nat → Nat → List (Nat × Dword) × Bool
  | 0, _ => ([], false)
  | n + 1, i =>
    let c := t.getS (d + i) + 1
    if c.toNat < (t.getS (a + i)).toNat then ([(d + i, c)], true)
    else
      let r := ploopFrom t d a n (i + 1)
      ((d + i, 0) :: r.1, r.2)

def execPloop (f : Fields) (s : State) := issue 0xD6 f s fun e s =>
  let r := ploopFrom e.t f.d.num f.a.num f.fnn 0
  let g (t : Thread) : Thread := r.1.foldl (fun u x => u.setS x.1 x.2) t
  if r.2 then jump e s e.target g else .ok (s.modThread e.a g)

/-! ### Waits and ends (R223, R236 to R238) -/

/-- The program has a transfer that has not completed. -/
def busySlots (s : State) (a : Agent) : Nat := (ctxOf s a).elim 0 fun p => p.slots.length

def execParrv (f : Fields) (s : State) := issue 0xD8 f s fun e s =>
  let launched := (ctxOf s e.a).elim false PCtx.launched
  let w := f.mod.getLsbD 0
  let wo := f.mod.getLsbD 1
  if launched && (w || wo) then .trap (qerr 7) s
  else if wo then barWait e s f.fnn
  else if busySlots s e.a ≠ 0 then .go (park s e.a .own 0)
  else arriveOp e s f.fnn w

/-- The number of programs of a batch that are queued or have not ended (R219). -/
def batchLoad (s : State) (b g : Nat) (num : BitVec 32) : Nat :=
  let core := (s.block? b).elim 0 Block.core
  let k := s.core core
  (k.preq.filter fun r => r.block = b && r.grp = g && r.batch = num).length +
    (k.pctx.filter fun x => x.2.launched && x.2.block = b && x.2.issuer = g && x.2.batch = num).length

/-- A group's batches at launch. -/
def Batches.launch : Batches := { ob := { num := 0, status := 0 }, sealedB := [], acc := 0 }

def Block.batchesOf (k : Block) (g : Nat) : Batches := tget Batches.launch g k.batches

/-- Takes the finished batches off the head of the list, their status ORed into the group's. -/
def finishList (s : State) (b g : Nat) : List Batch → BitVec 32 → List Batch × BitVec 32
  | [], acc => ([], acc)
  | x :: r, acc => if batchLoad s b g x.num = 0 then finishList s b g r (acc ||| x.status) else (x :: r, acc)

/-- Finishes the batches of a group that have completed with every earlier one. -/
def finishBatches (s : State) (b g : Nat) : State :=
  match s.block? b with
  | none => s
  | some k =>
    let x := k.batchesOf g
    let r := finishList s b g x.sealedB x.acc
    s.setBlock b { k with batches := tput g { x with sealedB := r.1, acc := r.2 } k.batches }

/-- Adds a program's status to its batch. -/
def addStatus (x : Batches) (num st : BitVec 32) : Batches :=
  let add (y : Batch) : Batch := if y.num = num then { y with status := y.status ||| st } else y
  { x with ob := add x.ob, sealedB := x.sealedB.map add }

/-- The program of a context ends: a launched one leaves its context and counts toward its batch, an access program's end is
kept with its block (R237). -/
def endProgram (s : State) (a : Agent) (user : Nat) : State :=
  match a, ctxOf s a with
  | .phrase c x, some p =>
    let st := p.status ||| BitVec.ofNat 32 (256 * (user % 256))
    if p.launched then
      let s := s.setCore c { s.core c with pctx := tdel x (s.core c).pctx }
      let s := { s with threads := adel a s.threads }
      match s.block? p.block with
      | none => s
      | some k =>
        finishBatches (s.setBlock p.block { k with batches := tput p.issuer (addStatus (k.batchesOf p.issuer) p.batch st) k.batches })
          p.block p.issuer
    else
      let s := (modCtx s a fun p => { p with status := st }).modThread a fun t => { t with gstate := .ended, wait := .none }
      match s.block? p.block with
      | none => s
      | some k => s.setBlock p.block { k with apEnded := true }
  | _, _ => s

/-- `PEND`, and `EXIT` in an access stream. -/
def pendOp (user : Nat) (e : Env) (s : State) : Res :=
  if busySlots s e.a ≠ 0 then .go (park s e.a .own 0) else .go (endProgram s e.a user)

def execPend (f : Fields) (s : State) := issue 0xD9 f s fun e s =>
  pendOp (if f.a.isAbsent then 0 else (e.va 64 e.low).toNat) e s

/-- What the most recent data instruction has performed, and its count. -/
def progress (p : PCtx) : Nat × Nat :=
  match p.last with
  | none => (0, 0)
  | some (o, n, done) =>
    match p.slots.find? fun x => x.2.order = o with
    | some x => (x.2.cursor, n)
    | none => (done, n)

def execPcur (f : Fields) (s : State) := issue 0xDA f s fun e s =>
  let r := (ctxOf s e.a).elim (0, 0) progress
  if r.1 < min (e.va 64 e.low).toNat r.2 then .go (park s e.a .pcur 0)
  else .ok (s.modThread e.a fun t => t.setS (sIdx f.d) (BitVec.ofNat 64 r.1))

def execPcurSt (f : Fields) (s : State) := issue 0xDA f s fun e s =>
  let st : BitVec 32 := (ctxOf s e.a).elim 0 PCtx.status
  .ok ((modCtx s e.a fun p => { p with status := 0 }).modThread e.a fun t => t.setS (sIdx f.d) (st.setWidth 64))

/-! ### Groups and their programs (R231, R232) -/

/-- Entries of a core's request queue. -/
def requestQueueSize : Nat := 256

/-- Sealed batches that a group may leave unfinished. -/
def sealLimit : Nat := 15

/-- The wait marks of a group in a batch wait: `BWAIT n` has n, `BSEAL` 14, and `PHRS` this one (the model's own, not saved). -/
def phrsMark : Nat := 63

def execPhrs (f : Fields) (s : State) := issue 0xCF f s fun e s =>
  let calling := e.act &&& e.t.getP (f.xb 0 4) &&& ~~~e.t.help
  match lowest e.n calling, e.blk s with
  | some l, some k =>
    let prog := e.va 64 l
    let core := s.coreNo e.a
    if beyondOne e.t.nalloc 256 0 (f.d, f.xb 4 4, 1) then .trap (rangeTrap f.d e.act) s
    else if prog.toNat % 4 ≠ 0 then .trap { Trap.all cMISALIGN 0 e.act with cdetail := 3 } s
    else if requestQueueSize ≤ (s.core core).preq.length then .go (park s e.a .batch phrsMark)
    else
      let g := agentIndex e.a
      let s := s.release core .core
      let r : PReq :=
        { block := s.blockNo e.a, grp := g, prog := prog, recAddr := e.vb 64 l,
          vals := (List.range (f.xb 4 4)).map fun i => e.t.getV (vIdx f.d + i) l, lane := l, batch := (k.batchesOf g).ob.num }
      .ok (s.setCore core { s.core core with preq := (s.core core).preq ++ [r] })
  | _, _ => .ok s

/-- Writes a scalar destination where there is one. -/
def writeD (e : Env) (s : State) (v : Dword) : State :=
  if e.f.d.isAbsent then s else s.modThread e.a fun t => t.setS (sIdx e.f.d) v

def execBseal (f : Fields) (s : State) := issue 0xD0 f s fun e s =>
  match e.blk s with
  | none => .ok s
  | some k =>
    let g := agentIndex e.a
    let x := k.batchesOf g
    if sealLimit ≤ x.sealedB.length then .go (park s e.a .batch 14)
    else
      let y : Batches := { x with sealedB := x.sealedB ++ [x.ob], ob := { num := x.ob.num + 1, status := 0 } }
      let s := finishBatches (s.setBlock (s.blockNo e.a) { k with batches := tput g y k.batches }) (s.blockNo e.a) g
      .ok (writeD e s (x.ob.num.setWidth 64))

def execBwait (f : Fields) (s : State) := issue 0xD1 f s fun e s =>
  match e.blk s with
  | none => .ok s
  | some k =>
    let g := agentIndex e.a
    let x := k.batchesOf g
    if f.xb 0 4 < x.sealedB.length then .go (park s e.a .batch (f.xb 0 4))
    else
      let s := s.acquire (s.coreNo e.a) .core
      if f.d.isAbsent then .ok s
      else
        let old := (x.sealedB.head?.map Batch.num).getD x.ob.num
        let s := modBlock e s fun k => { k with batches := tput g { x with acc := 0 } k.batches }
        .ok (writeD e s ((old.setWidth 64 <<< 32) ||| x.acc.setWidth 64))

/-- A group in a batch wait may go on: enough batches have finished, or the request queue has room; its word issues again.
Else nothing happens. -/
def execBwaitRelease (a : Agent) (s : State) : Host.Outcome State Fault Refusal :=
  match s.thread? a, s.block? (s.blockNo a) with
  | some t, some k =>
    let n := t.warg.toNat
    let free :=
      if n = phrsMark then decide ((s.core (s.coreNo a)).preq.length < requestQueueSize)
      else decide ((k.batchesOf (agentIndex a)).sealedB.length ≤ n)
    .next (if t.wait = .batch ∧ t.gstate ≠ .evicted ∧ free then wake s a else s)
  | _, _ => .next s

/-- A group waiting on a port that has an entry, or whose program has ended, issues its word again (R222); a context whose push
waits for room goes on once there is some (R234). -/
def execQueuePortWake (a : Agent) (s : State) : Host.Outcome State Fault Refusal :=
  match s.thread? a, s.block? (s.blockNo a) with
  | some t, some k =>
    let l := tget [] t.warg.toNat k.ports
    let free : Bool := match a with
      | .phrase _ _ => l.length < 4
      | _ => l ≠ [] || k.apEnded
    .next (if t.wait = .queue ∧ t.gstate ≠ .evicted ∧ free then wake s a else s)
  | _, _ => .next s

/-- The view level of a block's groups (R67, R273). -/
def gridDepth (s : State) (b : Nat) : BitVec 2 := ((s.block? b).bind fun k => s.grid? k.grid).elim 0 Grid.vdepth

/-- The context that a queued request starts, its program at the issuing group's level of views (R67, R220, R227). -/
def requestCtx (r : PReq) (vdepth : BitVec 2) : PCtx × Thread :=
  let t := (((((Thread.launch r.prog 0 1 0).setS 0 r.recAddr).setS 9 (BitVec.ofNat 64 r.grp)).setS 10
    (r.batch.setWidth 64)).setS 11 (BitVec.ofNat 64 r.lane))
  ({ launched := true, block := r.block, issuer := r.grp, batch := r.batch, status := 0, slots := [], last := none, nextOrder := 0,
     running := false, engine := 0 },
    { (r.vals.zip (List.range r.vals.length)).foldl (fun u v => u.setS (1 + v.2) (v.1.signExtend 64)) t with vdepth := vdepth })

/-- The oldest request takes a free launched context and its program starts (R208, R220): the lowest free one (DESIGN CHOICE,
notes/assumptions/101.md). -/
def execPhraseRequestStart (core : Nat) (s : State) : Host.Outcome State Fault Refusal :=
  let k := s.core core
  match k.preq, (List.range 48).find? fun i => (tlook (16 + i) k.pctx).isNone with
  | r :: rest, some i =>
    let p := requestCtx r (gridDepth s r.block)
    .next ((s.setCore core { k with preq := rest, pctx := tput (16 + i) p.1 k.pctx }).setThread (.phrase core (16 + i)) p.2)
  | _, _ => .next s

/-- A waiting transfer obtains its lock table entries, and its context goes on after the word (R216). -/
def execRangeLockRegister (core ctx slot : Nat) (s : State) : Host.Outcome State Fault Refusal :=
  let a := Agent.phrase core ctx
  match ctxOf s a, s.thread? a with
  | some p, some t =>
    match tlook slot p.slots with
    | some l =>
      if l.locked ∨ t.wait ≠ .lockTable then .next s
      else
        match registerLocks s core ctx slot l with
        | some s => .next ((wake s a).modThread a Thread.advance)
        | none => .next s
    | none => .next s
  | _, _ => .next s

/-- A context that waits for a slot, for its own transfers, or for progress issues its word again (R215, R223, R237, R238). -/
def execPhraseContextResume (core ctx : Nat) (s : State) : Host.Outcome State Fault Refusal :=
  let a := Agent.phrase core ctx
  match s.thread? a with
  | some t =>
    .next (if t.wait = .own ∧ busySlots s a ≤ t.warg.toNat ∨ t.wait = .pcur then wake s a else s)
  | none => .next s

end Sys2Proof.Machine
end

