-- ==== Sys2Proof/Machine/Exit.lean ====
section
/-!
DEFINITION. `EXIT` (R121): lanes leave the group, a group ends with its last live lane (R63), and the end of a stream without
lanes (R188, R237).
-/
namespace Sys2Proof.Machine

/-- Removes lanes from `LIVE` and `HELP`, and gives the new execution mask and pc (R63, R121). -/
def Thread.leaveLanes (t : Thread) (ex m : Mask) (pc : Dword) : Thread :=
  { t with live := t.live &&& ~~~ex, help := t.help &&& ~~~ex, exm := m, pc := pc, latch := none }

/-- The group ends: it issues no more, and its block counts it as ended (R63, R170). -/
def endGroup (s : State) (b g : Nat) : State :=
  let s := s.modThread (.group b g) fun t =>
    { t with gstate := .ended, wait := .none, replay := none, outstanding := [], remote := none, clause := none, ask := none, yieldTo := [], yielding := false }
  match s.block? b with
  | some k => s.setBlock b { k with notEnded := k.notEnded &&& ~~~bitMask g, inMem := k.inMem &&& ~~~bitMask g }
  | none => s

/-- The matrix stream of a block ends (R188). -/
def endStream (s : State) (b : Nat) : State :=
  let s := s.modThread (.mstream b) fun t => { t with gstate := .ended, wait := .none, outstanding := [] }
  match s.block? b with
  | some k => s.setBlock b { k with msEnded := true, mq := none }
  | none => s

/-- The lanes `ex` of a group exit: their clauses are released and poisoned (R261), and a group without live lanes ends. -/
def exitLanes (s : State) (b g : Nat) (t : Thread) (ex m : Mask) (pc : Dword) : State :=
  let ids := (lanesOf 64 ex).map fun l => tget 0 l t.origid
  let t' := t.leaveLanes ex m pc
  let s := exitClauses (s.setThread (.group b g) t') b g ids
  if t'.live = 0 then endGroup s b g else s

/-- `EXIT` reads its guard, `Sa` and the masks once the outstanding results are written (R24). -/
def execExit (f : Fields) (s : State) := issueAfterResults 0x67 f s fun e s =>
  match e.a with
  | .mstream b => if e.t.msup then .trap (Trap.all cPROT 0 e.act) s else .go (endStream s b)
  | .phrase _ _ => pendOp 0 e s
  | .group b g =>
    if e.t.sup then .trap (Trap.all cPROT 0 e.act) s
    else
      let rest := e.t.live &&& ~~~e.act
      if rest ≠ 0 ∧ e.t.exm &&& ~~~e.act = 0 then
        let m := e.va 64 e.low &&& rest
        if !e.f.fn.getLsbD 0 || m = 0 then .trap (Trap.all cILLOP 0 e.act) s
        else if e.target.toNat % 4 ≠ 0 then .trap { Trap.all cMISALIGN 0 e.act with cdetail := 3 } s
        else .go (exitLanes s b g e.t e.act m e.target)
      else .go (exitLanes s b g e.t e.act (e.t.exm &&& ~~~e.act) e.next)

end Sys2Proof.Machine
end

