-- ==== Sys2Proof/Machine/Parts.lean ====
section
/-!
DEFINITION. A memory word performed one access at a time (R304): the accesses of a word, each of them by itself, and the end of the
word once all are performed. The meanings of Machine/Memory.lean perform a word in one step; a word that a move of its own issues
in parts lets other agents' accesses come between.
-/
namespace Sys2Proof.Machine

/-- The words that may be performed in parts. -/
def inParts (opc : Nat) : Bool := [0xA0, 0xA1, 0xA4, 0xA5, 0xA6, 0xA7].contains opc

/-- The shape of such a word. -/
def memShape (e : Env) : MemOp :=
  match e.opc with
  | 0xA0 => ldShape e
  | 0xA1 => stShape e
  | 0xA4 => ldkShape e
  | 0xA5 => atomShape e .atomic
  | 0xA6 => atomShape e .red
  | _ => atom2Shape e

/-- The accesses of a lane's bytes: one, or one for every 8 bytes, ascending (R304; for `LDK`: DEDUCED, notes/assumptions/78.md). -/
def laneParts (e : Env) (m : MemOp) (x : Nat × Nat) : List Part :=
  let n := min 8 m.size
  let data := if e.opc = 0xA1 then storeData e m.size x.1 else []
  (List.range (m.size / n)).map fun i =>
    { lane := x.1, va := (m.addr e x.1).toNat + n * i, phys := x.2 + n * i, page := (0, 0), off := n * i, len := n,
      b := if e.opc = 0xA1 then leNat ((data.drop (n * i)).take n) else (e.vb (8 * n) x.1).toNat % 2 ^ (8 * n),
      d := (e.vd (8 * n) x.1).toNat % 2 ^ (8 * n), lanes := [x.1] }

/-- The two operations of a request of `ATOM2`: its low half and its high half (R312). -/
def reqParts (e : Env) (x : List Nat × Nat × Nat) : List Part :=
  let va := ((atom2Shape e).addr e (x.1.headD 0)).toNat
  [{ lane := x.1.headD 0, va := va, phys := x.2.1, page := (0, 0), off := 0, len := 2, b := x.2.2 % 65536, d := 0, lanes := x.1 },
   { lane := x.1.headD 0, va := va + 2, phys := x.2.1 + 2, page := (0, 0), off := 2, len := 2, b := x.2.2 / 65536 % 65536, d := 0, lanes := x.1 }]

/-- The accesses of a word, in the order in which the word performs them when nothing comes between. -/
def partsOf (e : Env) (ok : List (Nat × Nat)) : List Part :=
  if e.opc = 0xA7 then (atom2Reqs e ok).flatMap (reqParts e) else ok.flatMap (laneParts e (memShape e))

/-- An access with the page that translated it (R331). -/
def Part.paged (s : State) (a : Agent) (x : Part) : Part := { x with page := s.pageAt (tlbAt s a) (s.asidOf a) x.va }

/-- The word issues: its lanes are checked, what precedes its ordering is done, and its accesses are left to be performed. -/
def startParts (e : Env) (ports : Tab (List (List Word))) (s : State) : State :=
  let m := memShape e
  let r := m.check e s
  let core := s.coreNo e.a
  let sc := scopeOf e.f.ty
  let h := if e.opc = 0xA0 then splitHelp e r.bad else (r.bad, if e.opc = 0xA1 ∨ e.opc = 0xA4 then [] else e.helpers)
  let late := (m.lateData e h.1 (e.opc = 0xA0 || e.opc = 0xA4)).getD (0, 0, [])
  let job : MemJob :=
    { opc := e.opc, f := e.f, act := e.act, parts := (partsOf e r.ok).map (Part.paged r.st e.a), got := [], zero := h.2, late := late.1, ecode := late.2.1,
      addrs := late.2.2, fail := if late.1 = 0 then m.failure e h.1 else none, stale := false }
  (popPorts (ordered r.st e.a core (e.f.fnn % 4) sc (partPlace core job) r.ok) e.a e.opc e.f ports).modThread e.a fun t =>
    { t with job := some job }

/-- The access may be performed before those listed ahead of it: none of them is of its lane or to its bytes, nor an atomic at its
slice, whose requests keep their order (R164, R304, R310). -/
def mayPass (j : MemJob) (x y : Part) : Bool :=
  x.lane ≠ y.lane && (decide (x.phys + x.len ≤ y.phys) || decide (y.phys + y.len ≤ x.phys)) &&
    (decide (j.opc < 0xA5) || homeOf x.phys ≠ homeOf y.phys || l2Slice (lineOf x.phys) ≠ l2Slice (lineOf y.phys))

/-- Takes access `i` off an agent's word and performs it; where one ahead of it must come first, that of the front. -/
def performAccess (s : State) (a : Agent) (j : MemJob) (i : Nat) : State :=
  let i := match j.parts[i]? with
    | some x => if (j.parts.take i).all (mayPass j x) then i else 0
    | none => 0
  match j.parts[i]? with
  | none => s
  | some x =>
    let r := performPart (if 0xA5 ≤ j.opc ∧ partPlace (s.coreNo a) j = .home then s.endRequests a x.phys x.len else s) a j x
    r.2.modThread a fun t => { t with job := some (j.done x r.1) }

/-- The bytes that a lane has received. -/
def MemJob.bytes (j : MemJob) (l : Nat) : List Byte :=
  [0, 2, 8, 16, 24].flatMap fun o => ((j.got.find? fun x => x.1 = l && x.2.1 = o).map fun x => x.2.2).getD []

/-- The register results of a word whose accesses are performed. -/
def MemJob.writes (j : MemJob) : Writes :=
  let ls := (j.got.map Prod.fst).eraseDups
  match j.opc with
  | 0xA0 =>
    (ls.map (fun l => loadWrites j.f l (j.bytes l)) ++ j.zero.map fun l => loadWrites j.f l (List.replicate (2 ^ j.f.size) 0)).foldl
      Writes.append Writes.none
  | 0xA4 => (ls.map fun l => kWrites j.f.d.num (j.bytes l)).foldl Writes.append Writes.none
  | 0xA1 => Writes.none
  | _ =>
    let w := if j.opc = 0xA7 then 32 else 8 * 2 ^ j.f.size
    (ls.map (fun l => laneWrite j.f.d w l (BitVec.ofNat 64 (leNat (j.bytes l)))) ++ j.zero.map fun l => laneWrite j.f.d w l 0).foldl
      Writes.append Writes.none

/-- The word is done: its results are written, what follows its ordering is done, and it advances or takes its trap. -/
def finishParts (s : State) (a : Agent) (t : Thread) (j : MemJob) : State :=
  let s := s.modThread a fun t => { t with job := none }
  let s := if j.got.isEmpty ∧ j.opc ≠ 0xA1 ∨ j.opc = 0xA4 then s else s.after (s.coreNo a) (j.f.fnn % 4) (scopeOf j.f.ty)
  let e : Env := { a := a, t := t, n := s.lanes a, act := j.act, opc := j.opc, f := j.f, qa := [], qb := [], qc := [], bad := 0,
                   badCode := 0 }
  match j.fail with
  | some x => takeTrap ((writeNow e s j.writes).modThread a fun t => { t with replay := some x.2 }) a (wordOf j.opc j.f) x.1
  | none =>
    let s := (complete e s j.writes 0 j.late j.ecode j.addrs).modThread a Thread.advance
    match s.thread? a with
    | some t => if t.wait = .dep && !t.awaitsResult then wake s a else s
    | none => s

/-- One more access of an agent's word, or the word's end. -/
def accessMove (a : Agent) (i : Nat) (s : State) : State :=
  match s.thread? a with
  | none => s
  | some t =>
    match t.job with
    | none => s
    | some j => if j.parts.isEmpty then finishParts s a t j else performAccess s a j i

/-- Performs what is left of an agent's word, with `n` accesses at most. -/
def runParts (a : Agent) : Nat → State → State
  | 0, s => s
  | n + 1, s =>
    match (s.thread? a).bind Thread.job with
    | none => s
    | some _ => runParts a n (accessMove a 0 s)

/-- Performs what is left of an agent's word. -/
def finishJob (s : State) (a : Agent) : State :=
  match (s.thread? a).bind Thread.job with
  | none => s
  | some j => runParts a (j.parts.length + 1) s

end Sys2Proof.Machine
end

