-- ==== Sys2Proof/Machine/Power.lean ====
section
/-!
DEFINITION. The power controller of a cluster: energy classes, leave, the withholding level, the slew hold, energy quotas and
core gating (R248, R262 to R266, R364 to R366).
-/
namespace Sys2Proof.Machine

/-- Energy of a word by the class of its opcode (R262). -/
def wordEnergy (opc : Nat) : Nat :=
  if 0x60 ≤ opc ∧ opc ≤ 0x77 ∨ opc = 0xE9 then 1
  else if opc ≤ 0x1F ∨ 0x80 ≤ opc ∧ opc ≤ 0x8A then 2
  else if 0x28 ≤ opc ∧ opc ≤ 0x2F ∨ 0x4D ≤ opc ∧ opc ≤ 0x52 then 8
  else if 0x20 ≤ opc ∧ opc ≤ 0x34 ∨ 0x40 ≤ opc ∧ opc ≤ 0x4C then 4
  else if reservedOpc opc then 1
  else 6

/-- Adds a debit to a cluster and to the context that causes it (R262, R364); the system die has no cluster. -/
def debit (s : State) (d : Nat) (asid : BitVec 16) (eu : Nat) : State :=
  if 16 ≤ d then s
  else
    let x := s.die d
    s.setDie d
      { x with debit := x.debit + eu, ctxDebit := tput asid.toNat (tget 0 asid.toNat x.ctxDebit + eu) x.ctxDebit }

/-- The effective priority of a base priority after `w` cycles (R147). -/
def aged (prio w : Nat) : Nat := min 15 (prio + w / 1024)

def Thread.effPrio (t : Thread) : Nat := aged t.prio.toNat t.ready

/-- The context is stopped on the die (R364). -/
def stoppedOn (s : State) (d : Nat) (asid : BitVec 16) : Bool := (s.die d).stopped.contains asid

/-- `PACFG` fields (R265). -/
def Die.rate (x : Die) : Nat := dbits x.pacfg 48 16
def Die.cap (x : Die) : Nat := dbits x.pacfg 24 24
def Die.low (x : Die) : Nat := dbits x.pacfg 12 12
def Die.high (x : Die) : Nat := dbits x.pacfg 0 12

/-- The groups that wait on a clause which the group holds (R263). -/
def clauseWaiters (s : State) (b g : Nat) : List Agent :=
  (List.range 17).flatMap fun d =>
    (s.die d).keys.flatMap fun e =>
      match e.holder with
      | some h =>
        if h.block = b ∧ h.grp = g then e.waiters.map fun w => Agent.group w.block w.grp else []
      | none => []

/-- The priority by which a group is judged against the level (R263). -/
def judgedPrio (s : State) (a : Agent) : Nat :=
  let own (x : Agent) : Nat := (s.thread? x).elim 0 Thread.effPrio
  match a with
  | .group b g => (clauseWaiters s b g).foldl (fun m x => max m (own x)) (own a)
  | _ => own a

/-- The group is withheld by the allowance or the slew hold (R147, R263, R366); at level 16 nothing issues, in whatever stream. -/
def withheld (s : State) (a : Agent) : Bool :=
  let x := s.die (s.dieNo a)
  match a with
  | .group _ _ => x.slewHold || decide (judgedPrio s a < x.level)
  | _ => decide (16 ≤ x.level)

/-! ### Leave (R264) -/

/-- The place of a request among those of its cycle: the cores in order, each core's matrix unit before its engines, and the view
unit last. -/
def leaveRank (s : State) : LeaveFor → Nat
  | .matrix b => (s.block? b).elim 0 fun k => 8 * k.core
  | .chunk c x _ => 8 * c + 1 + (tlook x (s.core c).pctx).elim 0 PCtx.engine
  | .row _ => 8 * systemCore0

/-- A request goes behind those of earlier cycles, and among those of its own cycle by its source. -/
def placeLeave (s : State) (r : LeaveReq) : List LeaveReq → List LeaveReq
  | [] => [r]
  | x :: l => if x.wait = 0 && decide (leaveRank s r.who < leaveRank s x.who) then r :: x :: l else x :: placeLeave s r l

/-- A request takes its place in the order of arrival. -/
def askLeave (s : State) (d : Nat) (who : LeaveFor) (cost prio : Nat) : State :=
  s.setDie d { s.die d with leaves := placeLeave s { who := who, cost := cost, prio := prio, wait := 0 } (s.die d).leaves }

/-- A withdrawn request leaves the order. -/
def withdrawLeave (s : State) (d : Nat) (p : LeaveFor → Bool) : State :=
  s.setDie d { s.die d with leaves := (s.die d).leaves.filter fun r => !p r.who }

/-- The context of a request. -/
def leaveAsid (s : State) : LeaveFor → BitVec 16
  | .matrix b => (s.block? b).elim 0 Block.asid
  | .chunk c x _ => s.asidOf (.phrase c x)
  | .row v => (tlook v s.views).elim 0 View.asid

/-- Marks the operation as granted. -/
def giveLeave (s : State) : LeaveFor → State
  | .matrix b =>
    match s.block? b with
    | some k => s.setBlock b { k with mq := k.mq.map fun m => { m with leave := true } }
    | none => s
  | .chunk c x i =>
    let k := s.core c
    match tlook x k.pctx with
    | some p =>
      match tlook i p.slots with
      | some l => s.setCore c { k with pctx := tput x { p with slots := tput i { l with leave := true } p.slots } k.pctx }
      | none => s
    | none => s
  | .row v =>
    match tlook v s.views with
    | some x => { s with views := tput v { x with leave := true } s.views }
    | none => s

/-- The priority of a request: a phrase chunk's does not age. -/
def LeaveReq.effPrio (r : LeaveReq) : Nat :=
  match r.who with
  | .chunk _ _ _ => r.prio
  | _ => aged r.prio r.wait

/-- The first request may be granted now: a cycle's grants go by the level after its update (R263). -/
def mayGrant (x : Die) (r : LeaveReq) : Bool :=
  !x.slewHold && !x.levelDue && decide (x.level ≤ r.effPrio) &&
    (decide ((r.cost : Int) ≤ x.count) || decide (x.cap < r.cost) && decide (x.count = x.cap))

/-- The cluster grants the request at the head of its order, where it may; at a grant the slew controller may start a hold
(R264, R366). -/
def execLeaveGrant (d : Nat) (hold : Bool) (s : State) : Host.Outcome State Fault Refusal :=
  let x := s.die d
  match x.leaves with
  | [] => .next s
  | r :: rest =>
    if mayGrant x r then
      let s := giveLeave (debit (s.setDie d { x with leaves := rest }) d (leaveAsid s r.who) r.cost) r.who
      let x := s.die d
      .next (if hold then s.setDie d { x with slewHold := true, slewLen := 0, slewEvents := x.slewEvents + 1 } else s)
    else .next s

/-- The end of a slew hold (R366). -/
def execSlewHoldEnd (d : Nat) (s : State) : Host.Outcome State Fault Refusal :=
  .next (s.setDie d { s.die d with slewHold := false })

/-! ### Cycles (R262, R263, R147, R148) -/

/-- The level after an update against `COUNT` (R263). -/
def levelAfter (x : Die) : Nat :=
  let l := if x.count < x.low * 1024 then min 16 (x.level + 1) else x.level
  if x.high * 1024 ≤ x.count then l - 1 else l

/-- The update of the level, where it is due; else nothing happens. -/
def execLevelUpdate (d : Nat) (s : State) : Host.Outcome State Fault Refusal :=
  let x := s.die d
  .next (if x.levelDue then s.setDie d { x with level := levelAfter x, levelDue := false } else s)

/-- A transfer that has stopped parks its context (R224, R225). -/
def PCtx.transferStopped (p : PCtx) : Bool := p.slots.any fun x => x.2.stopped

/-- The agent is a context that a stopped transfer parks. -/
def transferStops (s : State) (a : Agent) : Bool :=
  match a with
  | .phrase c x => (tlook x (s.core c).pctx).any PCtx.transferStopped
  | _ => false

/-- An agent counts a cycle in which it was ready and did not issue, and a sleeping group a cycle of its sleep; `YH` holds for the
slot of one cycle; `parked` tells that a stopped transfer parks the agent. -/
def tickThread (parked : Bool) (t : Thread) : Thread :=
  { t with
    ready := if t.isReady && !t.issued && !parked then t.ready + 1 else t.ready,
    issued := false, yh := t.yh && t.issued,
    depWait := if t.gstate = .active && t.awaitsResult then t.depWait + 1 else 0,
    waited := if t.wait = .none then 0 else t.waited + 1,
    sleep := if t.wait = .sleep && t.gstate ≠ .evicted then t.sleep - 1 else t.sleep }

/-- The groups of a slice. -/
def sliceGroups (s : State) (core slice : Nat) : List (Agent × Thread) :=
  s.threads.filter fun x =>
    match x.1 with
    | .group b g => s.coreNo x.1 = core && sliceOf s b g = slice
    | _ => false

/-- The no-issue count of a slice after a cycle: an issue resets it; a cycle of a hold, or one in which only the allowance kept
its ready groups, is not counted (R148, R366). -/
def noIssueAfter (s : State) (core slice n : Nat) : Nat :=
  let gs := sliceGroups s core slice
  let rs := gs.filter fun x => x.2.isReady
  if (s.core core).used.contains slice then 0
  else if (s.die (dieOfCore core)).slewHold || !rs.isEmpty && rs.all fun x => withheld s x.1 then n
  else n + 1

/-- The no-issue counts of a core's slices; every issue slot is free again. -/
def tickSlices (s : State) (core : Nat) : State :=
  let k := s.core core
  s.setCore core
    { k with used := [], noIssue := (List.range 16).map fun i => (i, noIssueAfter s core i (tget 0 i k.noIssue)) }

/-- The cores of a die that hold a block. -/
def busyCores (s : State) (d : Nat) : List Nat :=
  ((s.blocks.filter fun x => x.2.resident && dieOfCore x.2.core = d).map fun x => x.2.core).eraseDups

/-- A die after a cycle: the refill, then the debits; the clock; the counts of cycles. -/
def tickDie (x : Die) : Die :=
  { x with
    clk := x.clk + 1, count := min (x.cap : Int) (x.count + x.rate) - x.debit, debit := 0,
    levelDue := decide (x.clk.toNat % 64 = 63),
    heldcyc := if 0 < x.level then (x.heldcyc + 1) % 2 ^ 34 else x.heldcyc,
    slewCycles := if x.slewHold then x.slewCycles + 1 else x.slewCycles,
    slewHold := x.slewHold && decide (x.slewLen + 1 < if x.cbok then 512 else 4096),
    slewLen := if x.slewHold then x.slewLen + 1 else x.slewLen,
    keys := x.keys.map fun e => { e with waiters := e.waiters.map fun w => { w with cycles := w.cycles + 1 } },
    leaves := x.leaves.map fun r => { r with wait := r.wait + 1 } }

/-- The end of a cycle of a cluster's clock, once the level's update of the cycle before is made: the counts of R147, R148,
R257 and R264, the clock (R67), and the allowance (R262). -/
def execAllowanceRefill (d : Nat) (s : State) : Host.Outcome State Fault Refusal :=
  if (s.die d).levelDue then .next s
  else
    let s := (busyCores s d).foldl tickSlices s
    let s := { s with threads := s.threads.map fun (x : Agent × Thread) => if s.dieNo x.1 = d then (x.1, tickThread (transferStops s x.1) x.2) else x }
    .next (s.setDie d (tickDie (s.die d)))

/-! ### Energy quotas (R364, R365) -/

/-- The requests of a context on a die leave the order; their operations ask again (R264). -/
def withdrawContext (s : State) (d : Nat) (asid : BitVec 16) : State :=
  let s := withdrawLeave s d fun w => leaveAsid s w = asid
  let block (k : Block) : Block := { k with mq := k.mq.map fun m => if m.leave then m else { m with asked := false } }
  let slot (l : PhSlot) : PhSlot := if l.leave then l else { l with asked := false }
  let ctx (p : PCtx) : PCtx := { p with slots := p.slots.map fun l => (l.1, slot l.2) }
  let core (c : Nat) (k : Core) : Core :=
    { k with pctx := k.pctx.map fun p => if s.asidOf (.phrase c p.1) = asid then (p.1, ctx p.2) else p }
  { s with
    blocks := s.blocks.map fun b => if b.2.asid = asid ∧ dieOfCore b.2.core = d then (b.1, block b.2) else b,
    cores := s.cores.map fun c => if dieOfCore c.1 = d then (c.1, core c.1 c.2) else c,
    views := s.views.map fun v =>
      if v.2.asid = asid ∧ v.2.die = d ∧ v.2.leave = false then (v.1, { v.2 with asked := false }) else v }

/-- A cluster adds minus its debit to the context's credit and stops the context, or lets it go on, by what it reads. -/
def execEnergySettlement (d : Nat) (asid : BitVec 16) (s : State) : Host.Outcome State Fault Refusal :=
  let r := s.ctxRec asid
  if 16 ≤ d ∨ r = 0 then .next s
  else
    let x := s.die d
    let v := s.ctxWord asid 0x38 - BitVec.ofNat 64 (tget 0 asid.toNat x.ctxDebit)
    let s := (s.setDie d { x with ctxDebit := tdel asid.toNat x.ctxDebit }).putHome64 (r + 0x38) v
    let q := s.ctxWord asid 0x40
    if q.getLsbD 1 && decide (v.toInt ≤ 0) then
      if stoppedOn s d asid then .next s
      else
        let s := s.setDie d { s.die d with stopped := (s.die d).stopped ++ [asid] }
        .next (raiseInt d 5 ((withdrawContext s d asid).putHome64 (r + 0x40) (q ||| 1)))
    else if stoppedOn s d asid && decide (0 < v.toInt) then
      .next ((s.setDie d { s.die d with stopped := (s.die d).stopped.filter fun y => y ≠ asid }).putHome64 (r + 0x40)
        (q &&& ~~~1#64))
    else .next s

/-! ### Gating (R248) -/

/-- A core may be gated when it holds no block, no phrase context and no pinned line. -/
def mayGate (s : State) (c : Nat) : Bool :=
  decide (c < 1536) && (s.blocks.all fun x => !(x.2.resident && x.2.core = c)) && (s.core c).pctx.isEmpty &&
    (s.core c).pins.isEmpty

/-- One step of gating a core: first it is marked, then it writes back its dirty lines and powers down, once the accesses it
accepted and issued are performed. -/
def execCoreGate (c : Nat) (s : State) : Host.Outcome State Fault Refusal :=
  if !mayGate s c then .next s
  else
    match (s.core c).gating with
    | .on => .next (s.setCore c { s.core c with gating := .gating })
    | .gating =>
      let s := s.forwardL1 c fun _ => true
      .next (s.setCore c { s.core c with gating := .gated, l1 := [], l1Tags := [], tlb := [] })
    | .gated => .next s

/-- A gated core is ungated, with empty L1, scratchpad and group store; a core that is still being gated is not. -/
def execCoreUngate (c : Nat) (s : State) : Host.Outcome State Fault Refusal :=
  match (s.core c).gating with
  | .gated => .next (s.setCore c { s.core c with gating := .on, l1 := [], l1Tags := [], tlb := [] })
  | _ => .next s

end Sys2Proof.Machine
end

