-- ==== Sys2Proof/Machine/Sched.lean ====
section
/-!
DEFINITION. Scheduling: which agent may issue (R140, R142, R147), the fetch of its next word (R8, R32), what an issue leaves
behind (R23, R25, R147, R262), arriving register results (R24, R142), the ends of `DEP` and `SLEEP` waits (R123, R142), swaps
(R145, R146), and the movements of cached data and of errors that no row of the table names (R151, R297, R320, R327).
-/
namespace Sys2Proof.Machine

/-! ### Who may issue -/

/-- The block's agents are on a core that runs. -/
def placed (s : State) (a : Agent) : Bool :=
  match s.block? (s.blockNo a) with
  | some k => k.resident && (s.core (s.coreNo a)).gating = .on
  | none => false

/-- The agent has a ready word that nothing sets aside; which of its core's agents takes the issue slot is left to choose. Nothing
issues between the end of a cycle and the update of the level that is due at it (R263). -/
def readyToIssue (s : State) (a : Agent) : Bool :=
  match s.thread? a with
  | none => false
  | some t =>
    s.sys.running && placed s a && t.isReady && t.yieldTo.isEmpty && !stoppedOn s (s.dieNo a) (s.asidOf a) && !withheld s a &&
      !(s.die (s.dieNo a)).levelDue && !transferStops s a

/-- The choice of R147 prefers `u` to `t`: the higher effective priority; at an equal one below 15 the older group, at 15 the one
that has been ready longer. -/
def ahead (u t : Thread) : Bool :=
  decide (t.effPrio < u.effPrio) ||
    t.effPrio = u.effPrio && (if u.effPrio < 15 then decide (u.age < t.age) else decide (t.ready < u.ready))

/-- The groups of a slice among which it chooses: those that are ready, without the ones whose last word had `YH` where another
is ready (R26, R147). -/
def choices (s : State) (core slice : Nat) : List (Agent × Thread) :=
  let l := (sliceGroups s core slice).filter fun x => readyToIssue s x.1
  if l.any fun x => !x.2.yh then l.filter fun x => !x.2.yh else l

/-- How far a placement position stands behind the one served last (R189). -/
def turnOf (s : State) (b : Nat) : Nat :=
  match s.block? b with
  | some k => (k.pos + 15 - (s.core k.core).turn) % 16
  | none => 16

/-- The other streams and contexts of the agent's core that have a ready word. -/
def rivals (s : State) (a : Agent) : List (Agent × Thread) :=
  s.threads.filter fun x => x.1 ≠ a && s.coreNo x.1 = s.coreNo a && readyToIssue s x.1

/-- The phrase context's engine state on its core. -/
def onEngine (s : State) (a : Agent) : Bool :=
  match a with
  | .phrase c x => (tlook x (s.core c).pctx).elim false PCtx.running
  | _ => false

/-- Phrase engines of a core that run a context (R208). -/
def busyEngines (s : State) (core : Nat) : List Nat :=
  ((s.core core).pctx.filter fun x => x.2.running).map fun x => x.2.engine

/-- The agent is the one that its issue slot takes: of a slice the group of R147, of the sequencer the stream whose turn it is
(R189), and of the phrase engines a context that one runs, or the longest ready where an engine is free (R208). -/
def chosen (s : State) (a : Agent) (t : Thread) : Bool :=
  match a with
  | .group b g =>
    let l := choices s (s.coreNo a) (sliceOf s b g)
    !(s.core (s.coreNo a)).used.contains (sliceOf s b g) && (l.any fun x => x.1 = a) && !l.any fun x => ahead x.2 t
  | .mstream b =>
    !(s.core (s.coreNo a)).used.contains 16 &&
      !(rivals s a).any fun x =>
        match x.1 with
        | .mstream b' => decide (turnOf s b' < turnOf s b)
        | _ => false
  | .phrase c _ =>
    onEngine s a ||
      decide ((busyEngines s c).length < 4) &&
        !(rivals s a).any fun x =>
          match x.1 with
          | .phrase _ _ => !onEngine s x.1 && decide (t.ready < x.2.ready)
          | _ => false

/-- The agent may issue its next word now. -/
def canIssue (s : State) (a : Agent) : Bool :=
  readyToIssue s a && (s.thread? a).elim false (chosen s a)

/-! ### Fetch (R8, R31, R319) -/

/-- The lanes that a fetch fault concerns. -/
def fetchLanes (a : Agent) (t : Thread) : Mask :=
  match a with
  | .group _ _ => t.exm
  | _ => 1

/-- One 32-bit word of code, checked as an access of kind 3: only code of the resident kernel is fetched from its pages (R319, R337). It
is read at its home slice (R301, R307). -/
def fetchPart (s : State) (a : Agent) (va : Nat) : Except Cause (List Byte × State) :=
  let b := tlbAt s a
  match s.check b (s.asidOf a) (physicalOf s a) (kernelCode s a) false .fetch false va 4 with
  | .fail c => .error c
  | .ok p e c =>
    if s.poisoned p then .error ⟨cECCU, 1⟩
    else .ok (readBytes s.homeByte p 4, (s.touch b .fetch (.ok p e c)).atSlice b p (classOf s a 0))

/-- The three words of an instruction, lowest address first. -/
def fetchBytes (s : State) (a : Agent) (va : Nat) : Nat → Except (Cause × Nat) (List Byte × State)
  | 0 => .ok ([], s)
  | n + 1 =>
    match fetchPart s a va with
    | .error c => .error (c, va)
    | .ok (x, s) =>
      match fetchBytes s a (va + 4) n with
      | .error e => .error e
      | .ok (y, s) => .ok (x ++ y, s)

/-- The agent's next word: the one at its pc, or that of a replay (R163). -/
def fetch (s : State) (a : Agent) (t : Thread) : Except Trap (BitVec 96 × State) :=
  match t.replay.bind fun r => if r.armed then some r.word else none with
  | some w => .ok (w, s)
  | none =>
    match fetchBytes s a t.pc.toNat 3 with
    | .error (c, va) =>
      let m := fetchLanes a t
      .error { Trap.all c.code c.detail m with
               cdetail := 3, addrs := (lanesOf 64 m).map fun l => (l, BitVec.ofNat 64 va) }
    | .ok (bs, s) => .ok ((wordOfBytes bs).getD 0, s)

/-- A fetch that failed has brought the core the replies of its walk (R307). -/
def fetchWalked (s : State) (a : Agent) (i : Trap) : State :=
  match i.addrs with
  | (_, va) :: _ => s.walked (tlbAt s a) (s.asidOf a) (physicalOf s a) .fetch va.toNat ⟨i.cause, i.detail⟩
  | [] => s

/-- What the move of an agent begins with: the word that issues, with the state it issues in; or the state after a fetch that
trapped, after an uncorrectable load result that is due (R327), or where the agent may not issue now. -/
inductive Begin where
  | word (w : BitVec 96) (s : State)
  | done (s : State)
  deriving DecidableEq, Repr

/-- An uncorrectable result is due before the next word (R327). -/
def Thread.lateDue (t : Thread) : Bool := t.outstanding.any fun o => o.window = 0 && o.eccu ≠ 0

/-- An engine runs the context from here on: the lowest that is free (R208). -/
def takeEngine (s : State) (a : Agent) : State :=
  match a with
  | .phrase c x =>
    let k := s.core c
    match tlook x k.pctx with
    | some p =>
      if p.running then s
      else
        let e := ((List.range 4).find? fun i => !(busyEngines s c).contains i).getD 0
        s.setCore c { k with pctx := tput x { p with running := true, engine := e } k.pctx }
    | none => s
  | _ => s

/-- A register field with the length of its run: of a vector register, or of a scalar one. -/
def runAt (o : Opd) (v s : Nat) : Opd × Nat :=
  match o with
  | .s _ | .xs _ => (o, s)
  | _ => (o, v)

/-- What the word leaves in the reuse latch when it has read its operands: operand A where it has `KA` and a lane is active (R25,
R31). A group has one latch: a following word with `KA` and another A operand replaces what it held (DESIGN CHOICE,
notes/assumptions/94.md). -/
def latchOf (a : Agent) (n : Nat) (t : Thread) (w : BitVec 96) : Option (Opd × Nat) :=
  match fieldsOf w with
  | some f =>
    if f.ka && activeLanes a n t f ≠ 0 then some (runAt f.a (vSpans (opcodeOf w) f).2.1 (sSpans (opcodeOf w) f).2.1) else none
  | none => none

/-- The word makes its group stand aside in the next issue slot: it has `YH`, and a lane is active (R26, R31). -/
def asideOf (a : Agent) (n : Nat) (t : Thread) (w : BitVec 96) : Bool :=
  match fieldsOf w with
  | some f => f.yh && activeLanes a n t f ≠ 0
  | none => false

/-- A thread as its word begins: the latch and `YH` are the word's, and a `YIELD` before it is over (R25, R26, R123). -/
def Thread.begin (t : Thread) (a : Agent) (n : Nat) (w : BitVec 96) : Thread :=
  { t with latch := latchOf a n t w, yh := asideOf a n t w, yielding := false }

def beginIssue (s : State) (a : Agent) : Begin :=
  let s := { s with cur := a }
  if !canIssue s a then .done s
  else
    match s.thread? a with
    | none => .done s
    | some t =>
      match fetch s a t with
      | .error i => .done (takeTrap (fetchWalked s a i) a 0 i)
      | .ok (w, s) =>
        if t.lateDue then .done (takeTrap s a w (Trap.all cECCU 0 0))
        else .word w ((takeEngine s a).modThread a fun t => t.begin a (s.lanes a) w)

/-! ### After an issue -/

/-- The word did not issue: it waits, and issues again at its pc. -/
def heldBack (t u : Thread) : Bool :=
  u.pc = t.pc &&
    match u.wait with
    | .tile | .queue | .batch | .pcur | .own => true
    | .clause => u.clause.all ClauseWait.redo
    | _ => false

/-- The windows of the first `k` outstanding results after one more word has issued (R23). -/
def closeWindows (k : Nat) (l : List Outstanding) : List Outstanding :=
  ((l.take k).map fun o => { o with window := o.window - 1, opened := true }) ++ l.drop k

/-- The place of a run of registers: vector or scalar, and its first number. -/
def regPlace (o : Opd) : Option (Bool × Nat) :=
  match o with
  | .v _ | .xv _ => some (true, vIdx o)
  | .s _ | .xs _ => some (false, sIdx o)
  | _ => none

/-- Two runs of registers meet. -/
def sharesReg (x y : Opd × Nat) : Bool :=
  match regPlace x.1, regPlace y.1 with
  | some m, some n => m.1 = n.1 && decide (m.2 < n.2 + y.2) && decide (n.2 < m.2 + x.2)
  | none, none => x.1 = y.1
  | _, _ => false

/-- A latch after registers are written: released where one of them is the latched register (R25). -/
def releaseLatch (latch : Option (Opd × Nat)) (written : List (Opd × Nat)) : Option (Opd × Nat) :=
  latch.filter fun x => !written.any (sharesReg x)

/-- The registers that a word has written when it is done: its destination's run, unless a window still holds the result, and
every vector register for `REGRP`, supervisor ones among them (R135). -/
def writtenBy (w : BitVec 96) : List (Opd × Nat) :=
  match fieldsOf w with
  | some f =>
    if opcodeOf w = 0x8A then [(.v 0, 1024), (.xv 0, 8)]
    else if f.la ≠ 0 || [0xA1, 0xA3, 0xCF, 0xD3, 0xD4, 0xD5].contains (opcodeOf w) then []
    else [runAt f.d (vSpans (opcodeOf w) f).1 (sSpans (opcodeOf w) f).1]
  | none => []

/-- The lanes of a word as its guard gives them, whatever its operand codes. -/
def wordLanes (a : Agent) (n : Nat) (t : Thread) (w : BitVec 96) : Mask := activeLanes a n t (guardOf w)

/-- The energy of a word: that of a no-operation where no lane is active (R262). -/
def issueEnergy (s : State) (a : Agent) (t : Thread) (w : BitVec 96) : Nat :=
  if wordLanes a (s.lanes a) t w = 0 then 1 else wordEnergy (opcodeOf w)

/-- The core has issued a word of the agent in this cycle: its slot is taken, and a slice's groups that stood aside for `YH` no
longer do (R26, R147, R189). The next issue slot is that of the next cycle, used or not: at its end no group stands aside any more
(`tickThread`; DESIGN CHOICE, notes/assumptions/84.md). -/
def takeSlot (s0 : State) (a : Agent) (s : State) : State :=
  let c := s0.coreNo a
  let k := s.core c
  match a with
  | .group b g =>
    let i := sliceOf s0 b g
    let aside := (sliceGroups s0 c i).map Prod.fst
    let s := s.setCore c { k with used := i :: k.used }
    { s with threads := s.threads.map fun (x : Agent × Thread) =>
        if x.1 ≠ a && aside.contains x.1 then (x.1, { x.2 with yh := false }) else x }
  | .mstream b => s.setCore c { k with used := 16 :: k.used, turn := (s0.block? b).elim k.turn Block.pos }
  | .phrase _ _ => s

/-- The windows, the latch, the count of R147 and the energy after the word `w` of agent `a`, which issued from `s`. -/
def afterIssue (s : State) (a : Agent) (w : BitVec 96) (s' : State) : State :=
  match s.thread? a, s'.thread? a with
  | some t, some u =>
    if heldBack t u then s'.setThread a { u with yh := false }
    else
      let k := if t.outstanding.length ≤ u.outstanding.length then t.outstanding.length else 0
      let u := { u with outstanding := closeWindows k u.outstanding, latch := releaseLatch u.latch (writtenBy w), ready := 0,
                        issued := true }
      debit ((takeSlot s a s').setThread a u) (s.dieNo a) (s.asidOf a) (issueEnergy s a t w)
  | some t, none => debit (takeSlot s a s') (s.dieNo a) (s.asidOf a) (issueEnergy s a t w)
  | _, _ => s'

/-- A context that waits, has ended or is parked gives up its engine (R208). -/
def releaseEngines (s : State) : State :=
  let off (c : Nat) (x : Nat × PCtx) : Bool :=
    x.2.running && ((s.thread? (.phrase c x.1)).elim true fun t => t.gstate ≠ .active || x.2.transferStopped)
  if s.cores.all fun k => k.2.pctx.all fun x => !off k.1 x then s
  else
    { s with cores := s.cores.map fun (k : Nat × Core) =>
        (k.1, { k.2 with pctx := k.2.pctx.map fun x => (x.1, { x.2 with running := x.2.running && !off k.1 x }) }) }

/-- A group that has issued, or is no longer ready and not withheld, has had its opportunity (R123). A group that its context's
energy quota stops (R364) is not withheld under R147 and stays a ready group, for which the yielding group waits (DESIGN CHOICE,
notes/assumptions/69.md). -/
def pruneYields (s : State) (by' : Option Agent) : State :=
  if s.threads.all fun x => x.2.yieldTo.isEmpty then s
  else
    { s with threads := s.threads.map fun (x : Agent × Thread) =>
        (x.1, { x.2 with yieldTo := x.2.yieldTo.filter fun y => some y ≠ by' && groupReady s y && !withheld s y }) }

/-- A context has ended: the context table names no record for it, and no block of it is left (the end of a context is DEDUCED,
notes/assumptions/77.md). -/
def ctxOver (s : State) (asid : BitVec 16) : Bool := s.ctxRec asid = 0 && s.blocks.all fun b => b.2.asid ≠ asid

/-- Pins last until the end of their context (R160). -/
def dropPins (s : State) : State :=
  let over' (p : Nat × BitVec 16) : Bool := ctxOver s p.2
  if (s.cores.all fun k => !k.2.pins.any over') && s.dies.all fun d => !d.2.pins.any over' then s
  else
    { s with
      cores := s.cores.map fun k => (k.1, { k.2 with pins := k.2.pins.filter fun p => !over' p }),
      dies := s.dies.map fun d => (d.1, { d.2 with pins := d.2.pins.filter fun p => !over' p }) }

/-- What follows every move: the opportunities of R123, the engines of R208, and the end of pins (R160). -/
def tidy (s : State) (by' : Option Agent) : State := dropPins (releaseEngines (pruneYields s by'))

/-- An outcome with its next state changed. -/
def onNext (o : Host.Outcome State Fault Refusal) (g : State → State) : Host.Outcome State Fault Refusal :=
  match o with
  | .next s => .next (g s)
  | .fault f => .fault f
  | .refused r => .refused r

/-- What follows the body of an issued word. -/
def finishIssue (s : State) (a : Agent) (w : BitVec 96) (o : Host.Outcome State Fault Refusal) :
    Host.Outcome State Fault Refusal :=
  onNext o fun s' => tidy (afterIssue s a w s') (some a)

/-! ### Arriving results (R24, R142) -/

/-- The part of an outstanding result that arrives: register `reg`, or every register, in `lanes`; scalar registers and
codebooks with lane 0. -/
def arrivingV (reg : Option Nat) (lanes : Mask) (k : Nat) : Bool :=
  lanes.getLsbD (k % 64) && reg.all fun r => r = regOf k

/-- Writes the arriving part of an outstanding result; the flags come with its last part. -/
def arrive (t : Thread) (idx : Nat) (reg : Option Nat) (lanes : Mask) : Thread :=
  match t.outstanding[idx]? with
  | none => t
  | some o =>
    if o.eccu ≠ 0 then { t with outstanding := t.outstanding.set idx { o with window := 0 } }
    else
      let low := lanes.getLsbD 0
      let w : Writes :=
        { vw := o.vw.filter fun x => arrivingV reg lanes x.1, sw := if low then o.sw else [],
          pw := o.pw.map fun x => (x.1, x.2.1 &&& lanes, x.2.2), kw := if low then o.kw else [] }
      let t := t.applyW w
      let latch := t.latch.filter fun x => !w.meets x
      let o := { o with
        vw := o.vw.filter fun x => !arrivingV reg lanes x.1, sw := if low then [] else o.sw,
        pw := (o.pw.map fun x => (x.1, x.2.1 &&& ~~~lanes, x.2.2)).filter fun x => x.2.1 ≠ 0,
        kw := if low then [] else o.kw }
      if o.vw.isEmpty && o.sw.isEmpty && o.pw.isEmpty && o.kw.isEmpty then
        { t with outstanding := t.outstanding.eraseIdx idx, gst := t.gst ||| o.flags, latch := latch }
      else { t with outstanding := t.outstanding.set idx o, latch := latch }

/-- A register result arrives, wherever the group's record stands; a group that waited on it goes on. -/
def execRegisterResultWrite (a : Agent) (idx : Nat) (reg : Option Nat) (lanes : Mask) (s : State) :
    Host.Outcome State Fault Refusal :=
  match s.thread? a with
  | none => .next s
  | some t =>
    let t := arrive t idx reg lanes
    let s := s.setThread a t
    .next (if t.wait = .dep && !t.awaitsResult then wake s a else s)

/-- A group whose next word has waited 256 cycles on an outstanding register result parks (R142): one whose store is not yet
performed waits on none. -/
def execDepPark (a : Agent) (s : State) : Host.Outcome State Fault Refusal :=
  match a, s.thread? a with
  | .group _ _, some t => .next (if t.gstate = .active && t.awaitsResult && decide (256 ≤ t.depWait) then park s a .dep 0 else s)
  | _, _ => .next s

/-- A `SLEEP` count has run out (R123). -/
def execSleepExpiry (a : Agent) (s : State) : Host.Outcome State Fault Refusal :=
  match s.thread? a with
  | some t => .next (if t.wait = .sleep ∧ t.sleep = 0 ∧ t.gstate ≠ .evicted then wake s a else s)
  | none => .next s

/-! ### Room and swaps (R140, R145, R146); a swap begins in Machine/Launch.lean -/

/-- The bytes of a group's record (R143). -/
def groupRecBytes (n : Nat) : Nat := 4096 + 128 * n

/-- The group stands in the near register file. -/
def inActiveSet (t : Thread) : Bool := t.gstate = .active || t.gstate = .parked

/-- The group stands in the group store. -/
def inStore (t : Thread) : Bool := t.gstate = .pending || t.gstate = .swapped

/-- Free bytes of a core's group store. -/
def storeFree (s : State) (core : Nat) : Nat :=
  (0x200000 - (s.core core).spadShare) -
    ((s.threads.filter fun x =>
      match x.1 with
      | .group _ _ => s.coreNo x.1 = core && inStore x.2
      | _ => false).map fun x => groupRecBytes x.2.nalloc).foldl (· + ·) 0

/-- Positions and registers of a slice's active set that are taken, an incoming group counted. -/
def sliceUse (s : State) (core slice : Nat) : Nat × Nat :=
  let inn := ((tlook slice (s.core core).swaps).bind Swap.inn)
  let l := (sliceGroups s core slice).filter fun x => inActiveSet x.2 || some x.1 = inn
  (l.length, (l.map fun x => x.2.nalloc).foldl (· + ·) 0)

/-- A group of allocation `n` fits once `out` positions and `regs` registers are given up. -/
def roomFor (use : Nat × Nat) (n out regs : Nat) : Bool := decide (use.1 + 1 ≤ 8 + out) && decide (use.2 + n ≤ 1024 + regs)

/-- The better of two groups by a measure, the first at equality. -/
def bestBy (m : Agent × Thread → Nat) (l : List (Agent × Thread)) : Option (Agent × Thread) :=
  l.foldl
    (fun (acc : Option (Agent × Thread)) x =>
      match acc with
      | none => some x
      | some y => if m y < m x then some x else acc) none

/-- The oldest of the groups of highest effective priority. -/
def bestPending (l : List (Agent × Thread)) : Option (Agent × Thread) :=
  let top := (l.map fun x => x.2.effPrio).foldl max 0
  let age := (l.map fun x => x.2.age).foldl max 0
  bestBy (fun x => age - x.2.age) (l.filter fun x => x.2.effPrio = top)

/-- A group that may leave for `inn`: parked, or one whose last word was a `YIELD` (R123), whose departure gives the room, with place
for it in the group store. -/
def mayLeave (s : State) (core slice : Nat) (inn x : Agent × Thread) : Bool :=
  (x.2.gstate = .parked || x.2.gstate = .active && x.2.yielding) &&
    roomFor (sliceUse s core slice) inn.2.nalloc 1 x.2.nalloc &&
    decide (groupRecBytes x.2.nalloc ≤ storeFree s core + groupRecBytes inn.2.nalloc)

/-- Sets a swap of a slice. -/
def setSwap (s : State) (core slice : Nat) (w : Option Swap) : State :=
  let k := s.core core
  match w with
  | some w => s.setCore core { k with swaps := tput slice w k.swaps }
  | none => s.setCore core { k with swaps := tdel slice k.swaps }

/-- A swap completes: the incoming group is in the active set (R145). -/
def execSwapComplete (core slice : Nat) (s : State) : Host.Outcome State Fault Refusal :=
  match tlook slice (s.core core).swaps with
  | none => .next s
  | some w =>
    let s := setSwap s core slice none
    match w.inn with
    | none => .next s
    | some a =>
      .next (s.modThread a fun t =>
        { t with latch := none, gstate := if t.gstate = .pending then .active else if t.gstate = .swapped then .parked else t.gstate })

/-! ### Movements of cached data, and errors -/

/-- A number of a field raised by one, at its largest value kept (R328). -/
def saturate (v : Dword) (lo n : Nat) : Dword :=
  if dbits v lo n = 2 ^ n - 1 then v else v + (1#64 <<< lo)

/-- The lowest byte of a line of a cache is pinned with its line. -/
def pinnedL1 (s : State) (core line : Nat) : Bool := (s.core core).pins.any fun x => x.1 = line

/-- A soft error (R327): a correctable one is counted; an uncorrectable one is counted, raises the error interrupt and poisons
its unit. -/
def softError (s : State) (d : Nat) (u : Option ErrUnit) : State :=
  let count (lo n : Nat) (s : State) : State := s.setDie d { s.die d with errcnt := saturate (s.die d).errcnt lo n }
  let poison (l : Nat) (s : State) : State := if s.badLines.contains l then s else { s with badLines := s.badLines ++ [l] }
  match u with
  | none => count 0 32 s
  | some (.line l) => poison l (raiseInt d 4 (count 48 16 s))
  | some (.l1Line c l) => if s.holds (.l1 c) l && dieOfCore c = d then poison l (raiseInt d 4 (count 32 16 s)) else s
  | some (.reg a b) => (raiseInt d 4 (count 32 16 s)).modThread a fun t => { t with bad := b :: t.bad }
  | some (.granule b k) =>
    let s := raiseInt d 4 (count 32 16 s)
    match s.block? b with
    | some x => s.setBlock b { x with badSlots := k :: x.badSlots }
    | none => s

/-- An uncorrectable codeword on an up port is counted (R380). -/
def codeword (port : Nat) (s : State) : State :=
  let w := tget 0 port s.sys.portstat
  if port < 16 ∧ w.getLsbD 63 then
    { s with sys := { s.sys with
        portstat := tset 0 port ((w &&& 0xFFFFFFFF00000000#64) ||| ((w.setWidth 32 + 1 : Word).setWidth 64)) s.sys.portstat } }
  else s

/-- A new split of a compute core's store, which holds while the core has no block (R149). -/
def storeSplit (core units : Nat) (s : State) : State :=
  if 1536 ≤ core ∨ 32 < units ∨ s.blocks.any fun x => x.2.resident && x.2.core = core then s
  else s.setCore core { s.core core with spadShare := 65536 * units }

/-- A move that no row of the table names. -/
def quietMove (m : Move) (s : State) : State :=
  match m with
  | .l1Forward c l => s.forwardL1 c fun p => lineOf p = l
  | .l1Drop c l => if pinnedL1 s c l then s else (s.dropCleanL1 c fun p => lineOf p = l).purgeL1 c
  | .rdcForward d l => s.writeBackRdc d fun p => lineOf p = l
  | .rdcDrop d l => (s.dropCleanRdc d fun p => lineOf p = l).purgeRdc d
  | .l1Fill c l =>
    let t := s.tagOf (.l1 c) l
    if s.holds (.l1 c) l then fillLine s c l false { ret := t.ret, below := t.ret, noL1 := false, cidx := t.owner } else s
  | .rdcFill d l => if s.holds (.rdc d) l then (unitsOf (128 * l) 128).foldl (fun u p => u.fetchBelow d p p 8) s else s
  | .tlbDrop b i => s.setTlb b ((s.tlb b).eraseIdx i)
  | .softError d u => softError s d u
  | .access a i => accessMove a i s
  | .postStore a => answerRemote (postWrite (s.coreNo a)) a s
  | .posted i => performOne i s
  | .codeword p => codeword p s
  | .storeSplit c n => storeSplit c n s
  | .issue _ | .issueParts _ | .event _ | .ringRead _ | .deviceLock .. => s

/-! ### What moves when the agenda is empty -/

/-- A result whose window has closed, to be written next. -/
def dueResult (s : State) : Option Agent := (s.threads.find? fun x => x.2.resultDue).map Prod.fst

/-- The index of the first closed window of a thread. -/
def dueIndex (t : Thread) : Nat := t.outstanding.findIdx fun o => o.window = 0 && o.eccu = 0

/-- The die whose cycle ends where nothing else moves: of the dies of placed agents one whose clock is lowest, else the system
die. -/
def idleDie (s : State) : Nat :=
  let ds := ((s.threads.map Prod.fst).filter (placed s)).map s.dieNo
  (ds.foldl
    (fun (acc : Option Nat) d =>
      match acc with
      | none => some d
      | some e => if (s.die d).clk.toNat < (s.die e).clk.toNat then some d else acc) none).getD 16

/-- A die whose level is to be updated before anything issues there (R263). -/
def dueLevel (s : State) : Option Nat := (s.dies.find? fun d => d.2.levelDue).map Prod.fst

/-- The move that follows where the agenda names none: the boot, else a due update of a level, else an access that a word has left,
else the first agent that may issue, else a due register result, else the end of a cycle, which frees the issue slots
(notes/assumptions/1.md). -/
def idleMove (s : State) : Move :=
  if !s.sys.booted then .event .boot
  else
    match dueLevel s, (s.threads.find? fun x => x.2.job.isSome).map Prod.fst with
    | some d, _ => .event (.levelUpdate d)
    | none, some a => .access a 0
    | none, none =>
    match (s.threads.map Prod.fst).find? (canIssue s) with
    | some a => .issue a
    | none =>
      match dueResult s with
      | some a => .event (.registerResultWrite a ((s.thread? a).elim 0 dueIndex) none (BitVec.allOnes 64))
      | none => .event (.allowanceRefill (idleDie s))

/-- The next move and the state with it taken off the agenda. -/
def nextMove (s : State) : Move × State :=
  match s.agenda with
  | [] => (idleMove s, s)
  | m :: r => (m, { s with agenda := r })

/-- The row is an event: no agent issues it as a word. -/
def isEvent (i : Instr) : Bool :=
  match i with
  | .reservedOpcode _ => false
  | _ => (instrForm i).isNone

end Sys2Proof.Machine
end

