-- ==== Sys2Proof/Machine/Launch.lean ====
section
/-!
DEFINITION. Kernels, grids and blocks: their records (R343, R344), why a grid fails to launch (R346), the room of a core
(R149, R150, R177, R277), a block at launch (R345, R59, R188, R209), and the ends of blocks and grids (R170, R347, R348).
-/
namespace Sys2Proof.Machine

/-! ### Records (R343, R344) -/

/-- The bytes of a grid record, of its kernel descriptor and of its tile initialisation table, as far as they could be
named. -/
structure GridSrc where
  rec' : List Byte
  kern : List Byte
  table : List Byte
  deriving DecidableEq, Repr

/-- A field of record bytes is zero. -/
def zeroIn (bs : List Byte) (off n : Nat) : Bool := recNat bs off n = 0

/-- The grid record keeps its table (R344). -/
def gridRecOk (bs : List Byte) : Bool :=
  decide (1 ≤ recNat bs 0x08 6) && zeroIn bs 0x0E 2 && decide (1 ≤ recNat bs 0x10 1 % 64) &&
    decide (recNat bs 0x10 1 % 64 ≤ 32) && decide (recNat bs 0x10 8 < 128) && recNat bs 0x20 8 % 8 = 0 && zeroIn bs 0x28 88

/-- The tile table of a descriptor is named legally. -/
def kernTableOk (bs : List Byte) : Bool :=
  decide (recNat bs 0x28 4 ≤ 64) && (recNat bs 0x20 8 ≠ 0 || recNat bs 0x28 4 = 0)

/-- The kernel descriptor keeps R343. -/
def kernOk (bs : List Byte) : Bool :=
  let w := recNat bs 0x18 4
  decide (bs.length = 128) && recNat bs 0 8 % 4 = 0 && decide (1 ≤ w % 64) && decide (w % 64 ≤ 32) &&
    decide (w / 2048 % 128 ≤ 63) && decide (16 ≤ w / 2 ^ 18 % 4096) && decide (w / 2 ^ 18 % 4096 ≤ 2048) && decide (w < 2 ^ 30) && kernTableOk bs &&
    zeroIn bs 0x2C 84

/-- The entries of a tile initialisation table: tile number and `TDEF` operand. -/
def tableEntries (bs : List Byte) : List (Nat × Word) :=
  (List.range (bs.length / 8)).map fun i => (recNat bs (8 * i) 4, BitVec.ofNat 32 (recNat bs (8 * i + 4) 4))

/-- A parsed descriptor. The window is rounded up to 256 bytes (R149). -/
def kernelOf (bs table : List Byte) : Kernel :=
  let w := recNat bs 0x18 4
  { entry := BitVec.ofNat 64 (recNat bs 0 8), mstream := BitVec.ofNat 64 (recNat bs 8 8),
    access := BitVec.ofNat 64 (recNat bs 0x10 8), nalloc := 32 * (w % 64), ngrp := w / 64 % 32 + 1, nt := w / 2048 % 128 + 1,
    ns := w / 2 ^ 18 % 4096, spad := (recNat bs 0x1C 4 + 255) / 256 * 256, tiles := tableEntries table }

/-- Reads a descriptor and its table through a translation buffer, by accesses of a class. -/
def readKernel (s : State) (b : TlbAt) (asid : BitVec 16) (va : Nat) (c : Cls := Cls.plain)
    (see : Before := fun s _ _ => s) : Except (Cause × Nat) ((List Byte × List Byte) × State) :=
  if va % 128 ≠ 0 then .ok (([], []), s)
  else
    match s.readWords b asid false va 16 c see with
    | .error e => .error e
    | .ok (k, s) =>
      if kernTableOk k ∧ recNat k 0x28 4 ≠ 0 then
        let va := recNat k 0x20 8
        match s.readUnits b asid false (unitOf va) va c see (8 / unitOf va * recNat k 0x28 4) with
        | .error e => .error e
        | .ok (t, s) => .ok ((k, t), s)
      else .ok ((k, []), s)

/-- Reads a grid record, its descriptor and its table. -/
def readGrid (s : State) (b : TlbAt) (asid : BitVec 16) (va : Nat) (see : Before := fun s _ _ => s) :
    Except (Cause × Nat) (GridSrc × State) :=
  match s.readWords b asid false va 32 Cls.plain see with
  | .error e => .error e
  | .ok (r, s) =>
    match readKernel s b asid (recNat r 0 8) Cls.plain see with
    | .error e => .error e
    | .ok ((k, t), s) => .ok ({ rec' := r, kern := k, table := t }, s)

/-- The tiles of a block at launch, defined in ascending number as by `TDEF`; none where one fails (R184). -/
def initTiles (k : Kernel) (b : Block) : Option Block :=
  (List.range k.nt).foldl
    (fun acc n =>
      (k.tiles.filter fun x => x.1 = n).foldl
        (fun acc x =>
          match acc with
          | none => none
          | some b =>
            if (b.tile n).st ≠ .empty then none
            else (tdefTile (x.2.setWidth 64)).bind fun t => defineTile b n t)
        acc)
    (if k.tiles.all fun x => decide (x.1 < k.nt) then some b else none)

/-! ### A block at launch -/

/-- A block of a grid on a core, before its tiles are defined: every barrier, special register and window at its launch
value (R67, R167, R178, R219). -/
def Block.launch (grid : Nat) (g : Grid) (blkno : Nat) (core pos base save ctx : Nat) : Block :=
  { grid := grid, blkno := BitVec.ofNat 64 blkno, asid := g.asid, asidHi := 0, core := core, pos := pos, base := base, resident := true,
    ngrp := g.kernel.ngrp, notEnded := fullMask g.kernel.ngrp, inMem := 0, nalloc := g.kernel.nalloc,
    spadBytes := g.kernel.spad, hasMs := g.kernel.mstream ≠ 0, hasAp := g.kernel.access ≠ 0, msEnded := false,
    apEnded := false, apCtx := ctx, tol := 0, vc := 32, tctl := 0, bars := List.replicate 16 (Barrier.launch g.kernel.ngrp), barDone := 0,
    nt := g.kernel.nt, ns := g.kernel.ns, wb := 0, ws := 0, tiles := [], slots := [], badSlots := [], cbs := [], spad := [],
    ports := [], batches := [], mq := none, save := save, saved := [], requests := [],
    physical := false }

/-- The lanes that a group of a grid launches, and the helper lanes among them (R345, R273). -/
def launchLanes (g : Grid) : Mask × Mask :=
  match g.shade with
  | some h => (h.launch, h.helpers)
  | none =>
    let all := if g.hq then 4 * ((g.nlane + 3) / 4) else g.nlane
    (fullMask all, fullMask all &&& ~~~fullMask g.nlane)

/-- Scalar registers from S0 on. -/
def Thread.withArgs (t : Thread) (l : List Dword) : Thread :=
  (l.zip (List.range l.length)).foldl (fun u x => u.setS x.2 x.1) t

/-- A group of a grid as it is placed. -/
def groupAtLaunch (g : Grid) (age : Nat) (st : GState) : Thread :=
  let m := launchLanes g
  let t := (Thread.launch g.kernel.entry g.kernel.nalloc m.1 m.2).withArgs g.args
  let t := match g.shade with
    | some h => h.vregs.foldl (fun (u : Thread) (x : Nat × Word) => u.setV (x.1 / 64) (x.1 % 64) x.2) t
    | none => t
  { t with gstate := st, age := age, prio := g.prio, vdepth := g.vdepth }

/-- A stream without lanes as it starts. -/
def streamAtLaunch (g : Grid) (entry : Dword) : Thread :=
  { (Thread.launch entry 0 1 0).withArgs g.args with prio := g.prio, vdepth := g.vdepth }

/-! ### The room of a core (R149, R150, R177) -/

/-- The resident blocks of a core. -/
def residents (s : State) (core : Nat) : List Block :=
  (s.blocks.filter fun x => x.2.resident && x.2.core = core).map Prod.snd

/-- The lowest start of `n` free places among `size`, the taken ranges given. -/
def freeRun (taken : List (Nat × Nat)) (size n : Nat) : Option Nat :=
  let fits (b : Nat) : Bool := decide (b + n ≤ size) && taken.all fun r => decide (r.1 + r.2 ≤ b) || decide (b + n ≤ r.1)
  (0 :: taken.map fun r => r.1 + r.2).filter fits |>.min?

/-- What a placement has counted so far: positions, registers and resident groups of each slice, free group store, and where
each group stands. -/
structure Tally where
  use : List (Nat × Nat)
  held : List Nat
  store : Nat
  sts : List GState
  ok : Bool
  deriving DecidableEq, Repr

/-- The tally of a core as it stands. -/
def Tally.of (s : State) (core : Nat) : Tally :=
  { use := (List.range 16).map (sliceUse s core),
    held := (List.range 16).map fun i => ((sliceGroups s core i).filter fun x => inActiveSet x.2 || inStore x.2).length,
    store := storeFree s core, sts := [], ok := true }

/-- Counts one group of allocation `n` on a slice; `ready` tells that it may be `ACTIVE`. -/
def Tally.add (y : Tally) (slice n : Nat) : Tally :=
  let u := y.use.getD slice (0, 0)
  let h := y.held.getD slice 0
  let y := { y with held := y.held.set slice (h + 1), ok := y.ok && decide (h < 48) }
  if roomFor u n 0 0 then { y with use := y.use.set slice (u.1 + 1, u.2 + n), sts := y.sts ++ [.active] }
  else if groupRecBytes n ≤ y.store then { y with store := y.store - groupRecBytes n, sts := y.sts ++ [.pending] }
  else { y with ok := false, sts := y.sts ++ [.pending] }

/-- Where the groups of a block go on a core with slice base `base`; none without room. -/
def groupRoom (s : State) (core base n ngrp : Nat) : Option (List GState) :=
  let y := (List.range ngrp).foldl (fun (y : Tally) g => y.add ((base + g) % 16) n) (Tally.of s core)
  if y.ok then some y.sts else none

/-- Where a block goes on a core: placement position, access context, tile window, and its groups' states. -/
structure Room where
  pos : Nat
  ctx : Nat
  wb : Nat
  ws : Nat
  sts : List GState
  deriving DecidableEq, Repr

/-- The room for a block of a kernel on a core, if there is any. -/
def roomOn (s : State) (core base : Nat) (k : Kernel) : Option Room :=
  let rs := residents s core
  if 1536 ≤ core ∨ 16 ≤ base ∨ (s.core core).gating ≠ .on ∨
      (s.core core).spadShare < (rs.map fun r => r.spadBytes).foldl (· + ·) k.spad then none
  else
    match (List.range 16).find? fun p => rs.all fun r => r.pos ≠ p,
      (List.range 16).find? fun x => (tlook x (s.core core).pctx).isNone,
      freeRun (rs.map fun r => (r.wb, r.nt)) 256 k.nt, freeRun (rs.map fun r => (r.ws, r.ns)) 2048 k.ns,
      groupRoom s core base k.nalloc k.ngrp with
    | some p, some x, some wb, some ws, some sts => some { pos := p, ctx := x, wb := wb, ws := ws, sts := sts }
    | _, _, _, _, _ => none

/-- The first save area of a context that no block holds (R346); the kernel's first block, which runs untranslated, holds none. -/
def freeSave (s : State) (asid : BitVec 16) : Option Nat :=
  (List.range ((s.ctxWord asid 0x58).toNat % 65536)).find? fun i => s.blocks.all fun x => x.2.physical || x.2.asid ≠ asid || x.2.save ≠ i

/-! ### Save areas (R361) -/

def alignUp (x n : Nat) : Nat := (x + n - 1) / n * n

/-- The offsets of the held-clause list, the group records and the scratchpad image in a save area, and its size (R361). -/
def saveLayout (g n w ns : Nat) : Nat × Nat × Nat × Nat :=
  let c := alignUp (0x1B400 + 0x400 + 256 * ns) 4096
  let r := alignUp (c + 16 + 4096 * g) 4096
  let p := alignUp (r + g * groupRecBytes n) 4096
  (c, r, p, p + w)

/-- Where a block's save area begins (R346, R361). -/
def saveBase (s : State) (k : Block) : Nat := (s.ctxWord k.asid 0x48).toNat + k.save * (s.ctxWord k.asid 0x50).toNat

/-- The offsets of a block's images (R361). -/
def Block.layout (k : Block) : Nat × Nat × Nat × Nat := saveLayout k.ngrp k.nalloc k.spadBytes k.ns

/-- The buffer through which a core reaches a save area. -/
def saveTlb (k : Block) : TlbAt := .core k.core

/-! ### Placement -/

/-- A grid of a source before it runs: its record's and descriptor's values, in a context on some dies. -/
def gridOf (src : GridSrc) (addr : Nat) (asid dies : BitVec 16) (prio : BitVec 3) (age : Nat) : Grid :=
  let r := src.rec'
  { recAddr := BitVec.ofNat 64 addr, asid := asid, dies := dies, prio := prio, queue := none, packet := 0, age := age,
    kernel := kernelOf src.kern src.table, nblk := recNat r 0x08 6, nlane := recNat r 0x10 1 % 64,
    hq := (recNat r 0x10 1) / 64 % 2 = 1, signal := BitVec.ofNat 64 (recNat r 0x20 8),
    args := (List.range 16).map fun i => BitVec.ofNat 64 (recNat r (0x80 + 8 * i) 8), placed := 0, endedBlocks := 0,
    parent := none, poolRec := none, shade := none, terminated := false, stage := 0, stalled := false, status := 0,
    vdepth := 0 }

/-- Adds a grid to the package and gives its number. -/
def addGrid (s : State) (g : Grid) : Nat × State :=
  (s.nextGrid, { s with grids := tput s.nextGrid g s.grids, nextGrid := s.nextGrid + 1, nextAge := s.nextAge + 1 })

def State.setGrid (s : State) (n : Nat) (g : Grid) : State := { s with grids := tput n g s.grids }

/-- Places the next block of grid `n` on a core at room `r` with save area `save`. A shading group observes what its view's issue
released (R287). -/
def placeBlock (s : State) (n : Nat) (g : Grid) (core base save : Nat) (r : Room) : State :=
  let s := if g.shade.isSome then s.acquire core .pkg else s
  let b := s.nextBlock
  let k := { Block.launch n g g.placed core r.pos base save r.ctx with wb := r.wb, ws := r.ws }
  let k := (initTiles g.kernel k).getD k
  let gs : List (Agent × Thread) := (r.sts.zip (List.range g.kernel.ngrp)).map fun x =>
    (Agent.group b x.2, groupAtLaunch g (s.nextAge + x.2) x.1)
  let ms : List (Agent × Thread) := if k.hasMs then [(.mstream b, streamAtLaunch g g.kernel.mstream)] else []
  let ap : List (Agent × Thread) := if k.hasAp then [(.phrase core r.ctx, streamAtLaunch g g.kernel.access)] else []
  let s := { s with threads := s.threads ++ gs ++ ms ++ ap, nextBlock := b + 1, nextAge := s.nextAge + g.kernel.ngrp }
  let s := (s.setBlock b k).setGrid n { g with placed := g.placed + 1 }
  if k.hasAp then
    let c := s.core core
    let x : PCtx :=
      { launched := false, block := b, issuer := 0, batch := 0, status := 0, slots := [], last := none, nextOrder := 0, running := false, engine := 0 }
    s.setCore core { c with pctx := tput r.ctx x c.pctx }
  else s

/-- The grid waits for placement of a block. -/
def Grid.waits (g : Grid) : Bool := g.stage = 0 && !g.terminated && g.status = 0 && decide (g.placed < g.nblk)

/-- Every earlier grid packet of the same queue has all its blocks placed (R346); child and shading grids stand outside that
order. -/
def inOrder (s : State) (g : Grid) : Bool :=
  match g.parent, g.shade, g.queue with
  | none, none, some q =>
    s.grids.all fun x => !(x.2.parent.isNone && x.2.shade.isNone && x.2.queue = some q && decide (x.2.age < g.age) && x.2.waits)
  | _, _, _ => true

/-- A gang that drains its dies forbids the placement of other work there (R359). -/
def drained (s : State) (die : Nat) : Bool := s.sys.queues.any fun q => q.2.drain.getLsbD die

/-- Levels of views and the die's reserves for them (R277). -/
def Die.rsvn (x : Die) (l : Nat) : Nat := dbits x.viewcfg (16 * l) 8
def Die.rsvg (x : Die) (l : Nat) : Nat := dbits x.viewcfg (16 * l - 8) 8

/-- The groups of a level whose blocks stand on a die's cores. -/
def levelGroupsOn (s : State) (die l : Nat) : List (Agent × Thread) :=
  s.threads.filter fun x =>
    match x.1 with
    | .group b _ => x.2.vdepth.toNat = l && s.dieNo x.1 = die && (s.block? b).any Block.resident
    | _ => false

def levelGroups (s : State) (die l : Nat) : Nat := (levelGroupsOn s die l).length

/-- The group's registers stand in the near register file, or are on their way there. -/
def nearHeld (s : State) (x : Agent × Thread) : Bool :=
  inActiveSet x.2 || (s.core (s.coreNo x.1)).swaps.any fun w => w.2.inn = some x.1

/-- The groups of a level that stand in its reserve, as many as it has units: those in the near register file first. -/
def inUnits (s : State) (die l : Nat) : List (Agent × Thread) :=
  let g := levelGroupsOn s die l
  ((g.filter (nearHeld s)) ++ g.filter fun x => !nearHeld s x).take ((s.die die).rsvg l)

/-- The room of a core that the units of R277 draw on: block places, the taken runs of tile registers and tile slots, free group
store, and the positions and registers taken in each slice. -/
structure CoreRoom where
  places : Nat
  tiles : List (Nat × Nat)
  slots : List (Nat × Nat)
  store : Nat
  slices : List (Nat × Nat)
  deriving DecidableEq, Repr

def CoreRoom.of (s : State) (core : Nat) : CoreRoom :=
  let rs := residents s core
  { places := 16 - rs.length, tiles := rs.map fun r => (r.wb, r.nt), slots := rs.map fun r => (r.ws, r.ns),
    store := storeFree s core, slices := (List.range 16).map (sliceUse s core) }

/-- The same of a core that nothing has changed. -/
def CoreRoom.fresh : CoreRoom :=
  { places := 16, tiles := [], slots := [], store := 0x200000 - Core.reset.spadShare, slices := List.replicate 16 (0, 0) }

/-- Takes one unit for a group of allocation `n`: `n` registers and a position, a record, a block without a window, 4 tile registers
and 64 tile slots. -/
def CoreRoom.takeUnit (r : CoreRoom) (n : Nat) : Option CoreRoom :=
  if r.places = 0 ∨ r.store < groupRecBytes n then none
  else
    match freeRun r.tiles 256 4, freeRun r.slots 2048 64, r.slices.findIdx? fun u => roomFor u n 0 0 with
    | some t, some w, some i =>
      let u := r.slices.getD i (0, 0)
      some { places := r.places - 1, tiles := (t, 4) :: r.tiles, slots := (w, 64) :: r.slots, store := r.store - groupRecBytes n,
             slices := r.slices.set i (u.1 + 1, u.2 + n) }
    | _, _, _ => none

/-- Takes up to `k` units of a core, and tells how many are left to find. -/
def CoreRoom.takeUnits (n : Nat) : Nat → CoreRoom → Nat × CoreRoom
  | 0, r => (0, r)
  | k + 1, r =>
    match r.takeUnit n with
    | some r => r.takeUnits n k
    | none => (k + 1, r)

/-- Takes `k` units of several cores in turn. -/
def takeAcross (n : Nat) : Nat → List CoreRoom → Nat × List CoreRoom
  | k, [] => (k, [])
  | k, r :: l =>
    let x := r.takeUnits n k
    let y := takeAcross n x.1 l
    (y.1, x.2 :: y.2)

/-- Keeps what a group that stands in a unit of its level does not hold itself: a position and registers in its slice, and a record in
the group store; none where they are not free. An ended group, whose block is not yet over, holds neither. -/
def CoreRoom.keepFor (s : State) (unit : Nat) (x : Agent × Thread) (r : CoreRoom) : Option CoreRoom :=
  let n := if x.2.gstate = .ended then unit else x.2.nalloc
  let i := match x.1 with
    | .group b g => sliceOf s b g
    | _ => 0
  let u := r.slices.getD i (0, 0)
  let m := if inStore x.2 then 0 else groupRecBytes n
  if r.store < m ∨ (!nearHeld s x && !roomFor u n 0 0) then none
  else some { r with store := r.store - m, slices := if nearHeld s x then r.slices else r.slices.set i (u.1 + 1, u.2 + n) }

/-- The rooms of a die's cores, with their numbers; those that nothing has changed have none. -/
def dieRooms (s : State) (die : Nat) : List (Nat × CoreRoom) :=
  let listed := (s.cores.map Prod.fst ++ s.blocks.map fun b => b.2.core).eraseDups.filter fun c => decide (c / 96 = die)
  (listed.map fun c => (c, CoreRoom.of s c)) ++ List.replicate (96 - listed.length) (1536, CoreRoom.fresh)

/-- Keeps the parts of a level's units that its groups do not hold; the level is named where one has no room. -/
def keepUnits (s : State) (die : Nat) (acc : List Nat × List (Nat × CoreRoom)) (l : Nat) : List Nat × List (Nat × CoreRoom) :=
  (inUnits s die l).foldl
    (fun acc x =>
      match acc.2.find? fun r => r.1 = s.coreNo x.1 with
      | none => acc
      | some r =>
        match r.2.keepFor s (32 * (s.die die).rsvn l) x with
        | some r' => (acc.1, acc.2.map fun y => if y.1 = r.1 then (y.1, r') else y)
        | none => (acc.1 ++ [l], acc.2)) acc

/-- The levels of views whose reserve a die cannot hold beside those of deeper levels (R277): what the groups in its units do not
hold, in their slices, and then the units that no group stands in, found core by core. -/
def shortLevels (s : State) (die : Nat) : List Nat :=
  let x := s.die die
  let kept := [3, 2, 1].foldl (keepUnits s die) ([], dieRooms s die)
  ([3, 2, 1].foldl
    (fun (acc : List Nat × List CoreRoom) l =>
      let y := takeAcross (32 * x.rsvn l) (x.rsvg l - (inUnits s die l).length) acc.2
      (if y.1 = 0 then acc.1 else acc.1 ++ [l], y.2)) (kept.1, kept.2.map Prod.snd)).1

/-- Room of the die may go to a group of a level, `t` being the state with it: the reserves of the other levels stay whole, or the
group takes of its own level's reserve and breaks none that was whole; and where its own reserve was whole, the group finds its unit
whole, near registers among it (R277, R279). How groups are counted into reserves is a DESIGN CHOICE, notes/assumptions/60.md. -/
def reserveKept (s t : State) (die level : Nat) : Bool :=
  let lack (u : State) : List Nat := (shortLevels u die).filter fun l => l ≠ level
  ((lack t).isEmpty ||
      level ≠ 0 && decide (levelGroups t die level ≤ (t.die die).rsvg level) && (lack t).all fun l => (lack s).contains l) &&
    (!(shortLevels t die).contains level || (shortLevels s die).contains level)

/-- The levels other than `level` whose reserve is whole in `s` and not in `t`. -/
def reserveBroken (s t : State) (die level : Nat) : Bool :=
  (shortLevels t die).any fun l => l ≠ level && !(shortLevels s die).contains l

/-- The `PENDING` groups that may enter in turn: the one of highest effective priority, the oldest among equals (R146); and where it
finds no room, the best of another level of views, whose room is its own (R277, R279; notes/assumptions/60.md). -/
def inTurn : Nat → List (Agent × Thread) → List (Agent × Thread)
  | 0, _ => []
  | n + 1, l =>
    match bestPending l with
    | none => []
    | some x => x :: inTurn n (l.filter fun y => y.2.vdepth ≠ x.2.vdepth)

/-- The swap that brings in a `PENDING` group, if there is room: a free position, or that of a yielding group or of the `PARKED` group
that has waited longest. It takes no room that is kept for other levels of views (R277). A group that gives its place has given it; what
it yields to stays (R123). -/
def swapIn (s : State) (core slice : Nat) (i : Agent × Thread) : Option State :=
  let die := dieOfCore core
  let level := i.2.vdepth.toNat
  let t := setSwap s core slice (some { inn := some i.1, out := none })
  if roomFor (sliceUse s core slice) i.2.nalloc 0 0 && reserveKept s t die level then some t
  else
    let l := (sliceGroups s core slice).filter (mayLeave s core slice i)
    match (l.find? fun x => x.2.gstate = .active).or (bestBy (fun x => x.2.waited) l) with
    | none => none
    | some o =>
      let u := s.modThread o.1 fun t =>
        { t with gstate := if t.gstate = .active then .pending else .swapped, latch := none, yielding := false }
      let u := setSwap u core slice (some { inn := some i.1, out := some o.1 })
      if reserveBroken s u die level then none else some u

/-- A swap begins (R146): the first of the slice's `PENDING` groups in turn that has room enters. Else nothing happens. -/
def execGroupSwap (core slice : Nat) (s : State) : Host.Outcome State Fault Refusal :=
  if (tlook slice (s.core core).swaps).isSome then .next s
  else
    let l := (sliceGroups s core slice).filter fun x => x.2.gstate = .pending
    .next (((inTurn 4 l).findSome? (swapIn s core slice)).getD s)

/-- Residents of a slice that hold a record in the near register file or the group store. -/
def sliceHeld (s : State) (core slice : Nat) : Nat :=
  ((sliceGroups s core slice).filter fun x => inActiveSet x.2 || inStore x.2).length

/-- The rooms for a block of a kernel on a core, those at slice bases whose slices hold the fewest groups first. -/
def evenRooms (s : State) (core : Nat) (k : Kernel) : List (Nat × Room) :=
  let load (b : Nat) : Nat := ((List.range k.ngrp).map fun g => sliceHeld s core ((b + g) % 16)).foldl (· + ·) 0
  (sortLanes (fun b => (load b : Int)) (List.range 16)).filterMap fun b => (roomOn s core b k).map fun r => (b, r)

/-- Places the next block of grid `n` on the first core of its dies that has room and leaves the die's reserve; none where there is
no such core, or no save area. -/
def placeNow (s : State) (n : Nat) (g : Grid) : Option State :=
  (freeSave s g.asid).bind fun i =>
    ((diesOf g.dies).flatMap fun d => (List.range 96).map fun c => 96 * d + c).findSome? fun core =>
      if drained s (core / 96) then none
      else
        (evenRooms s core g.kernel).findSome? fun x =>
          let s' := placeBlock s n g core x.1 i x.2
          if reserveKept s s' (core / 96) g.vdepth.toNat then some s' else none

/-- Places `k` blocks of grid `n` from room that is free now; none where one has no room. -/
def placeAll (s : State) (n : Nat) : Nat → Option State
  | 0 => some s
  | k + 1 => ((s.grid? n).bind fun g => placeNow s n g).bind fun s => placeAll s n k

/-- The package with nothing on its cores: scratchpad shares and reserves stand. -/
def State.emptied (s : State) : State :=
  { s with threads := [], blocks := [], grids := [], cores := s.cores.map fun c => (c.1, { Core.reset with spadShare := c.2.spadShare }),
           sys := { s.sys with queues := [] } }

/-- `n` blocks of a grid could stand on its dies at once, were they empty (R346, R359). -/
def placeable (s : State) (g : Grid) (n : Nat) : Bool := (placeAll (s.emptied.setGrid 0 g) 0 n).isSome

/-! ### Why a grid fails to launch (R346) -/

/-- The greatest scratchpad share of a core of some dies: a core that nothing has changed has the default. -/
def maxShare (s : State) (dies : BitVec 16) : Nat :=
  let l := s.cores.filter fun c => decide (c.1 < 1536) && dies.getLsbD (c.1 / 96)
  let d := if l.length < 96 * (diesOf dies).length then Core.reset.spadShare else 0
  (l.map fun c => c.2.spadShare).foldl max d

/-- The detail of the launch failure of a grid, if it fails (R346); a `gang` grid needs room for all its blocks at once (R359). -/
def launchFailure (s : State) (src : GridSrc) (asid dies : BitVec 16) (gang : Bool) : Option Nat :=
  let k := kernelOf src.kern src.table
  let g := gridOf src 0 asid dies 0 0
  if !gridRecOk src.rec' then some 4
  else if !kernOk src.kern || (tableEntries src.table).any (fun x => decide (64 ≤ x.1)) || decide (maxShare s dies < k.spad) then
    some 1
  else if (initTiles k (Block.launch 0 g 0 0 0 0 0 0)).isNone then some 2
  else if (s.ctxWord asid 0x50).toNat < (saveLayout k.ngrp k.nalloc k.spad k.ns).2.2.2 then some 3
  else if !placeable s g (if gang then g.nblk else 1) then some 5
  else none

/-- The status of a failed launch. -/
def failStatus (d : Nat) : BitVec 16 := BitVec.ofNat 16 (3 + 256 * d)

/-! ### The placement of a block (R346) -/

/-- A block of the grid has room on a die now: a core with room, a save area, and the reserves kept. -/
def hasRoom (s : State) (die n : Nat) (g : Grid) : Bool :=
  (freeSave s g.asid).any fun i =>
    (List.range 96).any fun c =>
      (evenRooms s (96 * die + c) g.kernel).any fun x =>
        reserveKept s (placeBlock s n g (96 * die + c) x.1 i x.2) die g.vdepth.toNat

/-- Work on a die in the order of R346: highest priority, then oldest. Work of a level of views does not wait behind work of another
level that finds no room, since the room of its level is its own (R277, R279; DEDUCED, notes/assumptions/60.md). -/
def firstOnDie (s : State) (die n : Nat) (g : Grid) : Bool :=
  s.grids.all fun x =>
    x.1 = n || !x.2.waits || !x.2.dies.getLsbD die || !inOrder s x.2 || decide (x.2.prio < g.prio) ||
      (x.2.prio = g.prio && decide (g.age < x.2.age)) ||
      g.vdepth ≠ 0 && decide (x.2.vdepth ≠ g.vdepth) && !hasRoom s die x.1 x.2

/-- The next block of a grid is placed on a core of its dies that has room, with slice base `base` (R346); else nothing
happens. -/
def execBlockPlacement (grid core base : Nat) (s : State) : Host.Outcome State Fault Refusal :=
  match s.grid? grid with
  | none => .next s
  | some g =>
    let d := core / 96
    if !(s.sys.running && g.waits && decide (d < 16) && g.dies.getLsbD d && inOrder s g && firstOnDie s d grid g) ||
        drained s d then .next s
    else
      match roomOn s core base g.kernel, freeSave s g.asid with
      | some r, some i =>
        let s' := placeBlock s grid g core base i r
        .next (if reserveKept s s' d g.vdepth.toNat then s' else s)
      | _, _ => .next s

/-! ### The end of a block (R170) -/

/-- The programs of a block on its core: queued, running, or stopped. -/
def blockPrograms (s : State) (b : Nat) (k : Block) : Nat :=
  ((s.core k.core).preq.filter fun r => r.block = b).length +
    ((s.core k.core).pctx.filter fun x => x.2.launched && x.2.block = b).length

/-- Every agent of the block has ended, no matrix instruction of it is in progress, and each of its views has arrived or been
withdrawn (R170, R281). -/
def blockOver (s : State) (b : Nat) (k : Block) : Bool :=
  (s.views.all fun x => x.2.block ≠ b || x.2.withdrawn) && k.resident && k.notEnded = 0 && (!k.hasMs || k.msEnded) &&
    (!k.hasAp || k.apEnded) && blockPrograms s b k = 0 &&
    ((s.core k.core).mx.all fun j => j.block ≠ b)

/-- The shaded vertex of a lane (R273). -/
def shadedVertex (t : Thread) (l : Nat) : Vec3 × Word :=
  ({ x := t.getV 0 l, y := t.getV 1 l, z := t.getV 2 l }, t.getV 6 l)

/-- The lane of vertex (column c, row r). -/
def vertexLane (c r : Nat) : Nat := 4 * (4 * (r / 2) + c / 2) + 2 * (r % 2) + c % 2

/-- One shading group of a view has ended. The record of a view that was withdrawn is freed with its last; any other view goes
on to sampling then (R272, R277, R286). -/
def shadeEnded (s : State) (n : Nat) (v : View) : State :=
  let left := v.shadesLeft - 1
  if left = 0 ∧ v.withdrawn then { s with views := tdel n s.views }
  else { s with views := tput n { v with shadesLeft := left, phase := if left = 0 then .sample else v.phase } s.views }

/-- The results of a shading group go to its subgrid (R273): each vertex's are those of the lane at its position at the end, also where a
`REGRP` has moved data between the lanes (DESIGN CHOICE, notes/assumptions/100.md). -/
def collectShade (s : State) (b : Nat) (h : Shade) : State :=
  match tlook h.view s.views, s.thread? (.group b 0) with
  | some v, some t =>
    let sub (x : Sub) : Sub :=
      { x with
        verts := (List.range h.b).flatMap fun r => (List.range h.a).map fun c => shadedVertex t (vertexLane c r),
        done := true }
    let l := (v.subs.zip (List.range v.subs.length)).map fun x => if x.2 = h.sub then sub x.1 else x.1
    shadeEnded s h.view { v with subs := l }
  | _, _ => s

/-- A view is withdrawn: it asks for no leave, and its record is freed once no shading group of it is left (R286). -/
def withdrawView (s : State) (n : Nat) (v : View) : State :=
  let s := withdrawLeave s v.die fun w => match w with
    | .row m => m = n
    | _ => false
  if v.shadesLeft = 0 then { s with views := tdel n s.views }
  else { s with views := tput n { v with withdrawn := true, fault := false } s.views }

/-- The views of a block that goes are withdrawn (R281). -/
def withdrawViews (s : State) (b : Nat) : State :=
  (s.views.filter fun x => x.2.block = b).foldl (fun u x => withdrawView u x.1 x.2) s

/-- Takes a block and its agents out of the package; its grid counts it as ended. -/
def removeBlock (s : State) (b : Nat) (k : Block) : State :=
  let mine (a : Agent) : Bool := match a with
    | .group x _ | .mstream x => x = b
    | .phrase c x => k.hasAp && c = k.core && x = k.apCtx && k.resident
  let s := { s with threads := s.threads.filter fun x => !mine x.1 }
  let c := s.core k.core
  let s := if k.hasAp && k.resident then s.setCore k.core { c with pctx := tdel k.apCtx c.pctx } else s
  let s := { withdrawViews s b with blocks := tdel b s.blocks }
  match s.grid? k.grid with
  | some g => s.setGrid k.grid { g with endedBlocks := g.endedBlocks + 1 }
  | none => s

/-- A block whose agents have all ended leaves its core (R170); a shading group's accesses are released for the wait on its view's
tile (R287); else nothing happens. -/
def execBlockEnd (block : Nat) (s : State) : Host.Outcome State Fault Refusal :=
  match s.block? block with
  | none => .next s
  | some k =>
    if !blockOver s block k then .next s
    else
      let s := match (s.grid? k.grid).bind Grid.shade with
        | some h => collectShade (s.release k.core .pkg) block h
        | none => s
      .next (removeBlock s block k)

/-! ### Termination (R348) -/

/-- Releases everything a phrase context of a core holds: range locks, tile states (R348). -/
def dropContext (s : State) (c x : Nat) : State :=
  let d := dieOfCore c
  let s := s.setDie d { s.die d with locks := (s.die d).locks.filter fun l => match l.owner with
    | .slot c' x' _ => !(c' = c && x' = x)
    | _ => true }
  let s := withdrawLeave s d fun w => match w with
    | .chunk c' x' _ => c' = c && x' = x
    | _ => false
  { s.setCore c { s.core c with pctx := tdel x (s.core c).pctx } with threads := adel (.phrase c x) s.threads }

/-- Ends every agent of a block as termination does, and takes the block away. -/
def terminateBlock (s : State) (b : Nat) (k : Block) : State :=
  let s := (List.range k.ngrp).foldl
    (fun u g =>
      let u := withdraw u b g
      endGroup (exitClauses u b g ((heldClauses u b g).map HeldEnt.origid)) b g) s
  let c := k.core
  let s := (((s.core c).pctx.filter fun x => x.2.block = b).map Prod.fst).foldl (fun u x => dropContext u c x) s
  let s := s.setCore c { s.core c with
    preq := (s.core c).preq.filter fun r => r.block ≠ b,
    mx := match (s.core c).mx with
      | some j => if j.block = b then none else some j
      | none => none }
  let s := withdrawLeave s (dieOfCore c) fun w => match w with
    | .matrix b' => b' = b
    | _ => false
  let s := { s with dies := s.dies.map fun x => (x.1, { x.2 with locks := x.2.locks.filter fun l => match l.owner with
    | .saved b' _ _ => b' ≠ b
    | _ => true }) }
  removeBlock s b k

/-- The grids that descend from grid `n`, itself first, to `depth` levels of children. -/
def descendants (s : State) : Nat → Nat → List Nat
  | 0, n => [n]
  | d + 1, n => n :: ((s.grids.filter fun x => x.2.parent = some n).map Prod.fst).flatMap (descendants s d)

/-- Terminates one grid: its blocks go, no more are placed, and it completes with `STATUS` 2. -/
def terminateOne (s : State) (n : Nat) : State :=
  match s.grid? n with
  | none => s
  | some g =>
    if g.stage ≠ 0 then s
    else
      let s := s.setGrid n { g with terminated := true, status := if g.status = 0 then 2 else g.status }
      (s.blocks.filter fun x => x.2.grid = n).foldl (fun u x => terminateBlock u x.1 x.2) s

/-- Termination of a grid and of its children (R348). -/
def terminateGrid (s : State) (n : Nat) : State :=
  (descendants s s.grids.length n).foldl terminateOne s

/-! ### The completion of a grid (R347) -/

/-- The grid's blocks and children have ended, or it failed to launch. -/
def gridOver (s : State) (n : Nat) (g : Grid) : Bool :=
  (decide (g.endedBlocks = g.nblk) || g.status ≠ 0) && (s.blocks.all fun x => x.2.grid ≠ n) &&
    s.grids.all fun x => x.2.parent ≠ some n || x.2.stage = 2

/-- The record of a fault on a grid's completion (R347). -/
def gridFault (g : Grid) (c : Cause) (va : Nat) : FaultRec :=
  { FaultRec.blank with
    cause := BitVec.ofNat 8 c.code, agent := 4, kind := if hasKind c.code then 1 else 0, asid := g.asid, core := firmwareCore,
    detail := c.detail, cdetail := if hasKind c.code then 1 else 0, gridRec := g.recAddr, grpno := g.queue.getD 0,
    addr := BitVec.ofNat 64 va }

/-- Every cache of the package writes back: the release at `PKG` of a grid's agents, wherever they ran. -/
def releaseAll (s : State) : State :=
  let s := (s.cores.map Prod.fst).foldl (fun u c => u.forwardL1 c fun _ => true) s
  (s.dies.map Prod.fst).foldl (fun u d => u.writeBackRdc d fun _ => true) s

/-- Frees the pool records of the completed children of a grid (R360). -/
def freeChildren (s : State) (n : Nat) : State :=
  (s.grids.filter fun x => x.2.parent = some n && x.2.shade.isNone).foldl
    (fun u x =>
      let u := match x.2.poolRec with
        | some (d, i) => u.setDie d { u.die d with pool := tdel i (u.die d).pool }
        | none => u
      { u with grids := tdel x.1 u.grids })
    s

/-- An access of the completion that failed: its record is posted and the grid waits at the write. -/
def stallGrid (s : State) (n : Nat) (g : Grid) (c : Cause) (va : Nat) : State :=
  postFault (s.setGrid n { g with stalled := true }) 16 (gridFault g c va)

/-- The second write of the completion, `RED.ADD` of 1 on the signal. -/
def signalGrid (s : State) (n : Nat) (g : Grid) : State :=
  let done (s : State) : State := freeChildren (s.setGrid n { g with stage := 2, stalled := false }) n
  let va := g.signal.toNat
  if va = 0 then done s
  else
    match s.check (.core firmwareCore) g.asid false false false .red false va 8 with
    | .fail c => stallGrid s n g c va
    | .ok p e c =>
      if s.poisoned p then stallGrid s n g ⟨cECCU, 1⟩ va
      else
        let s := (s.touch (.core firmwareCore) .red (.ok p e c)).atSlice (.core firmwareCore) p Cls.plain
        done (s.putHome64 p (s.home64 p + 1))

/-- A grid completes: `STATUS`, after a release of every access of its agents, then the signal; a write that faults waits to
be made again (R347). Else nothing happens. -/
def execGridComplete (grid : Nat) (s : State) : Host.Outcome State Fault Refusal :=
  match s.grid? grid with
  | none => .next s
  | some g =>
    if g.stalled ∨ g.stage = 2 ∨ !gridOver s grid g then .next s
    else if g.stage = 1 then .next (signalGrid s grid g)
    else if g.shade.isSome then .next { s with grids := tdel grid s.grids }
    else
      let g := if g.status = 0 then { g with status := 1 } else g
      let s := releaseAll s
      let va := g.recAddr.toNat + 0x18
      match s.writeVirt (.core firmwareCore) g.asid false va 8 g.status.toNat with
      | .error c => .next (stallGrid s grid g c va)
      | .ok s =>
        let g := { g with stage := 1 }
        .next (signalGrid (s.setGrid grid g) grid g)

end Sys2Proof.Machine
end

