-- ==== Sys2Proof/Machine/Boot.lean ====
section
/-!
DEFINITION. Boot by system core 0 (R367, R368) and attestation quotes (R369).
-/
namespace Sys2Proof.Machine

/-! ### Images (R367) -/

/-- Bytes of the NVMe namespace. -/
def nvmeBytes (s : State) (off n : Nat) : List Byte := readBytes (fun p => tget 0 p s.nvme) off n

/-- The directory keeps its table; `block` is the block size of the namespace. -/
def directoryOk (d : List Byte) (block : Nat) : Bool :=
  recNat d 0 4 = 0x474E5144 && recNat d 4 4 = 0 &&
    ([8, 0x10].all fun o => recNat d o 8 % 4096 = 0 && recNat d o 8 % max 1 block = 0) && (d.drop 0x18).all fun b => b = 0

/-- An image: its header and its body. -/
structure BootImage where
  head : List Byte
  body : List Byte
  deriving DecidableEq, Repr

def BootImage.version (i : BootImage) : Dword := BitVec.ofNat 64 (recNat i.head 8 8)
def BootImage.load (i : BootImage) : Nat := recNat i.head 0x18 8
def BootImage.entry (i : BootImage) : Nat := recNat i.head 0x20 8

/-- A header of a kind keeps its table; the loaded body lies in die 0's memory and holds the entry. -/
def headerOk (h : List Byte) (kind : Nat) : Bool :=
  let len := recNat h 0x10 8
  let load := recNat h 0x18 8
  let entry := recNat h 0x20 8
  recNat h 0 4 = 0x474E514B && recNat h 4 4 = kind && decide (len ≤ 2 ^ 30) && load % 4096 = 0 &&
    decide (load + len ≤ 24 * 2 ^ 30) && entry % 4 = 0 && decide (load ≤ entry) && decide (entry < load + len) &&
    recNat h 0x28 24 = 0 && recNat h 0xC0 64 = 0

/-- The image at an offset of the namespace, where its header is legal. -/
def imageAt (s : State) (off kind : Nat) : Option BootImage :=
  let h := nvmeBytes s off 256
  if headerOk h kind then some { head := h, body := nvmeBytes s (off + 256) (recNat h 0x10 8) } else none

/-- What an image fails, if it is not accepted: 2 its key, 3 its version, 4 its signature. -/
def rejects (s : State) (i : BootImage) (least : Dword) : Option Nat :=
  let key := (i.head.drop 0x40).take 64
  let part (off : Nat) : Nat := beNat ((i.head.drop off).take 32)
  if sha256 key ≠ s.sys.fuseHash then some 2
  else if i.version.toNat < least.toNat then some 3
  else if !ecdsaValid (part 0x40) (part 0x60) (sha256 (i.head.take 0x80 ++ i.body)).toNat (part 0x80) (part 0xA0) then some 4
  else none

/-- The two images, or the boot result of a failure (R367, R368). -/
def bootImages (s : State) : Except Nat (BootImage × BootImage) :=
  let d := nvmeBytes s 0 4096
  if !directoryOk d s.nvmeBlock then .error 1
  else
    match imageAt s (recNat d 8 8) 1, imageAt s (recNat d 0x10 8) 2 with
    | some fw, some k =>
      match (rejects s fw s.sys.fuseFw).or (rejects s k s.sys.fuseKernel) with
      | some e => .error e
      | none => .ok (fw, k)
    | _, _ => .error 1

/-! ### The resident kernel's first group -/

/-- Registers of the group that enters the kernel: the greatest allocation (R337). -/
def kernelRegs : Nat := 1024

/-- The block of the kernel's first group on system core 0; it runs untranslated until the kernel has made its own tables
(notes/assumptions/7.md). -/
def kernelBlock (grid : Nat) : Block :=
  let k : Kernel :=
    { entry := 0, mstream := 0, access := 0, nalloc := kernelRegs, ngrp := 1, nt := 0, ns := 0, spad := 0, tiles := [] }
  let g : Grid :=
    { recAddr := 0, asid := 0, dies := 0, prio := 0, queue := none, packet := 0, age := 0, kernel := k, nblk := 1, nlane := 1,
      hq := false, signal := 0, args := [], placed := 1, endedBlocks := 0, parent := none, poolRec := none, shade := none,
      terminated := false, stage := 0, stalled := false, status := 0, vdepth := 0 }
  { Block.launch grid g 0 systemCore0 0 0 0 0 with physical := true }

/-- The kernel's first group at its entry. -/
def enterKernel (s : State) (entry : Nat) : State :=
  let b := s.nextBlock
  let t := { Thread.launch (BitVec.ofNat 64 entry) kernelRegs 1 0 with age := s.nextAge }
  { s with blocks := tput b (kernelBlock s.nextGrid) s.blocks, threads := s.threads ++ [(.group b 0, t)], nextBlock := b + 1,
           nextGrid := s.nextGrid + 1, nextAge := s.nextAge + 1 }

/-- The boot ROM runs, once after reset: it accepts two images, copies their bodies to their places, starts the firmware core
and enters the kernel; or it leaves every core stopped with its result (R367, R368). -/
def execBoot (s : State) : Host.Outcome State Fault Refusal :=
  if s.sys.booted then .next s
  else
    match bootImages s with
    | .error e => .next { s with sys := { s.sys with booted := true, bootstat := BitVec.ofNat 64 e } }
    | .ok (fw, k) =>
      let y := { s.sys with booted := true, running := true, bootstat := 0, fwHash := sha256 (fw.head ++ fw.body),
                            kernelHash := sha256 (k.head ++ k.body) }
      let s := ({ s with sys := y }.putHomes fw.load fw.body).putHomes k.load k.body
      .next (enterKernel s k.entry)

/-! ### Quotes (R369) -/

/-- The 128 bytes that a quote signs. -/
def quoteHead (s : State) (nonce : List Byte) : List Byte :=
  nonce ++ beBytes 32 s.sys.fwHash.toNat ++ beBytes 32 s.sys.kernelHash.toNat ++ (List.range 8).map Config.packageSerial ++
    List.replicate 24 0

/-- A quote that was started is written into its buffer, and the system die's interrupt is pending; a buffer that is not aligned,
or whose bytes do not exist, gets none. -/
def execAttestationQuote (s : State) : Host.Outcome State Fault Refusal :=
  match s.sys.quote with
  | none => .next s
  | some v =>
    let p := v.toNat
    let s := { s with sys := { s.sys with quote := none } }
    if p % 64 ≠ 0 ∨ !physExists p ∨ !physExists (p + 191) then .next s
    else
      let h := quoteHead s (readBytes s.homeByte p 32)
      let g := quoteSign h
      .next (raiseInt 16 7 (s.putHomes p (h ++ beBytes 32 g.1 ++ beBytes 32 g.2)))

end Sys2Proof.Machine
end

