-- ==== Sys2Proof/Machine/Translation.lean ====
section
/-!
DEFINITION. The translation and fault instructions, opcodes 0xE0 to 0xE3 (R329 to R333): `TLBI`, `TFENCE`, `PGMAP`, `FBPOP`,
with the bytes of a fault record (R323).
-/
namespace Sys2Proof.Machine

/-! ### `TLBI` and `TFENCE` (R330, R331) -/

/-- Removes the entries for which `f` holds from every translation buffer (R320). -/
def dropEntries (s : State) (f : TlbEnt → Bool) : State :=
  { s with
    cores := s.cores.map fun c => (c.1, { c.2 with tlb := c.2.tlb.filter fun e => !f e }),
    dies := s.dies.map fun d => (d.1, { d.2 with tlb := d.2.tlb.filter fun e => !f e }),
    sys := { s.sys with netTlb := s.sys.netTlb.filter fun e => !f e, storageTlb := s.sys.storageTlb.filter fun e => !f e } }

/-- The context of a queue (R349). -/
def Queue.asid (q : Queue) : BitVec 16 := q.qcfg.extractLsb' 48 16

/-- An entry that covers a page, by which an access that it translated is told to fall under a removal. -/
def spanEnt (asid : BitVec 16) (page : Nat × Nat) : TlbEnt :=
  { asid := asid, base := page.1, size := page.2, pte := 0, pteAddr := 0, level := 0, leaf := true }

/-- Marks the accesses in flight that an entry for which `f` holds translated (R331). -/
def markStale (s : State) (f : TlbEnt → Bool) : State :=
  let job (a : Agent) (j : MemJob) : MemJob :=
    { j with stale := j.stale || j.parts.any fun x => f (spanEnt (s.asidOf a) x.page) }
  let flight (asid : BitVec 16) (x : InFlight) : InFlight :=
    { x with stale := x.stale || f (spanEnt asid x.page) }
  { s with
    threads := s.threads.map fun (x : Agent × Thread) => (x.1, { x.2 with job := x.2.job.map (job x.1) }),
    sys := { s.sys with queues := s.sys.queues.map fun q => (q.1, { q.2 with flight := q.2.flight.map (flight q.2.asid) }) } }

/-- The size of `TLBI.VA`. -/
def tlbiSize (c : Nat) : Nat :=
  match c % 4 with
  | 0 => 2 ^ 12
  | 1 => 2 ^ 16
  | 2 => 2 ^ 21
  | _ => 2 ^ 30

/-- Recorded regions that a group may hold. -/
def regionLimit : Nat := 64

/-- A release of the group's earlier accesses, then the removal. -/
def tlbi (e : Env) (s : State) (f : TlbEnt → Bool) : State := markStale (dropEntries (s.release (s.coreNo e.a) .pkg) f) f

def execTlbiVa (f : Fields) (s : State) := issue 0xE0 f s fun e s =>
  let asid := (e.va 64 e.low).setWidth 16
  let size := tlbiSize (f.xb 0 2)
  let z := (e.vb 64 e.low).toNat % 2 ^ 57 / size * size
  let hit (x : TlbEnt) : Bool := x.asid = asid && decide (x.base < z + size) && decide (z < x.base + x.size)
  if f.fn.getLsbD 2 then
    if regionLimit ≤ e.t.regions.length then .trap (Trap.all cQUOTA 3 e.act) s
    else
      .ok ((tlbi e s hit).modThread e.a fun t => { t with regions := t.regions ++ [{ asid := asid, base := z, size := size }] })
  else .ok (tlbi e s hit)

def execTlbiAsid (f : Fields) (s : State) := issue 0xE0 f s fun e s =>
  .ok (tlbi e s fun x => x.asid = (e.va 64 e.low).setWidth 16)

def execTlbiAll (f : Fields) (s : State) := issue 0xE0 f s fun e s => .ok (tlbi e s fun _ => true)

/-- A range lock of the region's context overlaps it. -/
def regionLocked (s : State) (r : Region) : Bool :=
  (List.range 17).any fun d => (s.die d).locks.any fun l =>
    l.asid = r.asid && decide (l.lo < r.base + r.size) && decide (r.base < l.hi)

/-- Performs an access of a packet in flight at its home slice, which replies to the firmware core (R307, R352). -/
def performFlight (s : State) (x : InFlight) : State :=
  let s := s.atSlice (.core firmwareCore) x.phys Cls.plain
  if x.is64 then s.putHome64 x.phys x.value
  else s.putHomes x.phys (leBytes 4 ((leNat (readBytes s.homeByte x.phys 4) + x.value.toNat) % 2 ^ 32))

/-- An access in flight is performed, and its packet completes. -/
def completeFlight (s : State) (q : Nat) (x : InFlight) : State :=
  let k := s.queue q
  (performFlight s x).setQueue q { k with flight := k.flight.filter fun y => y ≠ x, outst := k.outst - 1 }

/-- Bytes of an access in flight. -/
def InFlight.bytes (x : InFlight) : Nat := if x.is64 then 8 else 4

/-- The access meets `n` bytes at `p`. -/
def InFlight.meets (x : InFlight) (p n : Nat) : Bool := decide (x.phys < p + n) && decide (p < x.phys + x.bytes)

/-- Access `x` is performed before `y`, which a later word of the firmware group makes: `y` is a release, or they meet (R164, R165,
R305, R352). -/
def InFlight.precedes (x y : InFlight) : Bool := decide (x.order < y.order) && (y.is64 || x.meets y.phys y.bytes)

/-- Lists an access behind those of its order. -/
def insertFlight (x : Nat × InFlight) : List (Nat × InFlight) → List (Nat × InFlight)
  | [] => [x]
  | y :: r => if x.2.order < y.2.order then x :: y :: r else y :: insertFlight x r

/-- The accesses in flight with their queues, by their order. -/
def allFlights (s : State) : List (Nat × InFlight) :=
  (s.sys.queues.flatMap fun q => q.2.flight.map fun x => (q.1, x)).foldl (fun acc x => insertFlight x acc) []

/-- Performs the accesses in flight for which `f` holds, and those that come before them. -/
def performFlights (s : State) (f : InFlight → Bool) : State :=
  let due := (allFlights s).foldr
    (fun x (acc : List (Nat × InFlight)) => if f x.2 || acc.any fun y => x.2.precedes y.2 then x :: acc else acc) []
  due.foldl (fun u x => completeFlight u x.1 x.2) s

/-- Performs every access in flight that a removed entry translated. A fence that waits for them completes as one that issues when
they are performed, so they are performed before it here. -/
def drainStale (s : State) : State :=
  let s := (s.threads.filter fun x => (x.2.job.map MemJob.stale).getD false).foldl (fun u x => finishJob u x.1) s
  performFlights s InFlight.stale

/-- Every removal is done when its own step is; the fence waits for the accesses that a removed entry translated (R331). -/
def execTfence (f : Fields) (s : State) := issue 0xE1 f s fun e s =>
  let s := drainStale s
  let v : Dword := ((e.t.regions.find? (regionLocked s)).map fun r => BitVec.ofNat 64 r.base ||| 1).getD 0
  let s := s.modThread e.a fun t => if f.d.isAbsent then { t with regions := [] } else { t with regions := [] }.setS (sIdx f.d) v
  .ok (s.acquire (s.coreNo e.a) .pkg)

/-! ### `PGMAP` (R321, R332) -/

/-- The pool of a die: entries of its ring, frames held, index of the next (R321). -/
def poolSize (x : Die) : Nat := 2 ^ (dbits x.ftring 0 4 + 6)
def poolHead (x : Die) : Nat := dbits x.ftidx 16 16
def poolCount (x : Die) : Nat := (dbits x.ftidx 0 16 + 2 ^ 16 - poolHead x) % 2 ^ 16

/-- Takes the frame at the head of a die's pool; the die raises its pool interrupt where few are left. -/
def takeFrame (s : State) (d : Nat) : Nat × State :=
  let x := s.die d
  let h := poolHead x
  let frame := (s.home64 (ptePa x.ftring + 8 * (h % poolSize x))).toNat
  let s := s.setDie d { x with ftidx := (x.ftidx &&& 0xFFFFFFFF0000FFFF#64) ||| dfield (h + 1) 16 16 }
  (frame, if poolCount (s.die d) < dbits x.ftidx 48 16 then raiseInt d 3 s else s)

/-- No cache keeps a byte of a page. -/
def dropPage (s : State) (p : Nat) : State :=
  let out (t : Tab CByte) : Tab CByte := t.filter fun e => !(decide (p ≤ e.1) && decide (e.1 < p + 4096))
  { s with
    cores := s.cores.map fun c => (c.1, ({ c.2 with l1 := out c.2.l1 }).purge),
    dies := s.dies.map fun d => (d.1, ({ d.2 with rdc := out d.2.rdc }).purge) }

/-- Writes zeros to a page at its home, which clears the poison of its lines (R327); what caches held of the frame is gone, so that a
walk of the new entry sees the zeros (R332; DEDUCED, notes/assumptions/79.md). -/
def zeroPage (s : State) (p : Nat) : State :=
  let s := (dropPage s p).putHomes p (List.replicate 4096 0)
  { s with badLines := s.badLines.filter fun l => !(decide (p / 128 ≤ l) && decide (l < p / 128 + 32)) }

/-- How `PGMAP` finds a lane. -/
inductive Mapped where
  | st (v : Dword) (s : State)
  | esc (detail : Nat) (s : State)
  deriving DecidableEq, Repr

/-- The walk of `PGMAP` has brought its core the replies of the slices that hold the tables (R307). -/
def mapWalked (s : State) (a : Agent) (va : Nat) : State :=
  if s.ctxRec (s.asidOf a) = 0 then s else s.walkReplies (tlbAt s a) va (5, s.ctxRoot (s.asidOf a))

/-- One lane of `PGMAP`. -/
def mapLane (s0 : State) (a : Agent) (va : Nat) : Mapped :=
  if 2 ^ 57 ≤ va then .esc 0x404 s0
  else
    let s := mapWalked s0 a va
    match s0.walk (s0.asidOf a) va with
    | .leaf _ => .st 1 s
    | .malformed | .poisoned => .esc 0x405 s
    | .invalid l ft at' =>
      let detail := l + if ft then 256 else 0
      if l = 0 ∧ ft then
        let d := s.dieNo a
        if poolCount (s.die d) = 0 then .esc (detail + 512) s
        else
          let r := takeFrame s d
          let s := debit (zeroPage r.2 r.1) d (s.asidOf a) 32
          let e := s.home64 at'
          .st 0 (s.putHome64 at' ((e &&& 0xFFF00000000007FE#64) ||| BitVec.ofNat 64 (r.1 % 2 ^ 52 / 4096 * 4096) ||| 1))
      else .esc detail s

/-- The walk of an address meets a poisoned line of the page tables (R327). -/
def walkPoisoned (s : State) (a : Agent) (va : Nat) : Bool := decide (va < 2 ^ 57) && s.walk (s.asidOf a) va = .poisoned

/-- Lanes are visited in ascending order; those that cannot be mapped are handed to the resident kernel at the word. Where there are
none, a lane whose walk meets a poisoned line traps `ECCU`, the higher cause (R73), and the word changes nothing (R31). A lane that
reads a poisoned register is not mapped (R327). -/
def execPgmap (f : Fields) (s : State) := issue 0xE2 f s fun e s0 =>
  let addrs := e.lanes.map fun l => (l, e.va 64 l)
  let doers := e.lanes.filter fun l => !e.t.help.getLsbD l && !e.bad.getLsbD l
  let bad := doers.filter fun l => walkPoisoned s0 e.a (e.va 64 l).toNat
  let r := (doers.filter fun l => !bad.contains l).foldl
    (fun (acc : State × List (Nat × Dword) × List (Nat × Nat)) l =>
      match mapLane acc.1 e.a (e.va 64 l).toNat with
      | .st v s => (s, acc.2.1 ++ [(l, v)], acc.2.2)
      | .esc d s => (s, acc.2.1, acc.2.2 ++ [(l, d)]))
    (s0, (e.lanes.filter fun l => e.t.help.getLsbD l).map fun l => (l, (0 : Dword)), [])
  let w := r.2.1.foldl (fun acc x => acc.append (laneWrite f.d 32 x.1 x.2)) Writes.none
  let s := writeNow e r.1 w
  match r.2.2.head? with
  | none =>
    if bad.isEmpty then .ok s
    else
      .trap { Trap.all cECCU 5 (maskList bad) with addrs := addrs }
        (bad.foldl (fun u l => mapWalked u e.a (e.va 64 l).toNat) s0)
  | some (_, d) => .trap { Trap.all cPAGEF (BitVec.ofNat 32 d) (maskList (r.2.2.map Prod.fst)) with addrs := addrs } s

/-! ### Fault records as bytes (R323, R258, R260) -/

/-- A held clause as it stands in memory (R260). -/
def HeldEnt.bytes (h : HeldEnt) : List Byte :=
  leBytes 8 h.key.toNat ++ leBytes 4 h.seq.toNat ++
    [BitVec.ofNat 8 h.grpno, h.origid.setWidth 8,
     (if h.key.getLsbD 63 then 1 else 0) ||| (if h.poison then 2 else 0), 0]

/-- An evidence entry (R258). -/
def Evidence.bytes (x : Evidence) : List Byte :=
  leBytes 8 x.key.toNat ++ leBytes 4 x.seq.toNat ++
    [BitVec.ofNat 8 x.grpno, x.origid.setWidth 8, x.holdOrigid.setWidth 8, 0] ++ leBytes 8 x.blkno.toNat ++
    leBytes 4 x.core ++ leBytes 4 x.nseq.toNat

/-- A list of bytes cut or filled with zeros to `n`. -/
def padTo (n : Nat) (bs : List Byte) : List Byte := bs.take n ++ List.replicate (n - bs.length) 0

/-- The header word of a record. -/
def FaultRec.header (r : FaultRec) : Dword :=
  dfield r.cause.toNat 56 8 ||| dfield r.agent 53 3 ||| dfield r.kind 50 3 |||
    (if r.evidence.isEmpty then 0 else dfield 1 49 1 ||| dfield (r.evidence.length - 1) 45 4) ||| dfield r.asid.toNat 16 16 |||
    dfield r.core 0 16

/-- The word at 0x038. -/
def FaultRec.place (r : FaultRec) : Dword :=
  dfield r.grpno 0 8 ||| dfield r.ctx 8 8 ||| dfield r.slot 16 3 ||| dfield r.batch.toNat 32 32

/-- The addresses of `n` lanes from `l` on; 0 for one that did not trap. -/
def FaultRec.laneAddrs (r : FaultRec) (l n : Nat) : List Byte :=
  (List.range n).flatMap fun i => leBytes 8 (tget 0 (l + i) r.addrs).toNat

/-- The 1024 bytes of a record. -/
def FaultRec.bytes (r : FaultRec) : List Byte :=
  leBytes 8 r.header.toNat ++ leBytes 4 r.detail.toNat ++ leBytes 4 r.cdetail.toNat ++ leBytes 8 r.pc.toNat ++ bytesOfWord r.word ++
    leBytes 4 r.lanes.toNat ++ leBytes 8 r.blkno.toNat ++ leBytes 8 r.gridRec.toNat ++ leBytes 8 r.place.toNat ++
    leBytes 8 r.cursor ++ leBytes 8 r.addr.toNat ++ leBytes 8 (r.nclauses % 65536) ++ leBytes 8 (r.lanes.toNat / 2 ^ 32) ++
    leBytes 8 r.loadpc.toNat ++ padTo 24 [] ++ padTo 64 (r.clauses.flatMap HeldEnt.bytes) ++
    padTo 64 (r.xs.flatMap fun x => leBytes 8 x.toNat) ++ r.laneAddrs 0 32 ++
    padTo 512 (if r.agent = 4 then r.laneAddrs 32 32 else r.evidence.flatMap Evidence.bytes)

/-! ### `FBPOP` (R333) -/

/-- Checks a store of `n` aligned words by a group, and writes them at `PKG`; none of them is written where one fails. -/
def groupWords (e : Env) (s : State) (va : Nat) (bs : List Byte) : Except (Cause × Nat) State :=
  let b := tlbAt s e.a
  let chk (s : State) (p : Nat) : Xlat :=
    s.check b (s.asidOf e.a) (physicalOf s e.a) (kernelCode s e.a) true .write false p 8
  let places := (List.range (bs.length / 8)).map fun i => va + 8 * i
  match places.findSome? fun p => match chk s p with
    | .fail c => some (c, p)
    | .ok _ _ _ => none with
  | some x => .error x
  | none =>
    .ok (places.foldl
      (fun u p =>
        match chk u p with
        | .ok q t c => (u.touch b .write (.ok q t c)).storeBytes (s.coreNo e.a) (placeOf (s.coreNo e.a) .pkg) (e.cls s) q ((bs.drop (p - va)).take 8)
        | .fail _ => u) s)

/-- Removes the oldest record of a die's buffer, and lets the oldest held fault be posted (R324). -/
def popFault (s : State) (d : Nat) : State :=
  let x := s.die d
  match x.held with
  | [] => s.setDie d { x with fbuf := x.fbuf.drop 1 }
  | h :: r =>
    let s := s.setDie d { x with fbuf := x.fbuf.drop 1 ++ [h], held := r }
    if x.fbuf.length ≤ 1 then raiseInt d 1 s else s

def execFbpop (f : Fields) (s : State) := issue 0xE3 f s fun e s =>
  let d := (e.va 64 e.low).toNat
  let b := (e.vb 64 e.low).toNat
  let put (s : State) (v : Dword) : State := s.modThread e.a fun t => t.setS (sIdx f.d) v
  if 16 < d then .trap (Trap.all cILLOP 0 e.act) s
  else if b % 64 ≠ 0 then
    .trap { Trap.all cMISALIGN 0 e.act with cdetail := 1, addrs := e.lanes.map fun l => (l, BitVec.ofNat 64 b) } s
  else
    match (s.die d).fbuf with
    | [] => .ok (put s 0)
    | r :: rest =>
      match groupWords e s b r.bytes with
      | .error (c, va) =>
        .trap { Trap.all c.code c.detail e.act with
                cdetail := if hasKind c.code then 1 else 0, addrs := e.lanes.map fun l => (l, BitVec.ofNat 64 va) } s
      | .ok s => .ok (put (popFault s d) (1 ||| dfield rest.length 32 32))

end Sys2Proof.Machine
end

