-- ==== Sys2Proof/Machine/Package.lean ====
section
/-!
DEFINITION. `LAUNCH`, `JOIN`, `QCTL` and `HALT`, opcodes 0xE4 to 0xE6 and 0xE9 (R360, R370 to R373, R375), and the ends of the
waits of `JOIN` and `HALT`.
-/
namespace Sys2Proof.Machine

/-! ### `LAUNCH` (R360, R371) -/

/-- Reads 8-byte words by a group at `PKG`: their bytes, or the cause and address that failed. -/
def groupRead (e : Env) (s : State) (va : Nat) : Nat → Except (Cause × Nat) (List Byte × State)
  | 0 => .ok ([], s)
  | k + 1 =>
    let b := tlbAt s e.a
    match s.check b (s.asidOf e.a) (physicalOf s e.a) (kernelCode s e.a) true .read false va 8 with
    | .fail c => .error (c, va)
    | .ok p t c =>
      if s.poisoned p then .error (⟨cECCU, 1⟩, va)
      else
        let x := (s.touch b .read (.ok p t c)).loadBytes (s.coreNo e.a) (placeOf (s.coreNo e.a) .pkg) (e.cls s) p 8
        match groupRead e x.2 (va + 8) k with
        | .error y => .error y
        | .ok (bs, s) => .ok (x.1 ++ bs, s)

/-- Records of a die's pending pool (R360). -/
def poolRecords : Nat := 4096

/-- The die whose pool a group uses: its own, or the lowest of the context's dies on a system core. -/
def poolDie (s : State) (a : Agent) : Nat :=
  if s.dieNo a < 16 then s.dieNo a else (diesOf (s.ctxDies (s.asidOf a))).headD 0

/-- A free index of a pool: the lowest (R371; DESIGN CHOICE, notes/assumptions/101.md). -/
def freeRecord (s : State) (d : Nat) : Option Nat := (List.range poolRecords).find? fun i => (tlook i (s.die d).pool).isNone

/-- The child grid of a record, in its parent's context and queue, with the status of a launch that failed (R346, R360). -/
def childGrid (s : State) (a : Agent) (rec' : List Byte) (addr d e : Nat) : Grid × State :=
  let asid := s.asidOf a
  let up := s.grid? (s.gridNo a)
  let dies := up.elim (s.ctxDies asid) Grid.dies
  let prio := up.elim ((s.thread? a).elim 0 Thread.prio) Grid.prio
  let make (src : GridSrc) (fail : Option Nat) : Grid :=
    { gridOf src addr asid dies prio s.nextAge with
      queue := up.bind Grid.queue, parent := some (s.gridNo a), poolRec := some (d, e),
      status := match fail with
        | some k => failStatus k
        | none => 0 }
  match readKernel s (.die d) asid (recNat rec' 0 8) (queueClass s (s.gridNo a) 0) with
  | .error _ =>
    let src : GridSrc := { rec' := rec', kern := [], table := [] }
    (make src (some (if gridRecOk rec' then 6 else 4)), s)
  | .ok ((k, t), s) =>
    let src : GridSrc := { rec' := rec', kern := k, table := t }
    (make src (launchFailure s src asid dies false), s)

def execLaunch (f : Fields) (s : State) := issue 0xE4 f s fun e s =>
  let calling := e.act &&& e.t.getP (f.xb 0 4) &&& ~~~e.t.help
  match lowest e.n calling with
  | none => .ok s
  | some l =>
    let g := (e.va 64 l).toNat
    let put (s : State) (v : Dword) : State := s.modThread e.a fun t => t.setS (sIdx f.d) v
    let trapAt (c : Nat) (dt : BitVec 32) (va : Nat) : Res :=
      .trap { Trap.all c dt (bitMask l) with addrs := e.lanes.map fun l => (l, BitVec.ofNat 64 va) } s
    if g % 256 ≠ 0 then trapAt cMISALIGN 0 g
    else
      match groupRead e (s.release (s.coreNo e.a) .pkg) g 32 with
      | .error (c, va) => trapAt c.code c.detail va
      | .ok (r, s) =>
        let d := poolDie s e.a
        match freeRecord s d with
        | none => .ok (put s 0)
        | some i =>
          let gen := tget 0 i (s.die d).gens + 1
          let x := childGrid s e.a r g d i
          let y := addGrid x.2 x.1
          let k := y.2.die d
          let s := y.2.setDie d { k with pool := tput i y.1 k.pool, gens := tput i gen k.gens, joined := tdel i k.joined }
          .ok (put s (dfield 1 48 16 ||| dfield gen.toNat 16 32 ||| dfield d 12 4 ||| dfield i 0 12))

/-! ### `JOIN` (R372) -/

/-- What a handle stands for. -/
inductive Handle where
  | ignored
  | bad
  /-- A child that has completed, with its number and its place in a pool. -/
  | done (grid die idx : Nat) (status : Nat)
  /-- A child whose record a `JOIN` has freed already. -/
  | past (status : Nat)
  | runs
  deriving DecidableEq, Repr

/-- Judges a handle of a group whose grid is `grid`. -/
def handleOf (s : State) (grid : Nat) (h : Dword) : Handle :=
  if h = 0 then .ignored
  else
    let d := dbits h 12 4
    let i := dbits h 0 12
    if dbits h 48 16 ≠ 1 ∨ (tget 0 i (s.die d).gens).toNat ≠ dbits h 16 32 then .bad
    else
      match (tlook i (s.die d).pool).bind fun n => (s.grid? n).map fun g => (n, g) with
      | none =>
        match tlook i (s.die d).joined with
        | some x => if x.1 = grid then .past x.2 else .bad
        | none => .bad
      | some (n, g) =>
        if g.parent ≠ some grid then .bad else if g.stage = 2 then .done n d i (g.status.toNat % 256) else .runs

/-- Frees the pool record of a completed child; its generation stands until the index is used again, and so do its parent and its
status. -/
def freeHandle (s : State) : Handle → State
  | .done n d i v =>
    match (s.grid? n).bind Grid.parent with
    | none => s
    | some up =>
      { s.setDie d { s.die d with pool := tdel i (s.die d).pool, joined := tput i (up, v) (s.die d).joined } with grids := tdel n s.grids }
  | _ => s

def Handle.status : Handle → Nat
  | .bad => 4
  | .done _ _ _ x | .past x => x
  | _ => 0

/-- The handles of a `JOIN`. -/
def joinHandles (s : State) (a : Agent) (t : Thread) (f : Fields) : List Handle :=
  (List.range (f.xb 0 4)).map fun i => handleOf s (s.gridNo a) (t.getS (sIdx f.a + i))

/-- The end of a `JOIN` whose children have all completed. -/
def joinDone (s : State) (a : Agent) (f : Fields) (hs : List Handle) : State :=
  let s := (hs.foldl freeHandle s).acquire (s.coreNo a) .pkg
  if f.d.isAbsent then s
  else s.modThread a fun t => t.setS (sIdx f.d) (BitVec.ofNat 64 ((hs.map Handle.status).foldl max 0))

def execJoin (f : Fields) (s : State) := issue 0xE5 f s fun e s =>
  let hs := joinHandles s e.a e.t f
  if hs.all fun h => h ≠ .runs then .ok (joinDone s e.a f hs)
  else
    .go ((park s e.a .join 0).modThread e.a fun t => { t with remote := some { opc := 0xE5, f := f, act := e.act } })

/-- The children that a group waits for have completed: its `JOIN` is done; one whose word was saved with its record issues
again. Else nothing happens. -/
def execJoinRelease (a : Agent) (s : State) : Host.Outcome State Fault Refusal :=
  match s.thread? a with
  | none => .next s
  | some t =>
    if t.wait ≠ .join ∨ t.gstate = .evicted then .next s
    else
      match t.remote with
      | none => .next (wake s a)
      | some r =>
        let hs := joinHandles s a t r.f
        if hs.all fun h => h ≠ .runs then
          .next (joinDone ((wake s a).modThread a fun t => { t.advance with remote := none }) a r.f hs)
        else .next s

/-! ### `QCTL` (R349, R356, R373) -/

/-- The context of a queue exists, and the queue's dies are some of its (R354, R373). -/
def queueCtxOk (s : State) (q : Queue) : Bool :=
  let asid : BitVec 16 := q.qcfg.extractLsb' 48 16
  let dies : BitVec 16 := q.qcfg.extractLsb' 32 16
  s.ctxRec asid ≠ 0 && dies ≠ 0 && dies &&& ~~~(s.ctxDies asid) = 0

/-- `QSTATE` is `ERROR`, `FETCHFAULT` or `STOPPED`. -/
def Queue.halted (q : Queue) : Bool := q.qstate = 3#3 || q.qstate = 4#3 || q.qstate = 5#3

/-- Slots of a queue's ring. -/
def Queue.slots (q : Queue) : Nat := 2 ^ dbits q.qcfg 0 5

/-- A queue operation: its checks, and the operation at the queue table between a release and an acquire at `PKG`. -/
def qctl (act : Env → State → Queue → Dword × Queue) (e : Env) (s : State) : Res :=
  let n := (e.va 64 e.low).toNat
  if 63 < n then .trap (Trap.all cILLOP 0 e.act) s
  else
    let q := s.queue n
    if !kernelCode s e.a && q.qcfg.extractLsb' 48 16 ≠ s.asidOf e.a then .trap (Trap.all cPROT 8 e.act) s
    else
      let core := s.coreNo e.a
      let s := s.release core .pkg
      let r := act e s q
      .ok (((s.setQueue n r.2).acquire core .pkg).modThread e.a fun t => t.setS (sIdx e.f.d) r.1)

def execQctlStat (f : Fields) (s : State) := issue 0xE6 f s (qctl fun _ _ q => (qstatWord q, q))

def execQctlSetr (f : Fields) (s : State) := issue 0xE6 f s (qctl fun e _ q =>
  let r : Word := (e.vb 64 e.low).setWidth 32
  if !q.halted then (1, q)
  else if q.slots < (r - q.ridx).toNat then (2, q)
  else (0, { q with ridx := r, attempts := 0, drain := 0 }))

def execQctlStart (f : Fields) (s : State) := issue 0xE6 f s (qctl fun _ s q =>
  if !q.halted then (1, q)
  else if q.qbase.toNat % 64 ≠ 0 then (2, q)
  else if !queueCtxOk s q then (3, q)
  else (0, { q with qstate := 0, ecode := 0, hcode := 0 }))

def execQctlStop (f : Fields) (s : State) := issue 0xE6 f s (qctl fun _ _ q =>
  if q.qstate = 5#3 then (1, q) else (0, { q with qstate := 5, attempts := 0, drain := 0 }))

/-! ### `HALT` (R375) -/

/-- An interrupt is pending on a die that is routed to a system core (R340). -/
def interruptFor (s : State) (core : Nat) : Bool :=
  (List.range 17).any fun d => (s.die d).intpend ≠ 0 && dbits (s.die d).introute 0 5 + systemCore0 = core

def execHalt (f : Fields) (s : State) := issue 0xE9 f s fun e s =>
  if s.coreNo e.a = firmwareCore then .trap (Trap.all cILLOP 0 e.act) s
  else if interruptFor s (s.coreNo e.a) then .ok s
  else .go (hold s e.a .halt 0)

/-- A halted group goes on after its word once an interrupt is pending for its core; else nothing happens. -/
def execHaltWake (a : Agent) (s : State) : Host.Outcome State Fault Refusal :=
  match s.thread? a with
  | none => .next s
  | some t =>
    if t.wait = .halt ∧ t.gstate ≠ .evicted ∧ interruptFor s (s.coreNo a) then .next ((wake s a).modThread a Thread.advance) else .next s

end Sys2Proof.Machine
end

