-- ==== Sys2Proof/Machine/Flows.lean ====
section
/-!
DEFINITION. The sending side of the fabric: the peer table (R381), flows and their frames (R382, R383, R388); and the stop of a
phrase transfer at a fault (R224, R225).
-/
namespace Sys2Proof.Machine

/-! ### The stop of a transfer (R224, R225) -/

/-- Changes a slot of a context. -/
def modSlot (s : State) (c x i : Nat) (g : PhSlot → PhSlot) : State :=
  modCtx s (.phrase c x) fun p =>
    match tlook i p.slots with
    | some l => { p with slots := tput i (g l) p.slots }
    | none => p

/-- The cause of a stop, with a context of a block that stands in memory: the block holds its registers (R227). -/
def savedCause (s : State) (x b : Nat) (cause : Nat) : State :=
  match s.block? b with
  | some k =>
    if k.resident then s
    else
      s.setBlock b { k with saved := k.saved.map fun y =>
        if y.ctx = x && !y.t.onTrap then { y with t := { y.t with cause := BitVec.ofNat 8 cause } } else y }
  | none => s

/-- A transfer stops at its cursor and posts its record; its context parks, and is ready anew when it goes on (R208, R224). A failure
of its local accesses has detail 0 (R225); a fabric failure has the detail code of R384, R387 or R388. -/
def stopSlot (s : State) (c x i : Nat) (cause : Nat) (detail : BitVec 32) (kind : Nat) (va : Dword) : State :=
  let a := Agent.phrase c x
  match (ctxOf s a).bind fun p => tlook i p.slots with
  | some l =>
    let t := (s.thread? a).getD (Thread.launch l.pc 0 1 0)
    let tr : Trap := { Trap.all cause detail 1 with cdetail := BitVec.ofNat 64 kind, addrs := [(0, va)] }
    let r := { recordOf s a t (wordOf l.opc l.f) l.pc tr with slot := i, cursor := l.cursor, kind := kind }
    let s := (savedCause s x (s.blockNo a) cause).modThread a fun t =>
      { t with cause := if t.onTrap then t.cause else BitVec.ofNat 8 cause, ready := 0 }
    postFault (modSlot s c x i fun l => { l with stopped := true, asked := false, leave := false, sent := none })
      (dieOfCore c) r
  | none => s

/-! ### Peers and ports (R380, R381) -/

/-- The package's own number; 0xFFFF disables the fabric. -/
def Sys.pkgNo (y : Sys) : Nat := dbits y.fabcfg 48 16

/-- The peer entry of a package. -/
def peerEntry (s : State) (pkg : Nat) : List Byte := readBytes s.homeByte (s.sys.peertab.toNat + 16 * pkg) 16

def peerValid (p : List Byte) : Bool := (p.getD 10 0).getLsbD 7
def peerMay (p : List Byte) (bit : Nat) : Bool := (p.getD 10 0).getLsbD bit
def peerAsid (p : List Byte) : BitVec 16 := BitVec.ofNat 16 (leNat ((p.drop 8).take 2))
def peerMask (p : List Byte) : BitVec 16 := BitVec.ofNat 16 (leNat ((p.drop 6).take 2))
def peerMac (p : List Byte) : BitVec 48 := BitVec.ofNat 48 (leNat (p.take 6))

/-- The fabric is enabled and the peer is known (R388). -/
def fabricTo (s : State) (pkg : Nat) : Bool := s.sys.pkgNo ≠ 0xFFFF && peerValid (peerEntry s pkg)

def portUp (s : State) (p : Nat) : Bool := (tget 0 p s.sys.portstat).getLsbD 63

/-- The port is up and a valid peer entry lets it carry the peer's traffic. -/
def mayCarry (s : State) (e : List Byte) (p : Nat) : Bool := peerValid e && (peerMask e).getLsbD p && portUp s p

/-- An up port of the peer's mask, if there is one. -/
def pickPort (s : State) (pkg : Nat) : Option Nat := (List.range 16).find? fun p => mayCarry s (peerEntry s pkg) p

/-- The port on which a flow sends (R381, R383): its own while the peer's entry names it and it is up, else another. -/
def flowPort (s : State) (x : Flow) : Option Nat :=
  match x.port.filter fun p => mayCarry s (peerEntry s x.pkg) p with
  | some p => some p
  | none => pickPort s x.pkg

/-! ### Flows (R383) -/

def State.modSys (s : State) (g : Sys → Sys) : State := { s with sys := g s.sys }

def State.flow? (s : State) (die pkg : Nat) : Option Flow := s.sys.flows.find? fun x => x.die = die && x.pkg = pkg

/-- Replaces a flow, or adds it. -/
def State.setFlow (s : State) (x : Flow) : State :=
  let hit (y : Flow) : Bool := y.die = x.die && y.pkg = x.pkg
  s.modSys fun y =>
    { y with flows := if y.flows.any hit then y.flows.map fun z => if hit z then x else z else y.flows ++ [x] }

def State.dropFlow (s : State) (die pkg : Nat) : State :=
  s.modSys fun y => { y with flows := y.flows.filter fun x => !(x.die = die && x.pkg = pkg) }

/-- The next open number of a die's counter. -/
def nextOpen (s : State) (die : Nat) : Dword × State :=
  let n := (s.die die).openNo.getD (Config.openSeed die ++ 0#32)
  (n, s.setDie die { s.die die with openNo := some (n + 1) })

/-- Frames of a flow that may be unacknowledged. -/
def flowLimit : Nat := 256

def flowFull (s : State) (die pkg : Nat) : Bool := (s.flow? die pkg).any fun x => decide (flowLimit ≤ x.unacked.length)

/-- The flow to a package, opened at its first use. -/
def openFlow (s : State) (die pkg : Nat) : Flow × State :=
  match s.flow? die pkg with
  | some x => (x, s)
  | none =>
    let r := nextOpen s die
    ({ die := die, pkg := pkg, openNo := r.1, nextSeq := 0, unacked := [], unsent := 0, waiting := [], timeouts := 0, port := pickPort s pkg,
       held := false, acked := false }, r.2)

/-- The next sequence expected on the reverse flow. -/
def expectedFrom (s : State) (pkg die : Nat) : Word :=
  ((s.sys.rxflows.find? fun x => x.pkg = pkg && x.die = die).map RxFlow.expected).getD 0

/-- Hands frames to the network. -/
def transmit (s : State) (fs : List Frame) : State := s.modSys fun y => { y with wire := y.wire ++ fs }

/-- The EtherType of fabric frames. -/
def Sys.etype (y : Sys) : BitVec 16 := y.fabcfg.extractLsb' 32 16

/-- A frame as a port sends it (R382, R383): under the peer's entry as it stands, with the open bit before the first acknowledgment. -/
def frameOut (s : State) (x : Flow) (p : Nat) (f : Frame) : Frame :=
  { f with port := BitVec.ofNat 4 p, dmac := peerMac (peerEntry s x.pkg), smac := Config.portMac p, etype := s.sys.etype,
           opening := !x.acked, ack := expectedFrom s x.pkg x.die }

/-- Registers a range lock of a port of the system die. -/
def State.lockPort (s : State) (l : RLock) : State := s.setDie 16 { s.die 16 with locks := (s.die 16).locks ++ [l] }

/-- Releases a range lock of a port. -/
def State.unlockPort (s : State) (l : RLock) : State := s.setDie 16 { s.die 16 with locks := (s.die 16).locks.erase l }

/-- Read data is sent, or will not be: the locks of its requests are released (R386). -/
def releaseReplies (s : State) (l : List (Frame × FrameFor)) : State :=
  l.foldl
    (fun u y =>
      match y.2 with
      | .reply k => u.unlockPort k
      | _ => u) s

/-- The frames of a flow that have not been sent yet. -/
def Flow.notSent (x : Flow) : List (Frame × FrameFor) := x.unacked.drop (x.unacked.length - x.unsent)

/-- Sends the last `k` frames of a flow, which is replaced, and counts those that were sent before (R380); without an up port they wait
in the sender (R388). -/
def sendLast (s : State) (x : Flow) (k : Nat) : State :=
  match flowPort s x with
  | some p =>
    let s := releaseReplies s x.notSent
    let s := (s.setFlow { x with port := some p, unsent := 0 }).modSys fun y => { y with retx := y.retx + BitVec.ofNat 32 (k - x.unsent) }
    transmit s ((x.unacked.drop (x.unacked.length - k)).map fun y => frameOut s x p y.1)
  | none => s.setFlow { x with port := none }

/-- Sends the frames that a flow, which is replaced, has not sent yet, `k` new ones at its end among them. -/
def sendNew (s : State) (x : Flow) (k : Nat) : State :=
  let n := min x.unacked.length (x.unsent + k)
  sendLast s { x with unsent := n } n

/-- Takes into a flow the waiting frames for which it has room, and counts them: they take the next sequence numbers. -/
def refill (x : Flow) : Flow × Nat :=
  let k := flowLimit - x.unacked.length
  let now := (x.waiting.take k).zip (List.range k)
  let l := now.map fun y => ({ y.1.1 with seq := x.nextSeq + BitVec.ofNat 32 y.2 }, y.1.2)
  ({ x with unacked := x.unacked ++ l, waiting := x.waiting.drop k, nextSeq := x.nextSeq + BitVec.ofNat 32 l.length }, l.length)

/-- Puts a frame on a flow, opened at its first use; the flow sends it once it has room. -/
def sendFrame (s : State) (die pkg kind : Nat) (addr value tag : Dword) (data : List Byte) (who : FrameFor) : State :=
  let r := openFlow s die pkg
  let f : Frame :=
    { port := 0, dmac := 0, smac := 0, etype := 0, src := BitVec.ofNat 16 s.sys.pkgNo, dst := BitVec.ofNat 16 pkg,
      kind := BitVec.ofNat 8 kind, srcDie := BitVec.ofNat 8 die, hold := false, opening := false,
      flits := BitVec.ofNat 8 ((data.length + 63) / 64), seq := 0, ack := 0, addr := addr, value := value, tag := tag,
      openNo := r.1.openNo, data := data, good := true }
  let x := refill { r.1 with waiting := r.1.waiting ++ [(f, who)] }
  sendNew r.2 x.1 x.2

/-- Resends a flow from its oldest unacknowledged frame. -/
def resend (s : State) (x : Flow) : State := sendLast s x x.unacked.length

end Sys2Proof.Machine
end

