-- ==== Sys2Proof/Machine/LowRank.lean ====
section
/-!
DEFINITION. `LRC`'s reference procedure (R206): every step one `RoundRN` into `F32`, with the flags that it raises collected.
A matrix is the list of its columns, each a list of `F32` encodings.
-/
namespace Sys2Proof.Machine

/-- A computation that collects flags. -/
abbrev Fl (α : Type) : Type := StateM Flags α

/-- A rounded result: its flags are collected. -/
def note (r : Nat × Flags) : Fl Nat := do
  modify fun m => m ||| r.2
  pure r.1

def w32 (x : Nat) : Val := widen .f32 x

/-- RoundRN(acc + x × y). -/
def mulAdd (acc x y : Nat) : Fl Nat := note (fFma .f32 .rn false (w32 x) (w32 y) (w32 acc))

/-- RoundRN(acc − x × y). -/
def mulSub (acc x y : Nat) : Fl Nat := note (fFma .f32 .rn false (w32 x).negate (w32 y) (w32 acc))

/-- RoundRN(a × x + b × y), the products exact. -/
def twoProds (a x : Val) (b y : Val) : Fl Nat :=
  let p := vmul a x
  let q := vmul b y
  let r := vadd .rn p.1 q.1
  note (roundOff .f32 .rn false (sigFlag [a, x, b, y]) (r.1, p.2 ||| q.2 ||| r.2))

def addF (a b : Nat) : Fl Nat := note (fAdd .f32 .rn false (w32 a) (w32 b))
def subF (a b : Nat) : Fl Nat := note (fSub .f32 .rn false (w32 a) (w32 b))
def mulF (a b : Nat) : Fl Nat := note (fMul .f32 .rn false (w32 a) (w32 b))
def divF (a b : Nat) : Fl Nat := note (fDiv .f32 .rn false (w32 a) (w32 b))
def sqrtF (a : Nat) : Fl Nat := note (fSqrt .f32 .rn false (w32 a))

def oneF : Nat := 0x3F800000
def twoF : Nat := 0x40000000

def isZeroF (x : Nat) : Bool := x % 2 ^ 31 = 0
def isNanF (x : Nat) : Bool := (w32 x).isNan

/-- `Dot`. -/
def dotF (x y : List Nat) : Fl Nat := (x.zip y).foldlM (fun acc p => mulAdd acc p.1 p.2) 0

/-- v − r × q, entry by entry. -/
def subScaled (v : List Nat) (r : Nat) (q : List Nat) : Fl (List Nat) := (v.zip q).mapM fun p => mulSub p.1 r p.2

/-- One column of `MGS`: the projections on the columns so far, and what is left of it. -/
def project (qs : List (List Nat)) (v : List Nat) : Fl (List Nat × List Nat) :=
  qs.foldlM
    (fun acc q => do
      let r ← dotF q acc.2
      let v ← subScaled acc.2 r q
      pure (acc.1 ++ [r], v))
    ([], v)

/-- `MGS`: Q and the upper-triangular R, column by column. -/
def mgs (r : Nat) (xs : List (List Nat)) : Fl (List (List Nat) × List (List Nat)) :=
  xs.foldlM
    (fun acc v => do
      let p ← project acc.1 v
      let d ← dotF p.2 p.2
      let nrm ← sqrtF d
      let q ← if isZeroF nrm then pure (p.2.map fun _ => 0) else p.2.mapM fun t => divF t nrm
      let col := p.1 ++ [nrm]
      pure (acc.1 ++ [q], acc.2 ++ [col ++ List.replicate (r - col.length) 0]))
    ([], [])

/-- Row `i` of a matrix. -/
def rowOf (m : List (List Nat)) (i : Nat) : List Nat := m.map fun c => c.getD i 0

/-- Column `j`. -/
def colOf (m : List (List Nat)) (j : Nat) : List Nat := m.getD j []

/-- The rotated pair of columns: (c x − s y, s x + c y) in each row. -/
def rotate (c s : Nat) (x y : List Nat) : Fl (List Nat × List Nat) :=
  (x.zip y).foldlM
    (fun acc p => do
      let a ← twoProds (w32 c) (w32 p.1) (w32 s).negate (w32 p.2)
      let b ← twoProds (w32 s) (w32 p.1) (w32 c) (w32 p.2)
      pure (acc.1 ++ [a], acc.2 ++ [b]))
    ([], [])

/-- The cosine and sine of a pair; none where the pair is passed over. -/
def angle (a b g : Nat) : Fl (Option (Nat × Nat)) := do
  if isZeroF g || isNanF a || isNanF b || isNanF g then pure none
  else
    let n ← subF b a
    let d ← mulF twoF g
    let z ← divF n d
    if isNanF z then pure none
    else
      let zz ← mulF z z
      let u ← addF oneF zz
      let e ← sqrtF u
      let den ← addF (z % 2 ^ 31) e
      let neg := decide (2 ^ 31 < z)
      let tn ← divF (if neg then oneF + 2 ^ 31 else oneF) den
      let tt ← mulF tn tn
      let v ← addF oneF tt
      let q ← sqrtF v
      let c ← divF oneF q
      let s ← mulF c tn
      pure (some (c, s))

/-- One pair of a sweep on W and Z. -/
def sweepPair (wz : List (List Nat) × List (List Nat)) (i j : Nat) : Fl (List (List Nat) × List (List Nat)) := do
  let wi := colOf wz.1 i
  let wj := colOf wz.1 j
  let a ← dotF wi wi
  let b ← dotF wj wj
  let g ← dotF wi wj
  match ← angle a b g with
  | none => pure wz
  | some (c, s) =>
    let w ← rotate c s wi wj
    let z ← rotate c s (colOf wz.2 i) (colOf wz.2 j)
    pure ((wz.1.set i w.1).set j w.2, (wz.2.set i z.1).set j z.2)

/-- The pairs i < j below `r`, in order. -/
def pairs (r : Nat) : List (Nat × Nat) :=
  (List.range r).flatMap fun i => ((List.range r).filter fun j => decide (i < j)).map fun j => (i, j)

/-- x stands before y in descending order; NaN stands first. -/
def beforeF (x y : Nat) : Bool :=
  if isNanF x then !isNanF y
  else
    match vcmp (w32 y) (w32 x) with
    | some (lt, _) => lt
    | none => false

/-- Inserts an index behind those it does not stand before. -/
def insertIdx' (sg : List Nat) (i : Nat) : List Nat → List Nat
  | [] => [i]
  | j :: r => if beforeF (sg.getD i 0) (sg.getD j 0) then i :: j :: r else j :: insertIdx' sg i r

/-- Indices by `sg` descending, stable. -/
def sortIdx (sg : List Nat) : List Nat := (List.range sg.length).foldl (fun acc i => insertIdx' sg i acc) []

/-- The sum of squares of values in order. -/
def sumSquares (xs : List Nat) : Fl Nat := xs.foldlM (fun acc x => mulAdd acc x x) 0

/-- x ≤ y as numbers; false with a NaN. -/
def leF (x y : Nat) : Bool :=
  match vcmp (w32 x) (w32 y) with
  | some (lt, eq) => lt || eq
  | none => false

/-- The smallest rank from `kk` on whose tail lies within the bound; `n` ranks are left to try. -/
def findRank (sorted : List Nat) (bound : Nat) : Nat → Nat → Fl Nat
  | 0, kk => pure kk
  | n + 1, kk => do
    let tail ← sumSquares (sorted.drop kk).reverse
    let rt ← sqrtF tail
    if leF rt bound then pure kk else findRank sorted bound n (kk + 1)

/-- The result of `LRC`: rank, and columns of U′ and V′. -/
structure LrcOut where
  k : Nat
  u : List (List Nat)
  v : List (List Nat)
  deriving DecidableEq, Repr

/-- `LRC` on the columns of Ua and Va under the tolerance `tol`. -/
def lrc (tol : Nat) (us vs : List (List Nat)) : Fl LrcOut := do
  let r := us.length
  let qu ← mgs r us
  let qv ← mgs r vs
  let w ← (List.range r).mapM fun j => (List.range r).mapM fun i => dotF (rowOf qu.2 i) (rowOf qv.2 j)
  let z := (List.range r).map fun j => (List.range r).map fun i => if i = j then oneF else 0
  let wz ← (List.range 8).foldlM
    (fun wz _ => (pairs r).foldlM (fun wz p => sweepPair wz p.1 p.2) wz) (w, z)
  let sg ← wz.1.mapM fun c => do
    let d ← dotF c c
    sqrtF d
  let pi := sortIdx sg
  let sorted := pi.map fun i => sg.getD i 0
  let t ← sumSquares sorted
  let n ← sqrtF t
  let tol' := if isNanF tol || decide (2 ^ 31 ≤ tol) then 0 else tol
  let bound ← if isZeroF n then pure 0 else mulF tol' n
  let k ← findRank sorted bound r 0
  let pk := pi.take k
  let len (xs : List (List Nat)) : Nat := (xs.headD []).length
  let u ← pk.mapM fun p => (List.range (len us)).mapM fun t => dotF (rowOf qu.1 t) (colOf wz.1 p)
  let v ← pk.mapM fun p => (List.range (len vs)).mapM fun t => dotF (rowOf qv.1 t) (colOf wz.2 p)
  pure { k := k, u := u, v := v }

end Sys2Proof.Machine
end

