-- ==== Sys2Proof/Machine/Matrix.lean ====
section
/-!
DEFINITION. The matrix unit: the queued matrix instructions, opcodes 0xC5 to 0xCE, their grant with its checks and results,
and their completion (R186 to R191, R194, R201 to R207).
-/
namespace Sys2Proof.Machine

/-! ### Results -/

/-- What a granted matrix instruction will leave. -/
structure MxWork where
  dst : Option (Nat × Tile)
  bytes : List (Nat × Byte)
  flags : Flags
  cbs : List (Nat × BitVec 16)
  deriving DecidableEq, Repr

/-- The flags of R186 at their places in `TCTL`. -/
def tctlFlags (f : Flags) : Word :=
  flagIf (f &&& fIV ≠ 0) 0x100 ||| flagIf (f &&& fOF ≠ 0) 0x200 ||| flagIf (f &&& fUF ≠ 0) 0x400 |||
    flagIf (f &&& fIX ≠ 0) 0x800 ||| flagIf (f &&& fBLKERR ≠ 0) 0x1000

/-- A trap of the matrix stream with a cause detail. -/
def mxTrap (cause detail : Nat) : Trap := { Trap.all cause 0 1 with cdetail := BitVec.ofNat 64 detail }

/-- Every position of a 32 × 32 tile. -/
def cells : List (Nat × Nat) := (List.range 32).flatMap fun i => (List.range 32).map fun j => (i, j)

/-- The bytes of a dense tile whose elements are `g`; +0 at and beyond its rows and columns (R180). -/
def denseBytes (t : Tile) (g : Nat → Nat → Nat) : List (Nat × Byte) :=
  cells.flatMap fun c =>
    let v := if c.1 < t.rows ∧ c.2 < t.cols then g c.1 c.2 else 0
    let n := elemSize t.fmt
    ((leBytes n v).zip (List.range n)).map fun b => (elemKey t.fmt t.sbase c.1 c.2 + b.2, b.1)

/-- The bytes of the factors of an `LRF` tile. -/
def lrfBytes (t : Tile) (u v : Nat → Nat → Nat) : List (Nat × Byte) :=
  (List.range t.rank).flatMap fun p =>
    (List.range 32).flatMap fun i =>
      let k := 256 * (t.sbase + p)
      let a := if i < t.rows then u i p else 0
      let b := if i < t.cols then v i p else 0
      ((leBytes 4 a).zip (List.range 4)).map (fun x => (k + 4 * i + x.2, x.1)) ++
        ((leBytes 4 b).zip (List.range 4)).map fun x => (k + 128 + 4 * i + x.2, x.1)

/-- The run of slots for a result that needs `s`: the one held where the count is the same, else the lowest free one (R181,
R183). -/
def placeRun (k : Block) (n s : Nat) : Except Trap Nat :=
  let t := k.tile n
  if t.nslot = s then .ok (if s = 0 then 0 else t.sbase)
  else
    match firstFit k n s with
    | some b => .ok b
    | none => .error (mxTrap cSLOTFULL s)

/-- A dense result of format `fmt`, with the elements and flags of `g`. -/
def denseResult (k : Block) (n : Nat) (fmt : TFmt) (rows cols : Nat) (g : Nat → Nat → Nat × Flags) : Except Trap MxWork :=
  let s := tileSlots fmt 0
  match placeRun k n s with
  | .error t => .error t
  | .ok b =>
    let t := { k.tile n with st := .ready, sbase := b, nslot := s, rank := 0, fmt := fmt, rows := rows, cols := cols }
    let inside := cells.filter fun c => decide (c.1 < rows) && decide (c.2 < cols)
    .ok { dst := some (n, t), bytes := denseBytes t fun i j => (g i j).1,
          flags := inside.foldl (fun m c => m ||| (g c.1 c.2).2) 0, cbs := [] }

/-- An `LRF` result of rank `q` with factors `u` and `v`, whose own flags are `fl`: above `RCAP` it traps `RANKOVF`, or is
made dense under `DFB` (R191). -/
def lrfResult (k : Block) (n rows cols q : Nat) (u v : Nat → Nat → Nat) (fl : Flags) : Except Trap MxWork :=
  if (k.tile n).rcap < q then
    if k.tctl.getLsbD 0 then
      match denseResult k n .d32 rows cols fun i j =>
          let x := sumProds ((List.range q).map fun p => (w32 (u i p), w32 (v j p)))
          roundOff .f32 .rn false x.2 (x.1, 0) with
      | .error t => .error t
      | .ok w => .ok { w with flags := w.flags ||| fl }
    else .error (mxTrap cRANKOVF q)
  else
    match placeRun k n q with
    | .error t => .error t
    | .ok b =>
      let t := { k.tile n with st := .ready, sbase := b, nslot := q, rank := q, fmt := .lrf, rows := rows, cols := cols }
      .ok { dst := some (n, t), bytes := lrfBytes t u v, flags := fl, cbs := [] }

/-- The detail (n << 8) | d of `TILESTATE`. -/
def stateTrap (n d : Nat) : Trap := mxTrap cTILESTATE (256 * n + d)

/-- The tile registers that an instruction names, destination first. -/
def mxTiles (f : Fields) : List Nat := ([f.d, f.a, f.b].filter Opd.isT).map Opd.num

/-- RoundRN of an exact sum. -/
def roundSum (x : Val × Flags) : Nat × Flags := roundOff .f32 .rn false x.2 (x.1, 0)

/-! ### Products (R201, R202) -/

/-- The values 0 to n - 1 cut into runs of `step`. -/
def kSteps (n step : Nat) : List (List Nat) :=
  (List.range ((n + step - 1) / step)).map fun i => (List.range (min step (n - step * i))).map fun t => step * i + t

/-- One element of the accumulation: every step's exact sum is added to the accumulator and rounded once (R57). -/
def accumulate (acc : Nat) (steps : List (Val × Flags)) : Nat × Flags :=
  steps.foldl
    (fun a x =>
      let v := w32 a.1
      let r := vadd .rn v x.1
      roundOff .f32 .rn false (a.2 ||| sigFlag [v] ||| x.2) (r.1, r.2))
    (acc, 0)

/-- The bytes of rows below `lim` of a `D32` tile, the others left as they are (R187). -/
def rowsBelow (t : Tile) (lim : Nat) (g : Nat → Nat → Nat) : List (Nat × Byte) :=
  (denseBytes t g).filter fun b =>
    let s := b.1 / 256 - t.sbase
    decide (2 * s + b.1 % 256 / 128 < lim)

/-- `MMA` and `MMAQ` with the step sums `g i j`. -/
def productResult (k : Block) (n : Nat) (g : Nat → Nat → List (Val × Flags)) : MxWork :=
  let t := k.tile n
  let lim := k.vc.toNat
  let r (i j : Nat) : Nat × Flags := accumulate (k.elem t i j) (g i j)
  { dst := some (n, { t with st := .ready }), bytes := rowsBelow t lim fun i j => (r i j).1,
    flags := (cells.filter fun c => decide (c.1 < min t.rows lim) && decide (c.2 < t.cols)).foldl
      (fun m c => m ||| (r c.1 c.2).2) 0,
    cbs := [] }

def mxMma (k : Block) (f : Fields) : Except Trap MxWork :=
  let n := f.d.num
  let d := k.tile n
  let a := k.tile f.a.num
  let b := k.tile f.b.num
  if d.fmt ≠ .d32 then .error (stateTrap n 2)
  else if a.fmt = .lrf then .error (stateTrap f.a.num 2)
  else if b.fmt ≠ a.fmt then .error (stateTrap f.b.num 2)
  else if a.rows ≠ d.rows ∨ b.cols ≠ d.cols ∨ a.cols ≠ b.rows then .error (stateTrap n 3)
  else
    let va (i p : Nat) : Val := widen a.fmt.ffmt (k.elem a i p)
    let vb (p j : Nat) : Val := widen b.fmt.ffmt (k.elem b p j)
    .ok (productResult k n fun i j =>
      (kSteps a.cols (if a.fmt = .d32 then 8 else 16)).map fun st => sumProds (st.map fun p => (va i p, vb p j)))

/-- A scratchpad range that the matrix unit reads, `n` bytes at `a`, aligned to `al` (R158, R202). The detail code of the `PROT` of
an address with bit 31 set is that of a range past the window, 2 (DESIGN CHOICE, notes/assumptions/97.md). -/
def mxRange (k : Block) (a : Dword) (n al : Nat) : Option Trap :=
  if a.toNat % al ≠ 0 then some (Trap.all cMISALIGN 0 1)
  else if 2 ^ 32 ≤ a.toNat then some (Trap.all cPROT 4 1)
  else if k.spadBytes < a.toNat + n then some (Trap.all cPROT 2 1)
  else none

/-- A block of the scratchpad window. -/
def spadBlk (k : Block) (off : Nat) : Blk := (readBytes (fun p => tget 0 p k.spad) off 64).map BitVec.toNat

/-- The element capacity of a block; none for `ZERO` and `INVALID`, which have no elements of their own. -/
def Blk.cap? (b : Blk) : Option Nat := if b.byte 0 = 0 ∨ b.byte 0 = 0xFF then none else some (blkCap (b.byte 0))

/-- The capacities of a pair agree. -/
def capsAgree (a b : Blk) : Bool :=
  match a.cap?, b.cap? with
  | some x, some y => x = y
  | _, _ => true

/-- Elements of a pair's K step. -/
def pairCap (a b : Blk) : Nat := (a.cap?.or b.cap?).getD 1

/-- The matrix codebooks as `Blk.elem` takes them. -/
def Block.codebook (k : Block) (n : Nat) : List Nat := (List.range 16).map fun j => (tget 0 (16 * n + j) k.cbs).toNat

/-- `MMAQ` (R202). With `VC` = 0 no block is checked, of B neither; a malformed block of any step is found before unequal capacities and
has detail 0 (DESIGN CHOICE, notes/assumptions/18.md). The whole range of B is held to the window, of A that of the rows below `VC`
(DESIGN CHOICE, notes/assumptions/97.md). -/
def mxMmaq (k : Block) (f : Fields) (sa sb : Dword) : Except Trap MxWork :=
  let n := f.d.num
  let d := k.tile n
  let nk := f.xb 0 8
  let rows := min d.rows k.vc.toNat
  let blkA (i st : Nat) : Blk := spadBlk k (sa.toNat + 64 * (i * nk + st))
  let blkB (j st : Nat) : Blk := spadBlk k (sb.toNat + 64 * (j * nk + st))
  if d.fmt ≠ .d32 then .error (stateTrap n 2)
  else
    let ra := mxRange k sa (64 * rows * nk) 64
    let rb := mxRange k sb (64 * d.cols * nk) 64
    match (match ra, rb with
      | some x, some y => some (if y.cause < x.cause then y else x)
      | x, y => x.or y) with
    | some t => .error t
    | none =>
      let ok := ((List.range rows).all fun i => (List.range nk).all fun st => (blkA i st).ok) &&
        (rows = 0 || (List.range d.cols).all fun j => (List.range nk).all fun st => (blkB j st).ok)
      if !ok then .error (mxTrap cBLKFMT 0)
      else
        match (List.range nk).find? fun st =>
            !((List.range rows).all fun i => (List.range d.cols).all fun j => capsAgree (blkA i st) (blkB j st)) with
        | some st => .error (mxTrap cBLKFMT st)
        | none =>
          .ok (productResult k n fun i j =>
            (List.range nk).map fun st =>
              let x := blkA i st
              let y := blkB j st
              let es := (List.range (pairCap x y)).map fun t => (x.elem k.codebook t, y.elem k.codebook t)
              let r := sumProds (es.map fun e => (e.1.1, e.2.1))
              (r.1, es.foldl (fun m e => m ||| e.1.2 ||| e.2.2) r.2))

/-! ### Low-rank instructions (R203 to R206) -/

/-- A widened element or factor as an `F32` encoding, with `IV` for a signalling NaN. -/
def widen32 (v : Val × Flags) : Nat × Flags := roundOff .f32 .rn false v.2 (v.1, 0)

def mxLrfm (k : Block) (f : Fields) : Except Trap MxWork :=
  let n := f.d.num
  let a := k.tile f.a.num
  let b := k.tile f.b.num
  let q := f.xb 0 4
  if a.fmt = .lrf then .error (stateTrap f.a.num 2)
  else if b.fmt = .lrf then .error (stateTrap f.b.num 2)
  else if a.cols < q ∨ b.cols < q then .error (stateTrap n 3)
  else
    let u (i p : Nat) : Nat × Flags := widen32 (k.value a i p)
    let v (j p : Nat) : Nat × Flags := widen32 (k.value b j p)
    let fl := (List.range q).foldl
      (fun m p => (List.range 32).foldl (fun m i => m ||| (u i p).2 ||| (v i p).2) m) 0
    lrfResult k n a.rows b.rows q (fun i p => (u i p).1) (fun j p => (v j p).1) fl

/-- Of two `LRF` tiles `LRADD` copies the factors, and `LRMUL` copies the one it keeps, as a move does: a signalling NaN stands as it
is and sets no flag (DESIGN CHOICE, notes/assumptions/71.md). -/
def mxLradd (k : Block) (f : Fields) : Except Trap MxWork :=
  let n := f.d.num
  let a := k.tile f.a.num
  let b := k.tile f.b.num
  if a.rows ≠ b.rows ∨ a.cols ≠ b.cols then .error (stateTrap n 3)
  else if a.fmt = .lrf ∧ b.fmt = .lrf then
    lrfResult k n a.rows a.cols (a.rank + b.rank)
      (fun i p => if p < a.rank then k.facU a i p else k.facU b i (p - a.rank))
      (fun j p => if p < a.rank then k.facV a j p else k.facV b j (p - a.rank)) 0
  else
    denseResult k n .d32 a.rows a.cols fun i j =>
      let x := k.value a i j
      let y := k.value b i j
      let r := vadd .rn x.1 y.1
      roundOff .f32 .rn false (x.2 ||| y.2) (r.1, r.2)

/-- A factor whose entries are rounded sums over `cols` × `rank`, with the flags of all of them. -/
def sumFlags (rows rank : Nat) (g : Nat → Nat → Nat × Flags) : Flags :=
  (List.range rank).foldl (fun m p => (List.range rows).foldl (fun m j => m ||| (g j p).2) m) 0

/-- The products of two low-rank tiles in one entry of V: every term Vb(j, q) × Va(k, p) × Ub(k, q), exact. -/
def tripleSum (k : Block) (a b : Tile) (j p : Nat) : Val × Flags :=
  let inner (q : Nat) : Val × Flags :=
    sumProds ((List.range a.cols).map fun x => (w32 (k.facV a x p), w32 (k.facU b x q)))
  let ins := (List.range b.rank).map fun q => (w32 (k.facV b j q), inner q)
  let r := sumProds (ins.map fun x => (x.1, x.2.1))
  (r.1, ins.foldl (fun m x => m ||| x.2.2) r.2)

def mxLrmul (k : Block) (f : Fields) : Except Trap MxWork :=
  let n := f.d.num
  let a := k.tile f.a.num
  let b := k.tile f.b.num
  if a.fmt ≠ .lrf ∧ b.fmt ≠ .lrf then .error (stateTrap f.b.num 2)
  else if a.cols ≠ b.rows then .error (stateTrap n 3)
  else if a.fmt = .lrf then
    let v (j p : Nat) : Nat × Flags :=
      roundSum (if b.fmt = .lrf then tripleSum k a b j p
        else sumProds ((List.range a.cols).map fun x => ((k.value b x j).1, w32 (k.facV a x p))))
    lrfResult k n a.rows b.cols a.rank (k.facU a) (fun j p => (v j p).1) (sumFlags b.cols a.rank v)
  else
    let u (i p : Nat) : Nat × Flags :=
      roundSum (sumProds ((List.range a.cols).map fun x => ((k.value a i x).1, w32 (k.facU b x p))))
    lrfResult k n a.rows b.cols b.rank (fun i p => (u i p).1) (k.facV b) (sumFlags a.rows b.rank u)

/-- `LRC`'s procedure on the factors of a tile (R206). -/
def lrcOf (k : Block) (a : Tile) : LrcOut × Flags :=
  let cols (m : Nat) (g : Nat → Nat → Nat) : List (List Nat) :=
    (List.range a.rank).map fun p => (List.range m).map fun i => g i p
  (lrc k.tol.toNat (cols a.rows (k.facU a)) (cols a.cols (k.facV a))).run 0

def mxLrc (k : Block) (f : Fields) : Except Trap MxWork :=
  let a := k.tile f.a.num
  if a.fmt ≠ .lrf then .error (stateTrap f.a.num 2)
  else
    let r := lrcOf k a
    lrfResult k f.d.num a.rows a.cols r.1.k (fun i p => (colOf r.1.u p).getD i 0) (fun j p => (colOf r.1.v p).getD j 0) r.2

def mxLrdn (k : Block) (f : Fields) : Except Trap MxWork :=
  let a := k.tile f.a.num
  denseResult k f.d.num .d32 a.rows a.cols fun i j => widen32 (k.value a i j)

def mxMzero (k : Block) (f : Fields) : Except Trap MxWork :=
  let n := f.d.num
  let t := k.tile n
  if t.fmt = .lrf then
    .ok { dst := some (n, { t with st := .ready, rank := 0, nslot := 0, sbase := 0 }), bytes := [], flags := 0, cbs := [] }
  else .ok { dst := some (n, { t with st := .ready }), bytes := zeroSlots t.sbase t.nslot, flags := 0, cbs := [] }

/-- A transposition moves encodings as they stand. -/
def mxMtrn (k : Block) (f : Fields) : Except Trap MxWork :=
  let a := k.tile f.a.num
  if a.fmt = .lrf then lrfResult k f.d.num a.cols a.rows a.rank (k.facV a) (k.facU a) 0
  else denseResult k f.d.num a.fmt a.cols a.rows fun i j => (k.elem a j i, 0)

def mxSetCb (k : Block) (f : Fields) (sa : Dword) : Except Trap MxWork :=
  match mxRange k sa 32 32 with
  | some t => .error t
  | none =>
    .ok { dst := none, bytes := [], flags := 0,
          cbs := (List.range 16).map fun j =>
            (16 * f.xb 0 3 + j, BitVec.ofNat 16 (leNat (readBytes (fun p => tget 0 p k.spad) (sa.toNat + 2 * j) 2))) }

def mxSetRcap (k : Block) (f : Fields) (v : Dword) : Except Trap MxWork :=
  let n := f.d.num
  let t := k.tile n
  if 15 < v.toNat then .error (Trap.all cILLOP 0 1)
  else if v.toNat < t.rank then .error (mxTrap cRANKOVF t.rank)
  else .ok { dst := some (n, { t with st := .ready, rcap := v.toNat }), bytes := [], flags := 0, cbs := [] }

/-! ### The grant (R189, R190) -/

/-- The result of a queued instruction with the scalar values `va` and `vb`, once its tiles are `READY`. -/
def mxResult (k : Block) (opc : Nat) (f : Fields) (va vb : Dword) : Except Trap MxWork :=
  match opc with
  | 0xC5 => mxMma k f
  | 0xC6 => mxMmaq k f va vb
  | 0xC7 => mxLrmul k f
  | 0xC8 => mxLradd k f
  | 0xC9 => mxLrc k f
  | 0xCA => mxLrdn k f
  | 0xCB => mxLrfm k f
  | 0xCC => mxMzero k f
  | 0xCD => mxMtrn k f
  | _ => if f.fn = 0#4 then mxSetCb k f va else mxSetRcap k f va

/-- The tiles whose contents an instruction reads. -/
def mxReads (opc : Nat) (f : Fields) : List Nat :=
  if opc = 0xC5 then mxTiles f
  else if opc = 0xC6 then [f.d.num]
  else if opc = 0xCC ∨ opc = 0xCE then []
  else (mxTiles f).drop 1

/-- A poisoned granule stands in the slots of a tile. -/
def tilePoisoned (k : Block) (n : Nat) : Bool :=
  let t := k.tile n
  k.badSlots.any fun g => decide (t.sbase ≤ g / 8) && decide (g / 8 < t.sbase + t.nslot)

/-- The checks of R190 with the poison of the tiles read (R327), and the result. Of several `EMPTY` tiles the detail names the first of
`D`, `A`, `B` (DESIGN CHOICE, notes/assumptions/86.md). -/
def mxGrant (k : Block) (opc : Nat) (f : Fields) (va vb : Dword) : Except Trap MxWork :=
  match (mxTiles f).find? fun n => (k.tile n).st = .empty with
  | some n => .error (stateTrap n 1)
  | none =>
    match mxResult k opc f va vb with
    | .error t => .error t
    | .ok w => if (mxReads opc f).any (tilePoisoned k) then .error (granuleTrap 1) else .ok w

/-- No tile that the head names is `FILLING` or `DRAINING`. -/
def mxEligible (k : Block) (f : Fields) : Bool :=
  (mxTiles f).all fun n => (k.tile n).st = .ready || (k.tile n).st = .empty

def ceilDiv (a b : Nat) : Nat := (a + b - 1) / b

/-- The cycles of R207 for a queued instruction on the tiles as they stand. -/
def mxCycles (k : Block) (opc : Nat) (f : Fields) : Nat :=
  let d := k.tile f.d.num
  let a := k.tile f.a.num
  let b := k.tile f.b.num
  let dense (q : Nat) : Bool := decide (d.rcap < q) && k.tctl.getLsbD 0
  let slots (s : Nat) : Nat := max 4 (4 * s)
  match opc with
  | 0xC5 => ceilDiv (d.rows * d.cols * a.cols) (if a.fmt = .d32 then 1024 else 4096)
  | 0xC6 => ceilDiv (d.rows * d.cols * f.xb 0 8 * 120) 16384
  | 0xC7 =>
    let q := if a.fmt = .lrf then a.rank else b.rank
    4 + q + if dense q then 64 else 0
  | 0xC8 =>
    if a.fmt = .lrf ∧ b.fmt = .lrf then slots (if dense (a.rank + b.rank) then 16 else a.rank + b.rank) else 64
  | 0xC9 => 256 + 64 * (a.rank * a.rank) + if decide (d.rcap < a.rank) && dense (lrcOf k a).1.k then 64 else 0
  | 0xCA => 64
  | 0xCB => slots (if dense (f.xb 0 4) then 16 else f.xb 0 4)
  | 0xCC => slots (if d.fmt = .lrf then 0 else tileSlots d.fmt 0)
  | 0xCD => slots (if a.fmt = .lrf then (if dense a.rank then 16 else a.rank) else tileSlots a.fmt 0)
  | _ => 2

/-- Blocks of a core with a queued head that is eligible, in round-robin order after position `last`. -/
def mxHeads (s : State) (core last : Nat) : List (Nat × Block × MxHead) :=
  let bs := s.blocks.filterMap fun x =>
    match x.2.mq with
    | some m =>
      if x.2.resident ∧ x.2.core = core ∧ mxEligible x.2 m.f ∧ !stoppedOn s (dieOfCore core) x.2.asid then
        some (x.1, x.2, m)
      else none
    | none => none
  (List.range 16).flatMap fun i => bs.filter fun x => x.2.1.pos = (last + 1 + i) % 16

/-- The base priority of a block's queue. -/
def gridPrio (s : State) (g : Nat) : Nat := (s.grid? g).elim 0 fun x => x.prio.toNat

/-- Performs the grant of a head that has leave. Every source is read here: of elements that a `TST` writes concurrently a source reads
what stands at the grant (R182 allows the old or the new value of each: DESIGN CHOICE, notes/assumptions/86.md). The acquire at the end
of a wait on a view's tile is made when the view arrives (`execViewArrival`, R287). -/
def grantHead (s : State) (core b : Nat) (k : Block) (m : MxHead) : State :=
  let a := Agent.mstream b
  let s := s.setCore core { s.core core with lastGrant := k.pos }
  match s.thread? a with
  | none => s
  | some t =>
    let va := match m.f.a with
      | .s _ => t.getS m.f.a.num
      | .immS => m.f.x.signExtend 64
      | _ => m.f.x.setWidth 64
    let vb := t.getS m.f.b.num
    let s := wake (s.setBlock b { k with mq := none }) a
    match mxGrant k m.opc m.f va vb with
    | .error i => takeTrap s a (wordOf m.opc m.f) i
    | .ok w =>
      let k' := { k with mq := none }
      let k' := match w.dst with
        | some (n, x) => k'.setTile n { x with st := .filling, by' := .matrix }
        | none => k'
      let s := (s.setBlock b k').modThread a Thread.advance
      s.setCore core
        { s.core core with
          mx := some { block := b, dst := w.dst, bytes := w.bytes, flags := tctlFlags w.flags, cbs := w.cbs,
                       cycles := mxCycles k m.opc m.f } }

/-- The matrix unit, where it is idle, grants the next eligible head that has leave, or asks leave for the next that has not
asked (R189, R264); else nothing happens. A hold keeps leave from being given, not an operation that has it (R366). -/
def execMatrixGrant (core : Nat) (s : State) : Host.Outcome State Fault Refusal :=
  let c := s.core core
  if c.mx ≠ none then .next s
  else
    let hs := mxHeads s core c.lastGrant
    match hs.find? fun x => x.2.2.leave with
    | some (b, k, m) => .next (grantHead s core b k m)
    | none =>
      match hs.find? fun x => !x.2.2.asked with
      | some (b, k, m) =>
        .next (askLeave (s.setBlock b { k with mq := some { m with asked := true } }) (dieOfCore core) (.matrix b)
          (128 * mxCycles k m.opc m.f) (gridPrio s k.grid))
      | none => .next s

/-- The instruction in progress completes: its tile is written and `READY`, its flags are ORed into `TCTL`, its codebook is
set, and a stream whose arrival waited on it goes on (R181, R186, R193). -/
def execMatrixComplete (core : Nat) (s : State) : Host.Outcome State Fault Refusal :=
  match (s.core core).mx with
  | none => .next s
  | some j =>
    let s := s.setCore core { s.core core with mx := none }
    match s.block? j.block with
    | none => .next s
    | some k =>
      let k := writeSlots k j.bytes
      let k := { k with tctl := k.tctl ||| j.flags, cbs := j.cbs.foldl (fun t x => tset 0 x.1 x.2 t) k.cbs }
      let k := match j.dst with
        | some (n, x) => k.setTile n { x with by' := .nobody, vstat := (k.tile n).vstat }
        | none => k
      let s := s.setBlock j.block k
      let a := Agent.mstream j.block
      match s.thread? a with
      | some t => if t.wait = .own then .next (wake s a) else .next s
      | none => .next s

/-! ### The words of the matrix stream -/

/-- A matrix instruction enters its block's queue, and the stream's fetch is suspended until it is granted or has trapped
(R189). -/
def queueWord (e : Env) (s : State) : Res :=
  .go ((modBlock e s fun k => { k with mq := some { opc := e.opc, f := e.f, pc := e.t.pc, asked := false, leave := false } }).modThread
    e.a fun t => { t with gstate := parkedState t.gstate })

def execMma (f : Fields) (s : State) := issue 0xC5 f s queueWord
def execMmaq (f : Fields) (s : State) := issue 0xC6 f s queueWord
def execLrmul (f : Fields) (s : State) := issue 0xC7 f s queueWord
def execLradd (f : Fields) (s : State) := issue 0xC8 f s queueWord
def execLrc (f : Fields) (s : State) := issue 0xC9 f s queueWord
def execLrdn (f : Fields) (s : State) := issue 0xCA f s queueWord
def execLrfm (f : Fields) (s : State) := issue 0xCB f s queueWord
def execMzero (f : Fields) (s : State) := issue 0xCC f s queueWord
def execMtrn (f : Fields) (s : State) := issue 0xCD f s queueWord
def execMsetpCb (f : Fields) (s : State) := issue 0xCE f s queueWord
def execMsetpRcap (f : Fields) (s : State) := issue 0xCE f s queueWord

end Sys2Proof.Machine
end

