-- ==== Sys2Proof/Machine/Range.lean ====
section
/-!
DEFINITION. Ranges of virtual memory at the home slices, translated page by page: the accesses of ports (R385, R394) and of
evictions and restores (R361, R362).
-/
namespace Sys2Proof.Machine

/-- The pieces of a range, one a page. -/
def pagePieces : Nat → Nat → Nat → List (Nat × Nat)
  | 0, _, _ => []
  | k + 1, va, n =>
    if n = 0 then []
    else
      let m := min n (4096 - va % 4096)
      (va, m) :: pagePieces k (va + m) (n - m)

def piecesOf (va n : Nat) : List (Nat × Nat) := pagePieces (n / 4096 + 2) va n

/-- The place among `n` bytes from `p` of the first that stands in a poisoned line (R280, R327). -/
def firstPoison (s : State) (p n : Nat) : Option Nat :=
  let lines := if n = 0 then 0 else (p % 128 + n + 127) / 128
  ((List.range lines).find? fun i => s.badLines.contains (lineOf p + i)).map fun i => 128 * i - p % 128

/-- Translates and checks pieces: physical ones, or the cause and the address that failed, of an uncorrectable error that of the first
byte that meets it. -/
def virtRange (b : TlbAt) (acc : Acc) (asid : BitVec 16) (s : State) :
    List (Nat × Nat) → Except (Cause × Nat) (List (Nat × Nat) × State)
  | [] => .ok ([], s)
  | (va, n) :: r =>
    match s.check b asid false false false acc false va 1 with
    | .fail c => .error (c, va)
    | .ok p e c =>
      match if acc = .write then none else firstPoison s p n with
      | some i => .error (⟨cECCU, 1⟩, va + i)
      | none =>
        match virtRange b acc asid (s.touch b acc (.ok p e c)) r with
        | .error x => .error x
        | .ok (ps, s) => .ok ((p, n) :: ps, s)

/-- An access to physical pieces at their home slices uses their lines of L2 (R300, R301). -/
def State.useLines (s : State) (c : Cls) (ps : List (Nat × Nat)) : State :=
  ps.foldl
    (fun u x => (List.range ((x.1 % 128 + x.2 + 127) / 128)).foldl (fun u i => u.useL2 (lineOf x.1 + i) c.below c.cidx) u) s

/-- Writes bytes over physical pieces. -/
def writePieces (s : State) (bs : List Byte) : List (Nat × Nat) → State
  | [] => s
  | (p, n) :: r => writePieces (s.putHomes p (bs.take n)) (bs.drop n) r

/-- Reads the bytes of physical pieces. -/
def getPieces (s : State) (ps : List (Nat × Nat)) : List Byte := ps.flatMap fun x => readBytes s.homeByte x.1 x.2

/-- The die of the holder of a buffer; a port has none. -/
def TlbAt.die? : TlbAt → Option Nat
  | .core c => some (dieOfCore c)
  | .die d => some d
  | .net | .storage => none

/-- The lines of pieces. -/
def pieceLines (ps : List (Nat × Nat)) : List Nat :=
  ps.flatMap fun x => (List.range ((x.1 % 128 + x.2 + 127) / 128)).map fun i => lineOf x.1 + i

/-- An access at `PKG` by an agent of a die writes back, and then drops, the bytes that the die's remote-data cache holds of lines homed
elsewhere (R298). -/
def State.dropWide (s : State) (b : TlbAt) (ps : List (Nat × Nat)) : State :=
  match b.die? with
  | none => s
  | some d =>
    if (s.die d).rdc.isEmpty && (s.die d).rdcTags.isEmpty then s
    else
      let f := fun q => (rdcDie d q).isSome && (pieceLines ps).contains (lineOf q)
      ((s.writeBackRdc d f).dropCleanRdc d f).purgeRdc d

/-- The holder of a buffer accesses physical pieces at their home slices, at `PKG`: their lines are used, and a core has the replies (R298,
R300, R301, R307). -/
def State.atSlices (s : State) (b : TlbAt) (c : Cls) (ps : List (Nat × Nat)) : State :=
  (pieceLines ps).foldl (fun u l => u.atSlice b (128 * l) c) (s.dropWide b ps)

/-- Writes a virtual range by accesses of a class, and gives the physical pieces. -/
def State.virtPut (s : State) (b : TlbAt) (asid : BitVec 16) (c : Cls) (va : Nat) (bs : List Byte) :
    Except (Cause × Nat) (List (Nat × Nat) × State) :=
  match virtRange b .write asid s (piecesOf va bs.length) with
  | .error e => .error e
  | .ok (ps, s) => .ok (ps, writePieces (s.atSlices b c ps) bs ps)

def State.virtWrite (s : State) (b : TlbAt) (asid : BitVec 16) (c : Cls) (va : Nat) (bs : List Byte) : Except (Cause × Nat) State :=
  (s.virtPut b asid c va bs).map Prod.snd

/-- Reads a virtual range by accesses of a class. -/
def State.virtRead (s : State) (b : TlbAt) (asid : BitVec 16) (c : Cls) (va n : Nat) : Except (Cause × Nat) (List Byte × State) :=
  match virtRange b .read asid s (piecesOf va n) with
  | .error e => .error e
  | .ok (ps, s) =>
    let s := s.atSlices b c ps
    .ok (getPieces s ps, s)

end Sys2Proof.Machine
end

