-- ==== Sys2Proof/Machine/PhraseRun.lean ====
section
/-!
DEFINITION. Phrase transfers: chunks (R215, R218, R224, R387), the leave each asks for (R264), and the completion of a transfer
(R215, R216).
-/
namespace Sys2Proof.Machine

/-- Status bits of a program (R219). -/
def stOOR : BitVec 32 := 1
def stINV : BitVec 32 := 2
def stBLKERR : BitVec 32 := 4

/-- A failure of a chunk: cause, address and access kind. -/
structure ChunkFail where
  cause : Cause
  addr : Dword
  kind : Nat
  deriving DecidableEq, Repr

/-- A transfer as a chunk performs it: its context and slot numbers beside the slot. -/
structure Run where
  a : Agent
  l : PhSlot
  deriving DecidableEq, Repr

/-- The detail code of a stop at a failure of a local access: 0 (R225), but 3 for a poisoned granule of a tile, to which R327 gives a
code for phrase transfers (DEDUCED, notes/assumptions/59.md). -/
def Cause.stopDetail (c : Cause) : BitVec 32 := if c.code = cECCU ∧ c.detail = 3 then 3 else 0

/-! ### Windows and tiles of a block, on its core or in its save area (R194, R227) -/

/-- The tile window image in a save area, its slots, and the scratchpad image (R196, R361). -/
def tileImageAt : Nat := 0x1B400
def tileSlotsAt : Nat := 0x1B800

/-- Bytes of a save area. -/
def savedBytes (s : State) (k : Block) (off n : Nat) : Except ChunkFail (List Byte × State) :=
  match s.virtRead (saveTlb k) k.asid (queueClass s k.grid 0) (saveBase s k + off) n with
  | .error (c, va) => .error ⟨c, BitVec.ofNat 64 va, 0⟩
  | .ok x => .ok x

/-- The places that a chunk has written: physical addresses of memory, and slot keys of the block's tiles. -/
structure Places where
  mem : List Nat
  slots : List Nat
  deriving DecidableEq, Repr

def Places.none : Places := { mem := [], slots := [] }

def Places.add (x y : Places) : Places := { mem := x.mem ++ y.mem, slots := x.slots ++ y.slots }

/-- The addresses of physical pieces. -/
def Places.ofPieces (ps : List (Nat × Nat)) : Places :=
  { Places.none with mem := ps.flatMap fun x => (List.range x.2).map fun i => x.1 + i }

/-- Writes bytes of a save area, and gives the places written. -/
def putSaved (s : State) (k : Block) (off : Nat) (bs : List Byte) : Except ChunkFail (Places × State) :=
  match s.virtPut (saveTlb k) k.asid (queueClass s k.grid 0) (saveBase s k + off) bs with
  | .error (c, va) => .error ⟨c, BitVec.ofNat 64 va, 1⟩
  | .ok (ps, s) => .ok (Places.ofPieces ps, s)

/-- Bytes of a block's scratchpad window. -/
def windowBytes (s : State) (b off n : Nat) : Except ChunkFail (List Byte × State) :=
  match s.block? b with
  | some k => if k.resident then .ok (spadRead s b off n, s) else savedBytes s k (k.layout.2.2.1 + off) n
  | none => .ok ([], s)

/-- Bytes at a slot key of a block. -/
def slotBytesAt (s : State) (k : Block) (key n : Nat) : Except ChunkFail (List Byte × State) :=
  if k.resident then .ok (readBytes (fun p => tget 0 p k.slots) key n, s) else savedBytes s k (tileSlotsAt + key) n

/-- Writes bytes at a slot key of block `b`, and gives the places of memory written. -/
def putSlotBytes (s : State) (b : Nat) (k : Block) (key : Nat) (bs : List Byte) : Except ChunkFail (Places × State) :=
  if k.resident then
    .ok (Places.none, s.setBlock b (writeSlots k (((List.range bs.length).zip bs).map fun y => (key + y.1, y.2))))
  else putSaved s k (tileSlotsAt + key) bs

/-! ### Elements -/

/-- Reads the bytes of element `e` of an endpoint. -/
def readElem (r : Run) (s : State) (ep : Endpoint) (e : Nat) : Except ChunkFail (List Byte × State) :=
  let n := r.l.esz
  let mem (va : Dword) : Except ChunkFail (List Byte × State) :=
    match engRead s r.a r.l.f.cc va n with
    | .error c => .error ⟨c, va, 0⟩
    | .ok x => .ok x
  match ep with
  | .mem _ l o => mem (l.walk o e)
  | .spad p =>
    let va := p + BitVec.ofNat 64 (e * n)
    match scratchRange s r.a va n with
    | .error c => .error ⟨c, va, 0⟩
    | .ok (b, off) => windowBytes s b off n
  | .tile t start =>
    match s.block? (s.blockNo r.a) with
    | none => .ok ([], s)
    | some k =>
      let x := k.tile t
      let i := (start + e) / max 1 x.cols
      let j := (start + e) % max 1 x.cols
      if k.badElem x i j then .error ⟨⟨cECCU, 3⟩, 0, 0⟩
      else slotBytesAt s k (elemKey x.fmt x.sbase i j) n
  | _ => .ok ([], s)

/-- Writes bytes of a block's scratchpad window. -/
def putWindow (s : State) (b off : Nat) (bs : List Byte) : Except ChunkFail (Places × State) :=
  match (s.block? b).filter fun k => !k.resident with
  | some k => putSaved s k (k.layout.2.2.1 + off) bs
  | none => .ok (Places.none, spadWrite s b off bs)

/-- Writes the bytes of element `e` of an endpoint, and gives the places written. -/
def writeElem (r : Run) (s : State) (ep : Endpoint) (e : Nat) (bs : List Byte) : Except ChunkFail (Places × State) :=
  let n := r.l.esz
  match ep with
  | .mem _ l o =>
    let va := l.walk o e
    match engWrite s r.a r.l.f.cc va bs with
    | .error c => .error ⟨c, va, 1⟩
    | .ok (p, s) => .ok ({ Places.none with mem := (List.range bs.length).map fun i => p + i }, s)
  | .spad p =>
    let va := p + BitVec.ofNat 64 (e * n)
    match scratchRange s r.a va n with
    | .error c => .error ⟨c, va, 1⟩
    | .ok (b, off) => putWindow s b off bs
  | .tile t start =>
    match s.block? (s.blockNo r.a) with
    | none => .ok (Places.none, s)
    | some k =>
      let x := k.tile t
      let key := elemKey x.fmt x.sbase ((start + e) / max 1 x.cols) ((start + e) % max 1 x.cols)
      match putSlotBytes s (s.blockNo r.a) k key bs with
      | .error f => .error f
      | .ok (at', s) => .ok ({ at' with slots := (List.range bs.length).map fun i => key + i }, s)
  | _ => .ok (Places.none, s)

/-- Reads elements in turn; a block of a `BLKSTR` source is checked as a consumer checks it (R52, R215). -/
def readElems (r : Run) (ep : Endpoint) : List Nat → State → Except ChunkFail (List (List Byte) × BitVec 32 × State)
  | [], s => .ok ([], 0, s)
  | e :: rest, s =>
    match readElem r s ep e with
    | .error x => .error x
    | .ok (bs, s) =>
      let blk := match ep with
        | .mem _ l _ => l.kind = 4
        | _ => false
      let b : Blk := bs.map BitVec.toNat
      let va := match ep with
        | .mem _ l o => l.walk o e
        | _ => 0
      if blk && !b.ok then .error ⟨⟨cBLKFMT, 0⟩, va, 0⟩
      else
        match readElems r ep rest s with
        | .error x => .error x
        | .ok (l, st, s) => .ok (bs :: l, st ||| (if blk && b.byte 0 = 0xFF then stBLKERR else 0), s)

/-- What the writes of a chunk have done: the state, the places written, and the failure that stopped them. -/
structure Written where
  st : State
  places : Places
  fail : Option ChunkFail
  deriving DecidableEq, Repr

/-- Writes elements in turn, up to the first that fails. -/
def writeElems (r : Run) (s : State) (ep : Endpoint) (l : List (Nat × List Byte)) : Written :=
  l.foldl
    (fun (w : Written) x =>
      if w.fail.isSome then w
      else
        match writeElem r w.st ep x.1 x.2 with
        | .error f => { w with fail := some f }
        | .ok (as, s) => { w with st := s, places := w.places.add as })
    { st := s, places := Places.none, fail := none }

/-- A chunk that writes all 128 bytes of a line clears its poison (R327). -/
def clearLines (s : State) (as : List Nat) : State :=
  if s.badLines.isEmpty then s
  else { s with badLines := s.badLines.filter fun l => !((lineBytes l).all fun p => as.contains p) }

/-- A chunk that writes all 32 bytes of a granule of a tile slot clears its poison (R327). -/
def clearGranules (s : State) (b : Nat) (keys : List Nat) : State :=
  match s.block? b with
  | some k =>
    if k.badSlots.isEmpty then s
    else s.setBlock b { k with badSlots := k.badSlots.filter fun g => !((List.range 32).all fun i => keys.contains (32 * g + i)) }
  | none => s

/-! ### Chunks -/

/-- Elements, indices or entries of the chunk at the cursor. -/
def chunkCount (l : PhSlot) : Nat :=
  let per := match shapeOf l.opc with
    | .xfer => max 1 (4096 / max 1 l.esz)
    | .push => 1
    | _ => 16
  min per (l.n - l.cursor)

/-- Elements that the chunk moves, for its bytes. -/
def chunkBytes (l : PhSlot) : Nat := walkCount (shapeOf l.opc) l.dst l.src (chunkCount l) * l.esz

/-- The cost of a chunk (R264). -/
def chunkCost (l : PhSlot) : Nat := max 1 (ceilDiv (32 * chunkBytes l) 4096)

/-- The fill of an element (R218). -/
def fillBytes (l : Layout) : List Byte :=
  let e := l.size
  if e ≤ 4 then leBytes e l.fill.toNat else ((List.range (e / 4)).flatMap fun _ => leBytes 4 l.fill.toNat)

/-- How an index is taken (R218). -/
inductive Index where
  | row (j : Nat)
  | invalid
  | beyond
  deriving DecidableEq, Repr

def indexOf (l : Layout) (j : Nat) : Index := if 2 ^ 31 ≤ j then .invalid else if l.ibound ≤ j then .beyond else .row j

def Index.status : Index → BitVec 32
  | .row _ => 0
  | .invalid => stINV
  | .beyond => stOOR

/-- Reads the index words of positions. -/
def readIndices (r : Run) (l : Layout) (origin : Nat) : List Nat → State → Except ChunkFail (List Index × State)
  | [], s => .ok ([], s)
  | k :: rest, s =>
    let va := l.idxbase + BitVec.ofNat 64 (4 * (origin + k))
    match engRead s r.a r.l.f.cc va 4 with
    | .error c => .error ⟨c, va, 0⟩
    | .ok (bs, s) =>
      match readIndices r l origin rest s with
      | .error x => .error x
      | .ok (is, s) => .ok (indexOf l (leNat bs) :: is, s)

/-- Reads the elements of a gathered row, or its fill. -/
def readRow (r : Run) (l : Layout) (i : Index) (s : State) : Except ChunkFail (List (List Byte) × State) :=
  match i with
  | .row j =>
    (List.range (l.extent 0)).foldl
      (fun acc x =>
        match acc with
        | .error f => .error f
        | .ok (bs, s) =>
          let va := l.addr [BitVec.ofNat 64 j, BitVec.ofNat 64 x]
          match engRead s r.a r.l.f.cc va r.l.esz with
          | .error c => .error ⟨c, va, 0⟩
          | .ok (b, s) => .ok (bs ++ [b], s))
      (.ok ([], s))
  | _ => .ok (List.replicate (l.extent 0) (fillBytes l), s)

/-- Reads the rows of a gather. -/
def readRows (r : Run) (l : Layout) : List Index → State → Except ChunkFail (List (List Byte) × State)
  | [], s => .ok ([], s)
  | i :: rest, s =>
    match readRow r l i s with
    | .error x => .error x
    | .ok (row, s) =>
      match readRows r l rest s with
      | .error x => .error x
      | .ok (more, s) => .ok (row ++ more, s)

/-- Writes one row of a scatter. -/
def writeRow (r : Run) (l : Layout) (w : Written) (i : Index) (row : List (List Byte)) : Written :=
  match i with
  | .row j =>
    (row.zip (List.range row.length)).foldl
      (fun (w : Written) (x : List Byte × Nat) =>
        if w.fail.isSome then w
        else
          let va := l.addr [BitVec.ofNat 64 j, BitVec.ofNat 64 x.2]
          match engWrite w.st r.a r.l.f.cc va x.1 with
          | .error c => { w with fail := some ⟨c, va, 1⟩ }
          | .ok (p, s) =>
            { w with st := s, places := w.places.add { Places.none with mem := (List.range x.1.length).map fun q => p + q } })
      w
  | _ => w

/-- The end of a chunk: its writes stand; it is performed, with its status bits, or the transfer stops at it. -/
def endChunk (c x i cnt : Nat) (st : BitVec 32) (w : Written) : State :=
  let s := clearGranules (clearLines w.st w.places.mem) (w.st.blockNo (.phrase c x)) w.places.slots
  match w.fail with
  | some f => stopSlot s c x i f.cause.code f.cause.stopDetail f.kind f.addr
  | none =>
    modSlot (modCtx s (.phrase c x) fun p => { p with status := p.status ||| st }) c x i fun l =>
      { l with cursor := l.cursor + cnt, asked := false, leave := false, sent := none }

/-- The elements of a transfer's walk in the chunk at its cursor. -/
def chunkElems (l : PhSlot) (m : Nat) : List Nat := (List.range (chunkCount l * m)).map fun e => l.cursor * m + e

/-- A fabric chunk (R387, R388): a write sends its bytes, a read its request; the answer performs it. -/
def fabChunk (r : Run) (c x i : Nat) (s : State) (pkg : Dword) (base : Dword) (write : Bool) : State :=
  let pkg := pkg.setWidth 16
  let n := chunkBytes r.l
  let va := base + BitVec.ofNat 64 (r.l.cursor * r.l.esz)
  let kind := if write then 1 else 0
  let die := dieOfCore c
  if r.l.cursor = 0 ∧ !fabricTo s pkg.toNat then stopSlot s c x i cPROT 9 kind va
  else if 2 ^ 57 < va.toNat + n then stopSlot s c x i cPROT 4 kind va
  else if flowFull s die pkg.toNat then s
  else
    let put (s : State) (k : Nat) (data : List Byte) : State :=
      let tag := s.sys.tagNo
      let s := s.modSys fun y => { y with tagNo := tag + 1 }
      modSlot (sendFrame s die pkg.toNat k va (BitVec.ofNat 64 n) tag data (.chunk c x i)) c x i fun l =>
        { l with sent := some tag }
    if write then
      match readElems r r.l.src (chunkElems r.l 1) s with
      | .error f => stopSlot s c x i f.cause.code f.cause.stopDetail f.kind f.addr
      | .ok (es, st, s) => put (modCtx s r.a fun p => { p with status := p.status ||| st }) 0 (es.flatMap id)
    else put s 1 []

/-- Performs the chunk at the cursor of a slot: every source byte is read, then every destination byte is written. -/
def performChunk (s : State) (c x i : Nat) (l : PhSlot) : State :=
  let r : Run := { a := .phrase c x, l := l }
  let cnt := chunkCount l
  let stop (f : ChunkFail) : State := stopSlot s c x i f.cause.code f.cause.stopDetail f.kind f.addr
  match shapeOf l.opc with
  | .xfer =>
    match l.dst, l.src with
    | .fab p b, _ => fabChunk r c x i s p b true
    | _, .fab p b => fabChunk r c x i s p b false
    | _, _ =>
      let es := chunkElems l 1
      match readElems r l.src es s with
      | .error f => stop f
      | .ok (bs, st, s) => endChunk c x i cnt st (writeElems r s l.dst (es.zip bs))
  | .push =>
    match l.dst, readElems r l.src (chunkElems l 32) s with
    | _, .error f => stop f
    | .port q, .ok (bs, st, s) =>
      let entry := bs.map fun b => BitVec.ofNat 32 (leNat b)
      match s.block? (s.blockNo r.a) with
      | some k =>
        endChunk c x i cnt st
          { st := s.setBlock (s.blockNo r.a) { k with ports := tput q (tget [] q k.ports ++ [entry]) k.ports },
            places := Places.none, fail := none }
      | none => s
    | _, .ok _ => s
  | .gather =>
    let rec' := indexRec l.src
    let o := match l.src with
      | .mem _ _ o => (o.getD 0 0).toNat
      | _ => 0
    match readIndices r rec' o ((List.range cnt).map fun k => l.cursor + k) s with
    | .error f => stop f
    | .ok (is, s1) =>
      match readRows r rec' is s1 with
      | .error f => stop f
      | .ok (bs, s2) =>
        endChunk c x i cnt (is.foldl (fun m y => m ||| y.status) 0)
          (writeElems r s2 l.dst ((chunkElems l (rec'.extent 0)).zip bs))
  | .scatter =>
    let rec' := indexRec l.dst
    let o := match l.dst with
      | .mem _ _ o => (o.getD 0 0).toNat
      | _ => 0
    match readIndices r rec' o ((List.range cnt).map fun k => l.cursor + k) s with
    | .error f => stop f
    | .ok (is, s1) =>
      let n := rec'.extent 0
      match readElems r l.src (chunkElems l n) s1 with
      | .error f => stop f
      | .ok (bs, st, s2) =>
        endChunk c x i cnt (is.foldl (fun m y => m ||| y.status) st)
          ((is.zip (List.range is.length)).foldl
            (fun w y => writeRow r rec' w y.1 ((bs.drop (y.2 * n)).take n)) { st := s2, places := Places.none, fail := none })

/-- An earlier, uncompleted transfer of the program overlaps one that has not begun (R215). -/
def mustFollow (s : State) (c x i : Nat) (p : PCtx) (l : PhSlot) : Bool :=
  l.cursor = 0 && p.slots.any fun y => y.1 ≠ i && decide (y.2.order < l.order) && overlaps s c x i y.1 l y.2

/-! ### Transfers that run on (R194, R227) -/

/-- Slots in the order of issue. -/
def byOrder (l : Tab PhSlot) : List (Nat × PhSlot) :=
  let put (y : Nat × PhSlot) (l : List (Nat × PhSlot)) : List (Nat × PhSlot) :=
    (l.takeWhile fun x => decide (x.2.order ≤ y.2.order)) ++ y :: l.dropWhile fun x => decide (x.2.order ≤ y.2.order)
  l.foldr put []

/-- The transfer fills a tile. -/
def PhSlot.fills (l : PhSlot) : Bool :=
  match l.dst with
  | .tile _ _ => true
  | _ => false

/-- The transfer drains a tile. -/
def PhSlot.drains (l : PhSlot) : Bool :=
  match l.src with
  | .tile _ _ => true
  | _ => false

/-- Transfer `z` of a context comes before `y`, which has not begun and has to follow it (R215). -/
def precedes (s : State) (c x : Nat) (z y : Nat × PhSlot) : Bool :=
  y.2.cursor = 0 && decide (z.2.order < y.2.order) && overlaps s c x y.1 z.1 y.2 z.2

/-- The slots of a context whose transfers can complete while its block is in memory: those with their locks that stand on no fault,
drain no tile, and follow only such ones. -/
def canRunOn (s : State) (c x : Nat) (p : PCtx) : List Nat :=
  (byOrder p.slots).foldl
    (fun acc y =>
      if y.2.locked && !y.2.stopped && !y.2.drains && !p.slots.any fun z => precedes s c x z y && !acc.contains z.1 then acc ++ [y.1]
      else acc) []

/-- The slots of a context whose transfers run on to completion while its block is in memory: those that fill a tile, and those that
such a one has to follow (R215, R227; notes/assumptions/55.md). -/
def runOns (s : State) (c x : Nat) (p : PCtx) : List Nat :=
  let can := canRunOn s c x p
  ((byOrder p.slots).reverse.foldl
    (fun (acc : List (Nat × PhSlot)) y =>
      if can.contains y.1 && (y.2.fills || acc.any fun z => precedes s c x y z) then y :: acc else acc) []).map Prod.fst

/-- The transfer in a slot performs its chunks: its block stands on the core, or it runs on into the block's save area. -/
def runsOn (s : State) (c x i : Nat) (p : PCtx) : Bool :=
  match s.block? p.block with
  | some k => if k.resident then placed s (.phrase c x) else (runOns s c x p).contains i
  | none => false

/-- A chunk of a transfer asks for leave, or, with leave, is performed (R215, R264); a push whose port is full makes its context wait
(R234); else nothing happens. -/
def phraseChunk (core ctx slot : Nat) (s : State) : State :=
  let a := Agent.phrase core ctx
  let d := dieOfCore core
  match ctxOf s a with
  | none => s
  | some p =>
    match tlook slot p.slots with
    | none => s
    | some l =>
      let idle := !l.locked || l.stopped || l.sent.isSome || decide (l.n ≤ l.cursor)
      if idle || !runsOn s core ctx slot p || (stoppedOn s d (s.asidOf a) && !l.leave) || mustFollow s core ctx slot p l then s
      else if !portRoom s a l then
        match l.dst with
        | .port q => awaitPort s a q
        | _ => s
      else if l.leave then performChunk s core ctx slot l
      else if l.asked then s
      else
        askLeave (modSlot s core ctx slot fun l => { l with asked := true }) d (.chunk core ctx slot) (chunkCost l)
          (gridPrio s (s.gridNo a))

/-- Returns the tiles of a transfer to `READY`. -/
def freeTiles (k : Block) (d x : Endpoint) : Block :=
  let free (k : Block) (y : Endpoint) : Block :=
    match y with
    | .tile t _ => k.setTile t { k.tile t with st := .ready, by' := .nobody }
    | _ => k
  free (free k d) x

/-- The descriptors of a transfer's tiles go to the image of a block that stands in memory; a place that cannot be written is
not. -/
def putTileWords (s : State) (k : Block) (l : List Endpoint) : State :=
  l.foldl
    (fun s y =>
      match y with
      | .tile t _ =>
        match putSaved s k (tileImageAt + 0x40 + 8 * t) (leBytes 8 (k.tile t).word.toNat) with
        | .ok x => x.2
        | .error _ => s
      | _ => s) s

/-- A context left on a core with a block in memory goes with the last transfer that ran on, and what it has to tell goes to the
saved context (R227). -/
def dropIdle (s : State) (core ctx : Nat) : State :=
  match tlook ctx (s.core core).pctx with
  | none => s
  | some p =>
    match s.block? p.block with
    | none => s
    | some k =>
      if k.resident ∨ !p.slots.isEmpty then s
      else
        let keep (y : SavedCtx) : SavedCtx :=
          if y.ctx = ctx then { y with p := { y.p with status := y.p.status ||| p.status, last := p.last } } else y
        (s.setBlock p.block { k with saved := k.saved.map keep }).setCore core
          { s.core core with pctx := tdel ctx (s.core core).pctx }

/-- A transfer whose last chunk is performed completes: its locks are released, its tiles are `READY`, on the core or in the saved
image, and its slot is free (R194, R215, R227). -/
def completeSlot (s : State) (core ctx slot : Nat) (l : PhSlot) : State :=
  let a := Agent.phrase core ctx
  let d := dieOfCore core
  let s := s.setDie d { s.die d with locks := (s.die d).locks.filter fun x => x.owner ≠ .slot core ctx slot }
  let s := match s.block? (s.blockNo a) with
    | some k =>
      let k := freeTiles k l.dst l.src
      let s := s.setBlock (s.blockNo a) k
      if k.resident then s else putTileWords s k [l.dst, l.src]
    | none => s
  dropIdle (modCtx s a fun p =>
    { p with slots := tdel slot p.slots, last := p.last.map fun x => if x.1 = l.order then (x.1, x.2.1, l.cursor) else x })
    core ctx

def execPhraseTransferComplete (core ctx slot : Nat) (s : State) : Host.Outcome State Fault Refusal :=
  match (ctxOf s (.phrase core ctx)).bind fun p => tlook slot p.slots with
  | none => .next s
  | some l => .next (if l.locked && !l.stopped && decide (l.n ≤ l.cursor) then completeSlot s core ctx slot l else s)

end Sys2Proof.Machine
end

