-- ==== Sys2Proof/Machine/Evict.lean ====
section
/-!
DEFINITION. Context switch: the records of groups, blocks, matrix streams, tile windows and phrase contexts (R143, R144, R173 to
R175, R195, R196, R228, R229, R260, R361), partial and full eviction (R171, R172), restore (R176), the row of the progress rule
(R148), and the instruction `CTXS` (R374).
-/
namespace Sys2Proof.Machine

/-! ### Bytes and tables -/

/-- `n` bytes from key `p` on of a table whose unlisted keys are zero and whose keys do not lie below `p`. -/
def denseFrom : Nat → Nat → Tab Byte → List Byte
  | 0, _, _ => []
  | n + 1, p, [] => 0 :: denseFrom n (p + 1) []
  | n + 1, p, (k, v) :: r => if k = p then v :: denseFrom n (p + 1) r else 0 :: denseFrom n (p + 1) ((k, v) :: r)

/-- The table of bytes from key 0 on. -/
def sparseOf (bs : List Byte) : Tab Byte := ((List.range bs.length).zip bs).filter fun x => x.2 ≠ 0

/-- The 32-bit words of bytes. -/
def wordsOf : List Byte → List Nat
  | a :: b :: c :: d :: r => leNat [a, b, c, d] :: wordsOf r
  | _ => []

/-- `n` 32-bit words at a byte offset. -/
def wordsAt (ws : List Nat) (off n : Nat) : List Nat := (ws.drop (off / 4)).take n

def wordAt (ws : List Nat) (off : Nat) : Nat := ws.getD (off / 4) 0

def dwordAt (ws : List Nat) (off : Nat) : Dword := BitVec.ofNat 64 (wordAt ws off + 2 ^ 32 * wordAt ws (off + 4))

/-- Pairs of words as 64-bit values. -/
def pairsOf : List Nat → List Dword
  | a :: b :: r => BitVec.ofNat 64 (a + 2 ^ 32 * b) :: pairsOf r
  | _ => []

/-- The halves of words. -/
def halfWords (ws : List Nat) : List (BitVec 16) := ws.flatMap fun w => [BitVec.ofNat 16 w, BitVec.ofNat 16 (w / 65536)]

/-- A table of numbered values, a zero not listed. -/
def numbered {n : Nat} (l : List (BitVec n)) : Tab (BitVec n) := ((List.range l.length).zip l).filter fun x => x.2 ≠ 0

/-- The same with 32 lanes to a register: key 64 times the register plus the lane. -/
def laneTable (l : List Word) : Tab Word := (numbered l).map fun x => (64 * (x.1 / 32) + x.1 % 32, x.2)

/-! ### Wait codes (R142, R229) -/

/-- The code of a wait; a wait that has none is recorded as 0 and its word issues again. -/
def Wait.code : Wait → Nat
  | .none | .halt | .remote => 0
  | .dep => 1
  | .bar => 2
  | .tile => 3
  | .clause => 4
  | .queue => 5
  | .fault => 6
  | .sleep => 7
  | .vrec => 8
  | .join => 9
  | .batch => 10
  | .kern => 11
  | .lockTable => 12
  | .pcur => 13
  | .own => 14

/-- The wait of a code that a group resumes; `DEP` and `CLAUSE` are met again by the word itself. -/
def groupWait (c : Nat) : Wait :=
  match c with
  | 2 => .bar
  | 3 => .tile
  | 5 => .queue
  | 6 => .fault
  | 7 => .sleep
  | 8 => .vrec
  | 9 => .join
  | 10 => .batch
  | 11 => .kern
  | _ => .none

/-- The wait of a code that a matrix stream resumes. -/
def streamWait (c : Nat) : Wait :=
  match c with
  | 2 => .bar
  | 3 => .tile
  | 6 => .fault
  | 11 => .kern
  | _ => .none

/-- The wait of a code that a phrase context resumes: a fault is met again (R227), and a wait for its own transfers by the word. -/
def contextWait (c : Nat) : Wait :=
  match c with
  | 2 => .bar
  | 3 => .tile
  | 5 => .queue
  | 11 => .kern
  | 12 => .lockTable
  | 13 => .pcur
  | _ => .none

/-- The wait code and number of an agent: of a barrier, a tile or a port. A group's `own` wait has no code. -/
def waitFields (t : Thread) (grp : Bool) : Dword :=
  let c := if grp && decide (12 ≤ t.wait.code) then 0 else t.wait.code
  let g := if t.wait = .bar ∨ t.wait = .tile ∨ t.wait = .queue then t.warg.toNat else 0
  dfield c 56 5 ||| dfield g 50 6

/-- The cause of a parked trap. -/
def Thread.parkedCause (t : Thread) : Nat := if t.onTrap then t.cause.toNat else 0

/-! ### The record of a group (R143, R144) -/

/-- The header word of an evicted group. -/
def groupHeader (t : Thread) (g : Nat) : Dword :=
  dfield 4 61 3 ||| waitFields t true ||| dfield (t.nalloc / 32) 44 6 ||| dfield t.parkedCause 32 8 ||| dfield t.prio.toNat 24 3 |||
    dfield g 16 5 ||| dfield t.vdepth.toNat 14 2

/-- The 272 bytes of a replay entry. -/
def replayBytes (r : Option Replay) : List Byte :=
  match r with
  | none => List.replicate 272 0
  | some r => bytesOfWord r.word ++ leBytes 4 r.lanes.toNat ++ (List.range 32).flatMap fun l => leBytes 8 (tget 0 l r.addrs).toNat

/-- `n` registers of 32 lanes from register `a` on. -/
def vectorBytes (t : Thread) (a n : Nat) : List Byte :=
  (List.range n).flatMap fun i => (List.range 32).flatMap fun l => leBytes 4 (t.getV (a + i) l).toNat

/-- `n` scalar registers from register `a` on. -/
def scalarBytes (t : Thread) (a n : Nat) : List Byte := (List.range n).flatMap fun i => leBytes 8 (t.getS (a + i)).toNat

/-- `8` codebook registers of 16 entries. -/
def codebookBytes (k : Tab (BitVec 16)) : List Byte := (List.range 128).flatMap fun i => leBytes 2 (tget 0 i k).toNat

/-- The record of group `g` with registers `t`. -/
def groupRecord (t : Thread) (g : Nat) : List Byte :=
  let trap (n : Nat) : Nat := if t.onTrap then n else 0
  leBytes 8 (groupHeader t g).toNat ++ leBytes 8 t.pc.toNat ++ leBytes 4 t.exm.toNat ++ leBytes 4 t.live.toNat ++
    leBytes 4 t.help.toNat ++ leBytes 4 t.gst.toNat ++ leBytes 4 t.sleep ++ leBytes 4 t.ready ++ leBytes 8 t.age ++
    leBytes 4 (trap t.detail.toNat) ++ leBytes 4 0 ++ leBytes 4 (trap t.tlanes.toNat) ++ leBytes 4 0 ++
    leBytes 8 (trap t.cdetail.toNat) ++ List.replicate 56 0 ++
    ((List.range 32).flatMap fun l => leBytes 4 (tget 0 l t.origid).toNat) ++
    ((List.range 16).flatMap fun n => leBytes 4 (t.getP n).toNat) ++ scalarBytes t xsBase 8 ++ codebookBytes t.k ++
    replayBytes t.replay ++ List.replicate 112 0 ++ vectorBytes t xvBase 8 ++ scalarBytes t 0 256 ++ vectorBytes t 0 t.nalloc

/-- The replay entry that a record holds for a group: the recorded word and lanes belong to the pc of the entry that was saved;
it issues at once where the group goes on at that pc, and is discarded where it goes on elsewhere outside a handler (R163). -/
def restoredReplay (old : Option Replay) (ws : List Nat) (pc : Dword) (sup ready : Bool) : Option Replay :=
  let m := BitVec.ofNat 64 (wordAt ws 0x28C)
  if m = 0 then none
  else
    let at' := old.elim pc Replay.pc
    if at' ≠ pc ∧ !sup then none
    else
      some { word := BitVec.ofNat 96 (wordAt ws 0x280 + 2 ^ 32 * wordAt ws 0x284 + 2 ^ 64 * wordAt ws 0x288), pc := at',
             lanes := m, addrs := numbered (pairsOf (wordsAt ws 0x290 64)), armed := ready && at' = pc,
             deferred := old.elim false Replay.deferred }

/-- The number of a batch wait whose word the state does not know: the word issues again once a batch may be sealed. -/
def batchMark : BitVec 6 := 14

/-- The registers that a record gives a group, with the group's own unrecorded fields kept; `EXM` and `HELP` stay within
`LIVE` (R63), and reserved bits of `GST` read 0 (R69). A group whose trap left a replay
entry at its pc issues it at once; every other wait is resumed (R163, R176). -/
def restoreGroup (t : Thread) (bs : List Byte) : Thread :=
  let ws := wordsOf bs
  let h := dwordAt ws 0
  let pc := dwordAt ws 8
  let w := groupWait (dbits h 56 5)
  let live := BitVec.ofNat 64 (wordAt ws 0x14)
  let gst := BitVec.ofNat 32 (wordAt ws 0x1C) &&& (0x80000000#32 ||| gstMask)
  let r := restoredReplay t.replay ws pc (gst.getLsbD 31) (w = .none || w = .fault)
  let w := if w = .fault ∧ (r.elim false Replay.armed) then .none else w
  let g := if w ≠ .batch then BitVec.ofNat 6 (dbits h 50 6) else if t.wait = .batch then t.warg else batchMark
  { t with
    pc := pc, exm := BitVec.ofNat 64 (wordAt ws 0x10) &&& live, live := live,
    help := BitVec.ofNat 64 (wordAt ws 0x18) &&& live, gst := gst, sleep := wordAt ws 0x20, ready := wordAt ws 0x24,
    age := (dwordAt ws 0x28).toNat, detail := BitVec.ofNat 32 (wordAt ws 0x30), tlanes := BitVec.ofNat 64 (wordAt ws 0x38),
    cdetail := dwordAt ws 0x40, cause := BitVec.ofNat 8 (dbits h 32 8),
    origid := numbered ((wordsAt ws 0x80 32).map (BitVec.ofNat 32)),
    p := numbered ((wordsAt ws 0x100 15).map (BitVec.ofNat 64)), xs := numbered (pairsOf (wordsAt ws 0x140 16)),
    k := numbered (halfWords (wordsAt ws 0x180 64)), replay := r,
    xv := laneTable ((wordsAt ws 0x400 256).map (BitVec.ofNat 32)), s := numbered (pairsOf (wordsAt ws 0x800 512)),
    v := laneTable ((wordsAt ws 0x1000 (32 * t.nalloc)).map (BitVec.ofNat 32)), wait := w, warg := g, gstate := if w = .none then .pending else .swapped, latch := none, depWait := 0, waited := 0 }

/-- A barrier wait of an evicted group that a completion has ended meanwhile is over when the group returns: it goes on after the
word (R171, R176). -/
def endedWait (k : Block) (g : Nat) (t : Thread) : Thread :=
  if k.barDone.getLsbD g ∧ t.wait = .bar then { t.advance with wait := .none, warg := 0, gstate := .pending } else t

/-! ### The other records -/

/-- The header word of a block context record (R174). -/
def blockHeader (k : Block) : Dword :=
  dfield 1 56 8 ||| dfield k.asid.toNat 40 16 ||| dfield k.ngrp 32 6 ||| dfield k.core 16 16 ||| dfield (k.nalloc / 32) 8 6 |||
    (if k.hasMs then 2 else 0) ||| (if k.hasAp then 1 else 0)

/-- A barrier in the record (R173, R175). -/
def barrierBytes (b : Barrier) : List Byte :=
  leBytes 8 ((if b.ph then dfield 1 63 1 else 0) ||| dfield b.exp 32 16 ||| dfield b.cnt 16 16).toNat ++ leBytes 8 b.arr.toNat ++
    leBytes 8 b.tv.toNat ++ leBytes 8 b.tp.toNat

/-- The block context record (R173); `base` is the save area. -/
def blockRecord (s : State) (k : Block) (base : Nat) : List Byte :=
  let l := k.layout
  leBytes 8 (blockHeader k).toNat ++ leBytes 8 k.blkno.toNat ++ leBytes 8 ((s.grid? k.grid).elim 0 fun g => g.recAddr.toNat) ++
    leBytes 4 k.tol.toNat ++ leBytes 4 k.vc.toNat ++ leBytes 4 k.tctl.toNat ++ leBytes 4 k.notEnded.toNat ++
    leBytes 4 k.inMem.toNat ++ leBytes 4 0 ++ leBytes 8 k.spadBytes ++ leBytes 8 (base + l.2.2.1) ++ leBytes 8 (base + l.2.1) ++
    leBytes 8 (groupRecBytes k.nalloc) ++ leBytes 8 (base + 0x400) ++ leBytes 8 (base + 0x800) ++ leBytes 8 (base + 0x1B400) ++
    leBytes 8 (base + l.1) ++ List.replicate 144 0 ++ (List.range 16).flatMap fun n => barrierBytes (k.bar n)

/-- The state of a matrix stream or phrase context in its header: 0 running, 1 waiting, 2 parked on a trap, 3 ended. -/
def streamState (t : Thread) : Nat :=
  if t.gstate = .ended then 3 else if t.onTrap then 2 else if t.wait = .none then 0 else 1

/-- The matrix-stream state (R195). -/
def streamRecord (t : Thread) (k : Block) : List Byte :=
  let h := dfield (streamState t) 61 3 ||| waitFields t true ||| (if t.msup then dfield 1 49 1 else 0) ||| dfield t.parkedCause 32 8
  leBytes 8 h.toNat ++ leBytes 8 t.pc.toNat ++ List.replicate 48 0 ++ scalarBytes t 0 64 ++ codebookBytes k.cbs

/-- The tile window image (R196). -/
def tileImage (k : Block) : List Byte :=
  let ts := List.range k.nt
  leBytes 8 (dfield k.nt 0 7 ||| dfield k.ns 16 12).toNat ++ List.replicate 56 0 ++
    padTo 512 (ts.flatMap fun n => leBytes 8 (k.tile n).word.toNat) ++
    padTo 256 (ts.flatMap fun n => leBytes 4 (k.tile n).vstat.toNat) ++ List.replicate 192 0 ++ denseFrom (256 * k.ns) 0 k.slots

/-- The first two registers of an endpoint's run (R229). -/
def endRun : Endpoint → List Dword
  | .mem r _ o => [r, o.getD 0 0]
  | .spad a => [a, 0]
  | .fab p a => [p, a]
  | _ => [0, 0]

/-- The origin of an endpoint. -/
def endOrigin : Endpoint → List Dword
  | .mem _ _ o => (List.range 5).map fun i => o.getD i 0
  | _ => List.replicate 5 0

/-- A transfer slot in a context record. -/
def slotBytes (x : Option PhSlot) : List Byte :=
  match x with
  | none => List.replicate 128 0
  | some l =>
    let run (y : Endpoint) : List Byte := (endRun y).flatMap fun v => leBytes 8 v.toNat
    let org (y : Endpoint) : List Byte := (endOrigin y).flatMap fun v => leBytes 4 v.toNat
    padTo 128 (bytesOfWord (wordOf l.opc l.f) ++ leBytes 4 (if l.stopped then 2 else 1) ++ leBytes 8 l.n ++ leBytes 8 l.cursor ++
      run l.dst ++ org l.dst ++ leBytes 4 0 ++ run l.src ++ org l.src)

/-- A phrase context record (R229); `fresh` is one that has not started. -/
def contextRecord (p : PCtx) (t : Thread) (fresh : Bool) : List Byte :=
  let v := (List.range 8).foldl (fun a i => if (tlook i p.slots).isSome then a + 2 ^ i else a) 0
  let t := if p.transferStopped ∧ t.wait = .none then { t with wait := .fault } else t
  let h := dfield (if fresh then 4 else streamState t) 61 3 ||| waitFields t false ||| dfield (if p.launched then 1 else 0) 48 2 |||
    dfield p.issuer 43 5 ||| dfield t.parkedCause 32 8 ||| dfield v 0 8
  leBytes 8 h.toNat ++ leBytes 8 t.pc.toNat ++ leBytes 8 p.batch.toNat ++ leBytes 8 p.status.toNat ++ List.replicate 32 0 ++
    scalarBytes t 0 64 ++ List.replicate 448 0 ++ (List.range 8).flatMap fun i => slotBytes (tlook i p.slots)

/-- The batches of a group in the phrase state area (R228); the number of the oldest unfinished batch is 0 where none is unfinished
(DESIGN CHOICE, notes/assumptions/90.md). -/
def batchBytes (x : Batches) : List Byte :=
  leBytes 4 x.ob.num.toNat ++ leBytes 4 (x.sealedB.head?.elim 0 fun b => b.num.toNat) ++ leBytes 4 (x.sealedB.length % 256) ++
    leBytes 4 x.acc.toNat

/-- The launched contexts that the area has room for (R361). -/
def areaContexts : Nat := 48

/-- The phrase state area (R228) of a block whose contexts and requests are saved. -/
def phraseArea (k : Block) : List Byte :=
  let ap := k.saved.filter fun x => !x.p.launched
  let run := (k.saved.filter fun x => x.p.launched).map fun x => contextRecord x.p x.t false
  let new := k.requests.map fun r => contextRecord (requestCtx r 0).1 (requestCtx r 0).2 true
  let l := (run ++ new).take areaContexts
  let port (q : Nat) : List (List Word) := tget [] q k.ports
  leBytes 8 (l.length + if k.hasAp then 256 else 0) ++ List.replicate 56 0 ++
    ((List.range 32).flatMap fun g => batchBytes (k.batchesOf g)) ++
    ((List.range 16).map fun q => BitVec.ofNat 8 (port q).length) ++ List.replicate 432 0 ++
    ((List.range 16).flatMap fun q => (List.range 4).flatMap fun i =>
      padTo 128 (((port q).getD i []).flatMap fun w => leBytes 4 w.toNat)) ++
    padTo 2048 (ap.flatMap fun x => contextRecord x.p x.t false) ++ l.flatMap id

/-- The held-clause list (R260). -/
def clauseList (s : State) (b : Nat) (k : Block) : List Byte :=
  let l := (List.range k.ngrp).flatMap fun g => heldClauses s b g
  leBytes 8 l.length ++ List.replicate 8 0 ++ l.flatMap HeldEnt.bytes

/-! ### Eviction of a group (R171, R259, R325, R362) -/

/-- Writes part of a save area; a place that cannot be written is not. -/
def saveWrite (s : State) (k : Block) (off : Nat) (bs : List Byte) : State :=
  match s.virtWrite (saveTlb k) k.asid Cls.plain (saveBase s k + off) bs with
  | .ok s => s
  | .error _ => s

/-- A held fault of a group leaves the hold (R325). -/
def dropHeld (s : State) (a : Agent) : State :=
  match a, s.block? (s.blockNo a), s.grid? (s.gridNo a) with
  | .group _ g, some k, some gr =>
    let d := s.dieNo a
    let x := s.die d
    s.setDie d { x with held := x.held.filter fun r =>
      !(r.agent = 0 && r.asid = k.asid && r.blkno = k.blkno && r.gridRec = gr.recAddr && r.grpno = g) }
  | _, _, _ => s

/-- A swap of which the group is part is over. -/
def dropSwap (s : State) (a : Agent) : State :=
  let c := s.coreNo a
  s.setCore c { s.core c with swaps := (s.core c).swaps.filter fun w => w.2.inn ≠ some a && w.2.out ≠ some a }

/-- The word at an agent's pc, as memory holds it; 0 where it cannot be read. -/
def wordAtPc (s : State) (a : Agent) (t : Thread) : BitVec 96 :=
  let b := tlbAt s a
  let part (va : Nat) : List Byte :=
    match s.check b (s.asidOf a) (physicalOf s a) (kernelCode s a) false .fetch false va 4 with
    | .ok p _ _ => readBytes s.homeByte p 4
    | .fail _ => List.replicate 4 0
  (wordOfBytes ([0, 4, 8].flatMap fun i => part (t.pc.toNat + i))).getD 0

/-- Results on the way are written before a group's record is; one with uncorrectable data traps first (R142, R327). -/
def settleResults (s : State) (a : Agent) : State :=
  match s.thread? a with
  | none => s
  | some t => if t.late?.isSome then takeTrap s a (wordAtPc s a t) (Trap.all cECCU 0 0) else s.setThread a t.drain

/-- Group `g` of block `b` goes to memory. A `YIELD` of it that is not over is dropped, since the record of R143 has no place for the
groups that it stands aside for (DESIGN CHOICE, notes/assumptions/96.md). -/
def evictGroup (s : State) (b g : Nat) : State :=
  let a := Agent.group b g
  match s.block? b, s.thread? a with
  | some k, some t =>
    if t.gstate = .ended ∨ t.gstate = .evicted then s
    else
      let s := (finishJob s a).release k.core .pkg
      let s := dropSwap (settleResults (withdrawClent s b g) a) a
      match s.thread? a with
      | none => s
      | some u =>
        let r := if t.wait = .clause then { u with wait := .clause } else u
        let s := saveWrite s k (k.layout.2.1 + g * groupRecBytes k.nalloc) (groupRecord r g)
        let s := if u.wait = .fault then dropHeld s a else s
        let s := s.setThread a { u with gstate := .evicted, latch := none, yieldTo := [], yielding := false, remote := none, depWait := 0 }
        match s.block? b with
        | some k => s.setBlock b { k with inMem := k.inMem ||| bitMask g }
        | none => s
  | _, _ => s

/-- The save area of a block can be written, from `off` on for `n` bytes; else the cause and the address. -/
def saveCheck (s : State) (k : Block) (off n : Nat) : Except (Cause × Nat) State :=
  match virtRange (saveTlb k) .write k.asid s (piecesOf (saveBase s k + off) n) with
  | .error e => .error e
  | .ok (_, s) => .ok s

/-! ### Partial eviction (R171) -/

/-- The place of a state in the choice of victims. -/
def GState.rank : GState → Nat
  | .swapped => 3
  | .pending => 2
  | .parked => 1
  | _ => 0

/-- The groups of a context that a core may evict, the one that asks not among them. -/
def victims (s : State) (core : Nat) (asid : BitVec 16) (self : Agent) : List (Agent × Thread) :=
  s.threads.filter fun x =>
    match x.1 with
    | .group _ _ =>
      x.1 ≠ self && s.coreNo x.1 = core && s.asidOf x.1 = asid && !physicalOf s x.1 && (inActiveSet x.2 || inStore x.2)
    | _ => false

/-- The next victim: by state, then lowest effective priority, then youngest. -/
def nextVictim (l : List (Agent × Thread)) : Option (Agent × Thread) :=
  bestBy (fun x => (16 * x.2.gstate.rank + (15 - x.2.effPrio)) * 2 ^ 64 + x.2.age) l

/-- The free room of a core in registers: near registers, and group store at 128 bytes a register. -/
def freeRegs (s : State) (core : Nat) : Nat :=
  ((List.range 16).map fun i => 1024 - (sliceUse s core i).2).foldl (· + ·) 0 + storeFree s core / 128

/-- Evicts groups of a context from a core until the room is reached or none remain; it ends at a save area that cannot be
written. -/
def partialEvict (core need : Nat) (asid : BitVec 16) (self : Agent) : Nat → State → Except (Cause × Nat) State
  | 0, s => .ok s
  | n + 1, s =>
    if need ≤ freeRegs s core then .ok s
    else
      match nextVictim (victims s core asid self) with
      | some (.group b g, t) =>
        match s.block? b with
        | none => .ok s
        | some k =>
          match saveCheck s k (k.layout.2.1 + g * groupRecBytes k.nalloc) (groupRecBytes t.nalloc) with
          | .error e => .error e
          | .ok s => partialEvict core need asid self n (evictGroup s b g)
      | _ => .ok s

/-- A group's record in memory. -/
def readGroupRec (s : State) (b : TlbAt) (k : Block) (g : Nat) : Except (Cause × Nat) (List Byte × State) :=
  s.virtRead b k.asid Cls.plain (saveBase s k + k.layout.2.1 + g * groupRecBytes k.nalloc) (groupRecBytes k.nalloc)

/-- An evicted group whose block is on a core returns to its group store where there is room (R171, R277, R362); else nothing
happens. -/
def execEvictedGroupReturn (a : Agent) (s : State) : Host.Outcome State Fault Refusal :=
  match a, s.thread? a, s.block? (s.blockNo a) with
  | .group b g, some t, some k =>
    if t.gstate ≠ .evicted ∨ !k.resident ∨ storeFree s k.core < groupRecBytes t.nalloc ∨ 48 ≤ sliceHeld s k.core (sliceOf s b g) then
      .next s
    else
      match readGroupRec (s.acquire k.core .pkg) (saveTlb k) k g with
      | .error _ => .next s
      | .ok (bs, u) =>
        let v := (u.setThread a (endedWait k g (restoreGroup t bs))).setBlock b
          { k with inMem := k.inMem &&& ~~~bitMask g, barDone := k.barDone &&& ~~~bitMask g }
        .next (if reserveKept s v (k.core / 96) t.vdepth.toNat then v else s)
  | _, _, _ => .next s

/-! ### Full eviction (R172, R194, R227) -/

/-- The next state of an outcome that has one. -/
def stateOf (s : State) (o : Host.Outcome State Fault Refusal) : State :=
  match o with
  | .next s => s
  | _ => s

/-- The contexts of a block on its core. -/
def blockContexts (s : State) (b : Nat) (k : Block) : List (Nat × PCtx) := (s.core k.core).pctx.filter fun x => x.2.block = b

/-- The matrix instruction of the block that is in progress completes, and a queued one is given back to the stream, which waits on
the tile that is not ready, if there is one; of several, on the first of `D`, `A`, `B` (R194, R195; DESIGN CHOICE,
notes/assumptions/86.md). -/
def finishMatrix (s : State) (b : Nat) (k : Block) : State :=
  let s := if (s.core k.core).mx.any fun j => j.block = b then stateOf s (execMatrixComplete k.core s) else s
  match s.block? b with
  | some k =>
    match k.mq with
    | none => s
    | some m =>
      let s := withdrawLeave (s.setBlock b { k with mq := none }) (dieOfCore k.core) fun w => match w with
        | .matrix b' => b' = b
        | _ => false
      match (mxTiles m.f).find? fun n => (k.tile n).st = .filling || (k.tile n).st = .draining with
      | some n => park s (.mstream b) .tile n
      | none => wake s (.mstream b)
  | none => s

/-- A slot as it is saved: having asked for nothing. -/
def PhSlot.quiet (l : PhSlot) : PhSlot := { l with asked := false, leave := false }

/-- The phrase contexts and requests of a block leave its core and stand with the block; their locks and tile states stay. The
transfers that run on keep their context numbers on the core, as do those in a fabric chunk, which are saved at its end
(`settleSlot`; R227). -/
def savePhrases (s : State) (b : Nat) (k : Block) : State :=
  let xs := blockContexts s b k
  let flying (p : PCtx) : List Nat := (p.slots.filter fun y => y.2.sent.isSome).map Prod.fst
  let ons := xs.map fun x => (x.1, runOns s k.core x.1 x.2 ++ flying x.2)
  let goes (c x i : Nat) : Bool := c = k.core && ons.any fun y => y.1 = x && !y.2.contains i
  let place (x : Nat) : Nat := (xs.map Prod.fst).findIdx fun y => y = x
  let part (x : Nat) (p : PCtx) (on : Bool) : Tab PhSlot := p.slots.filter fun y => goes k.core x y.1 != on
  let l := xs.map fun x =>
    { ctx := x.1, p := { x.2 with running := false, slots := (part x.1 x.2 false).map fun y => (y.1, y.2.quiet) },
      t := (s.thread? (.phrase k.core x.1)).getD (Thread.launch 0 0 1 0) : SavedCtx }
  let left (x : Nat × PCtx) : Option (Nat × PCtx) :=
    if x.2.block ≠ b then some x
    else if (part x.1 x.2 true).isEmpty then none
    else some (x.1, { x.2 with running := false, status := 0, slots := part x.1 x.2 true })
  let d := dieOfCore k.core
  let s := s.setDie d { s.die d with locks := (s.die d).locks.map fun r => match r.owner with
    | .slot c x i => if goes c x i then { r with owner := .saved b (place x) i } else r
    | _ => r }
  let s := withdrawLeave s d fun w => match w with
    | .chunk c x i => goes c x i
    | _ => false
  let c := s.core k.core
  let req := c.preq.filter fun r => r.block = b
  let s := s.setCore k.core { c with pctx := c.pctx.filterMap left, preq := c.preq.filter fun r => r.block ≠ b }
  let s := { s with threads := s.threads.filter fun x => match x.1 with
    | .phrase c x => !(c = k.core && xs.any fun y => y.1 = x)
    | _ => true }
  s.setBlock b { k with saved := l, requests := req }

/-- Writes the images of a block (R361). -/
def writeImages (s : State) (b : Nat) (k : Block) : State :=
  let l := k.layout
  let s := saveWrite s k 0 (blockRecord s k (saveBase s k))
  let s := saveWrite s k 0x400 (streamRecord ((s.thread? (.mstream b)).getD (Thread.launch 0 0 1 0)) k)
  let s := saveWrite s k 0x800 (phraseArea k)
  let s := saveWrite s k 0x1B400 (tileImage k)
  let s := saveWrite s k l.1 (clauseList s b k)
  saveWrite s k l.2.2.1 (denseFrom k.spadBytes 0 k.spad)

/-- The full eviction of a block; it ends before it has begun where the save area cannot be written. The state holds the window
and the tiles no more, nor the status of its programs: they are in memory. -/
def fullEvict (s : State) (b : Nat) (k : Block) : Except (Cause × Nat) State :=
  match saveCheck s k 0 k.layout.2.2.2 with
  | .error e => .error e
  | .ok s =>
    let s := finishMatrix ((s.release k.core .pkg).performPosted fun x => x.block = b) b k
    let s := (List.range k.ngrp).foldl (fun u g => evictGroup u b g) s
    match s.block? b with
    | none => .ok s
    | some k =>
      let s := savePhrases s b k
      match s.block? b with
      | none => .ok s
      | some k =>
        let s := (writeImages s b k).release k.core .pkg
        let s := s.modThread (.mstream b) fun t => if t.gstate = .ended then t else { t with gstate := .evicted }
        .ok (s.setBlock b
          { k with resident := false, spad := [], slots := [], saved := k.saved.map fun y => { y with p := { y.p with status := 0 } } })

/-! ### Restore (R172, R176, R196, R227) -/

/-- The bytes of a save area as a restore reads them. -/
structure Images where
  block : List Byte
  stream : List Byte
  phrase : List Byte
  tiles : List Byte
  groups : List (List Byte)
  spad : List Byte
  deriving DecidableEq, Repr

/-- Reads the images of a block through a core's translation buffer. -/
def readImages (s : State) (t : TlbAt) (k : Block) : Except (Cause × Nat) (Images × State) :=
  let base := saveBase s k
  let l := k.layout
  match s.virtRead t k.asid Cls.plain base l.2.2.2 with
  | .error e => .error e
  | .ok (bs, s) =>
    let part (off n : Nat) : List Byte := (bs.drop off).take n
    .ok ({ block := part 0 768, stream := part 0x400 832, phrase := part 0x800 (0x2C00 + 2048 * areaContexts),
           tiles := part 0x1B400 (0x400 + 256 * k.ns), spad := part l.2.2.1 k.spadBytes,
           groups := (List.range k.ngrp).map fun g => part (l.2.1 + g * groupRecBytes k.nalloc) (groupRecBytes k.nalloc) }, s)

/-- A barrier of a record. -/
def barrierOf (ws : List Nat) (n : Nat) : Barrier :=
  let at' (i : Nat) : Dword := dwordAt ws (0x100 + 32 * n + 8 * i)
  { exp := dbits (at' 0) 32 16, cnt := dbits (at' 0) 16 16, ph := (at' 0).getLsbD 63, arr := at' 1, tv := at' 2, tp := at' 3 }

/-- A tile descriptor of an image; who fills it stands with the block, which also knows of a producer that could not write it. -/
def tileOf (old : Tile) (w : Dword) (v : Word) : Tile :=
  let st : TState := match dbits w 62 2 with
    | 0 => .empty
    | 1 => if old.st = .ready then .ready else .filling
    | 2 => .ready
    | _ => .draining
  { st := st, by' := if st = .filling ∨ st = .draining then old.by' else .nobody, sbase := dbits w 37 11, nslot := dbits w 32 5,
    rcap := dbits w 20 4, rank := dbits w 16 4, fmt := tfmtOf (dbits w 14 2), rows := dbits w 5 5 + 1, cols := dbits w 0 5 + 1,
    vstat := v }

/-- The batches of group `g` that a phrase state area gives (R228); the status of a batch that has not finished stands with the
block. -/
def batchesFrom (k : Block) (ph : List Nat) (g : Nat) : Batches :=
  let at' (i : Nat) : Nat := wordAt ph (0x40 + 16 * g + 4 * i)
  let old := k.batchesOf g
  let batch (n : Nat) : Batch :=
    let num := BitVec.ofNat 32 n
    ((old.ob :: old.sealedB).find? fun y => y.num = num).getD { num := num, status := 0 }
  { ob := batch (at' 0), sealedB := (List.range (at' 2 % 16)).map fun i => batch (at' 1 + i), acc := BitVec.ofNat 32 (at' 3) }

/-- The block with what its images give: registers and barriers of the record, codebooks, tiles and slots, batches, ports,
window. -/
def restoreBlock (k : Block) (m : Images) : Block :=
  let ws := wordsOf m.block
  let ms := wordsOf m.stream
  let ph := wordsOf m.phrase
  let ti := wordsOf (m.tiles.take 0x400)
  let entry (q i : Nat) : List Word := (wordsAt ph (0x400 + 512 * q + 128 * i) 32).map (BitVec.ofNat 32)
  let port (q : Nat) : List (List Word) :=
    (List.range (min 4 ((m.phrase.getD (0x240 + q) 0).toNat))).map fun i => entry q i
  { k with
    tol := BitVec.ofNat 32 (wordAt ws 0x18), vc := BitVec.ofNat 32 (wordAt ws 0x1C), tctl := BitVec.ofNat 32 (wordAt ws 0x20) &&& tctlMask,
    bars := (List.range 16).map (barrierOf ws), cbs := numbered (halfWords (wordsAt ms 0x240 64)),
    tiles := (List.range k.nt).map fun n =>
      (n, tileOf (k.tile n) (dwordAt ti (0x40 + 8 * n)) (BitVec.ofNat 32 (wordAt ti (0x240 + 4 * n)))),
    slots := sparseOf (m.tiles.drop 0x400), spad := sparseOf m.spad,
    batches := ((List.range 32).map fun g => (g, batchesFrom k ph g)).filter fun x => x.2 ≠ Batches.launch,
    ports := ((List.range 16).map fun q => (q, port q)).filter fun x => x.2 ≠ [] }

/-- The matrix stream that its record gives, ended or running as `MSTATE` says, which software may rewrite (R195). -/
def restoreStream (t : Thread) (bs : List Byte) : Thread :=
  let ws := wordsOf bs
  let h := dwordAt ws 0
  let w := if dbits h 61 3 = 0 then .none else streamWait (dbits h 56 5)
  let ended := dbits h 61 3 = 3
  { t with pc := dwordAt ws 8, s := numbered (pairsOf (wordsAt ws 0x40 128)), msup := h.getLsbD 49, wait := if ended then .none else w,
           warg := BitVec.ofNat 6 (dbits h 50 6), cause := BitVec.ofNat 8 (dbits h 32 8),
           gstate := if ended then .ended else if w = .none then .active else .parked }

/-- An endpoint with the registers and the origin that a slot record gives it (R229); its layout stands with the block. -/
def endFrom (y : Endpoint) (run : List Dword) (origin : List Nat) : Endpoint :=
  match y with
  | .mem _ l _ => .mem (run.getD 0 0) l (origin.map (BitVec.ofNat 64))
  | .spad _ => .spad (run.getD 0 0)
  | .fab _ _ => .fab (run.getD 0 0) (run.getD 1 0)
  | y => y

/-- A transfer slot that its record gives, where it was not idle: it goes on from its cursor (R227). -/
def slotFrom (l : PhSlot) (ws : List Nat) (i : Nat) : Option PhSlot :=
  let at' := 0x400 + 128 * i
  if wordAt ws (at' + 0x0C) % 4 = 0 then none
  else
    some { l.quiet with
      stopped := false, n := (dwordAt ws (at' + 0x10)).toNat, cursor := (dwordAt ws (at' + 0x18)).toNat,
      dst := endFrom l.dst (pairsOf (wordsAt ws (at' + 0x20) 4)) (wordsAt ws (at' + 0x30) 5),
      src := endFrom l.src (pairsOf (wordsAt ws (at' + 0x48) 4)) (wordsAt ws (at' + 0x58) 5) }

/-- The phrase context that its record gives, with the transfers that ran on and the status that they brought (R227, R229). -/
def restoreContext (y : SavedCtx) (bs : List Byte) (ran : PCtx) : PCtx × Thread :=
  let ws := wordsOf bs
  let h := dwordAt ws 0
  let st := dbits h 61 3
  let w := if st = 0 then .none else contextWait (dbits h 56 5)
  let t := { y.t with
    pc := dwordAt ws 8, s := numbered (pairsOf (wordsAt ws 0x40 128)), wait := if st = 3 then .none else w,
    warg := BitVec.ofNat 6 (dbits h 50 6), cause := BitVec.ofNat 8 (dbits h 32 8), ready := 0,
    gstate := if st = 3 then .ended else if w = .none then .active else .parked }
  let kept := (List.range 8).filterMap fun i => (tlook i y.p.slots).bind fun l => (slotFrom l ws i).map fun l => (i, l)
  let on := ran.slots.map fun z => (z.1, { z.2.quiet with stopped := false, sent := if z.2.stopped then none else z.2.sent })
  ({ y.p with
     batch := BitVec.ofNat 32 (wordAt ws 0x10), issuer := dbits h 43 5,
     status := BitVec.ofNat 32 (wordAt ws 0x18) ||| y.p.status ||| ran.status, last := if on.isEmpty then y.p.last else ran.last,
     slots := on.foldl (fun u z => tput z.1 z.2 u) kept }, t)

/-- The request that the record of a context which has not started gives (R220, R227). -/
def restoreRequest (r : PReq) (bs : List Byte) : PReq :=
  let ws := wordsOf bs
  let reg (i : Nat) : Dword := dwordAt ws (0x40 + 8 * i)
  { r with
    grp := dbits (dwordAt ws 0) 43 5, prog := dwordAt ws 8, batch := BitVec.ofNat 32 (wordAt ws 0x10), recAddr := reg 0,
    vals := (List.range r.vals.length).map fun i => (reg (1 + i)).setWidth 32, lane := (reg 11).toNat }

/-- Where a restored block goes on a core. -/
structure Seat where
  pos : Nat
  wb : Nat
  ws : Nat
  base : Nat
  /-- Context numbers for its saved contexts, in order. -/
  ctxs : List Nat
  deriving DecidableEq, Repr

/-- Context numbers for saved contexts of block `b`: the access program takes one of the first 16, launched ones the others. A number
that a transfer of the block itself still holds is free for it. -/
def seatContexts (s : State) (b core : Nat) : List SavedCtx → List Nat → Option (List Nat)
  | [], _ => some []
  | y :: r, taken =>
    let l := if y.p.launched then (List.range 48).map fun i => 16 + i else List.range 16
    let free (x : Nat) : Bool := ((tlook x (s.core core).pctx).all fun p => p.block = b) && !taken.contains x
    match l.find? free with
    | none => none
    | some x => (seatContexts s b core r (taken ++ [x])).map fun m => x :: m

/-- The live groups of a block by slice, for a base: each slice keeps to its 48 residents. -/
def baseFits (s : State) (core base : Nat) (k : Block) : Bool :=
  (List.range 16).all fun i =>
    let n := ((List.range k.ngrp).filter fun g => k.notEnded.getLsbD g && (base + g) % 16 = i).length
    n = 0 || decide (sliceHeld s core i + n ≤ 48)

/-- A block in its place on a core, its groups in the group store. -/
def standIn (s : State) (b core : Nat) (k : Block) (x : Seat) : State :=
  (List.range k.ngrp).foldl
    (fun u g => u.modThread (.group b g) fun t => if t.gstate = .evicted then { t with gstate := .pending } else t)
    (s.setBlock b { k with core := core, pos := x.pos, wb := x.wb, ws := x.ws, base := x.base, resident := true })

/-- The room for a saved block on a core, if there is any: its groups all stand in the group store, and the die keeps its reserve for
the other levels of views (R277). The slice base is the lowest that fits (DESIGN CHOICE, notes/assumptions/60.md). -/
def seatOn (s : State) (b core : Nat) (k : Block) : Option Seat :=
  let rs := residents s core
  let n := (lanesOf 32 k.notEnded).length
  let level := (s.grid? k.grid).elim 0 fun g => g.vdepth.toNat
  if 1536 ≤ core ∨ (s.core core).gating ≠ .on ∨ (s.core core).spadShare < (rs.map fun r => r.spadBytes).foldl (· + ·) k.spadBytes ∨
      storeFree s core < n * groupRecBytes k.nalloc ∨ requestQueueSize < (s.core core).preq.length + k.requests.length then none
  else
    match (List.range 16).find? fun p => rs.all fun r => r.pos ≠ p, freeRun (rs.map fun r => (r.wb, r.nt)) 256 k.nt,
      freeRun (rs.map fun r => (r.ws, r.ns)) 2048 k.ns, seatContexts s b core k.saved [] with
    | some p, some wb, some ws, some xs =>
      let seat (y : Nat) : Seat := { pos := p, wb := wb, ws := ws, base := y, ctxs := xs }
      (((List.range 16).filter fun y => baseFits s core y k).find? fun y =>
        reserveKept s (standIn s b core k (seat y)) (core / 96) level).map seat
    | _, _, _, _ => none

/-- The contexts that transfers of block `b` still hold on its last core. -/
def ranOn (s : State) (b : Nat) (k : Block) (x : Nat) : Option PCtx := (tlook x (s.core k.core).pctx).filter fun p => p.block = b

/-- Takes the transfers that ran on off the block's last core: their contexts go, and their requests for leave. -/
def dropRan (s : State) (b : Nat) (k : Block) : State :=
  let mine (c x : Nat) : Bool := c = k.core && (ranOn s b k x).isSome
  let s := withdrawLeave s (dieOfCore k.core) fun w => match w with
    | .chunk c x _ => mine c x
    | _ => false
  s.setCore k.core { s.core k.core with pctx := (s.core k.core).pctx.filter fun x => x.2.block ≠ b }

/-- The place among a block's saved contexts of the one whose slot owns a lock, and the slot. -/
def lockPlace (s : State) (b : Nat) (k : Block) (r : RLock) : Option (Nat × Nat) :=
  match r.owner with
  | .saved b' i j => if b' = b then some (i, j) else none
  | .slot c x j =>
    if c = k.core ∧ (ranOn s b k x).isSome then (k.saved.findIdx? fun y => y.ctx = x).map fun i => (i, j) else none
  | _ => none

/-- The locks of a saved block go to the die of its new core and to its contexts there. -/
def moveLocks (s : State) (b core : Nat) (k : Block) (xs : List Nat) : State :=
  let moved := (s.dies.flatMap fun (d : Nat × Die) => d.2.locks).filterMap fun (r : RLock) =>
    (lockPlace s b k r).bind fun y => (xs[y.1]?).map fun x => { r with owner := LockOwner.slot core x y.2 }
  let t := { s with dies := s.dies.map fun (d : Nat × Die) =>
    (d.1, { d.2 with locks := d.2.locks.filter fun r => (lockPlace s b k r).isNone }) }
  let d := dieOfCore core
  t.setDie d { t.die d with locks := (t.die d).locks ++ moved }

/-- The index in the phrase state area of the i-th saved context, counted among the launched ones. -/
def launchedPlace (k : Block) (i : Nat) : Nat := ((k.saved.take i).filter fun x => x.p.launched).length

/-- Launched contexts that a phrase state area holds: L, and those that it has no room for (R228). -/
def areaHolds (ph : List Byte) (i : Nat) : Bool := decide (areaContexts ≤ i) || decide (i < (ph.getD 0 0).toNat)

/-- A context record of a phrase state area. -/
def areaRecord (ph : List Byte) (i : Nat) : List Byte := (ph.drop (0x2C00 + 2048 * i)).take 2048

/-- Puts the saved contexts and requests of a block on a core, as the phrase state area gives them; one beyond the area's 48 is as the
block holds it (notes/assumptions/52.md). -/
def seatPhrases (s : State) (b core : Nat) (k : Block) (xs : List Nat) (ph : List Byte) : State :=
  let none' : PCtx := { launched := false, block := b, issuer := 0, batch := 0, status := 0, slots := [], last := none, nextOrder := 0,
                        running := false, engine := 0 }
  let ran (y : SavedCtx) : PCtx := (ranOn s b k y.ctx).getD none'
  let l := (List.range k.saved.length).filterMap fun i =>
    match k.saved[i]?, xs[i]? with
    | some y, some x =>
      let n := launchedPlace k i
      if !y.p.launched then some (x, restoreContext y ((ph.drop 0x2400).take 2048) (ran y))
      else if !areaHolds ph n then none
      else if areaContexts ≤ n then some (x, restoreContext y (contextRecord y.p y.t false) (ran y))
      else some (x, restoreContext y (areaRecord ph n) (ran y))
    | _, _ => none
  let first := launchedPlace k k.saved.length
  let reqs := (k.requests.zip (List.range k.requests.length)).filterMap fun y =>
    let n := first + y.2
    if !areaHolds ph n then none else some (if areaContexts ≤ n then y.1 else restoreRequest y.1 (areaRecord ph n))
  let s := dropRan (moveLocks s b core k xs) b k
  let s := l.foldl (fun (u : State) y => u.setThread (.phrase core y.1) y.2.2) s
  let c := s.core core
  s.setCore core { c with pctx := l.foldl (fun (u : Tab PCtx) y => tput y.1 y.2.1 u) c.pctx, preq := c.preq ++ reqs }

/-- Where the record of a saved context stands in its block's save area, if it has a place there (R228). -/
def recordAt (k : Block) (x : Nat) : Option Nat :=
  (k.saved.findIdx? fun y => y.ctx = x).bind fun i =>
    if !(k.saved[i]?).any (fun y => y.p.launched) then some (0x800 + 0x2400)
    else if launchedPlace k i < areaContexts then some (0x800 + 0x2C00 + 2048 * launchedPlace k i)
    else none

/-- The header word of a saved context with one more slot in use; a slot that has stopped on a fault parks it, unless it waits already
(R224, R229). -/
def settledHeader (h : Dword) (i : Nat) (stopped : Bool) (cause : BitVec 8) : Dword :=
  let h := h ||| dfield 1 i 1
  if stopped ∧ dbits h 61 3 = 0 then h ||| dfield 2 61 3 ||| dfield 6 56 5 ||| dfield cause.toNat 32 8 else h

/-- A transfer of a block in memory that has reached the end of its fabric chunk, or has stopped on a fault, stops there, its cursor
recorded, and stands with the block (R227); one that runs on or is complete does not. -/
def settleSlot (s : State) (c x i : Nat) : State :=
  match tlook x (s.core c).pctx with
  | none => s
  | some p =>
    match s.block? p.block, tlook i p.slots with
    | some k, some l =>
      if k.resident ∨ l.sent.isSome ∨ l.n ≤ l.cursor ∨ (runOns s c x p).contains i then s
      else
        let place := k.saved.findIdx fun y => y.ctx = x
        let s := match recordAt k x with
          | none => s
          | some base =>
            let h := match savedBytes s k base 8 with
              | .ok (bs, _) => BitVec.ofNat 64 (leNat bs)
              | .error _ => 0
            let c := (k.saved[place]?).elim 0 fun y => y.t.cause
            saveWrite (saveWrite s k base (leBytes 8 (settledHeader h i l.stopped c).toNat)) k (base + 0x400 + 128 * i)
              (slotBytes (some l))
        let d := dieOfCore c
        let own (o : LockOwner) : LockOwner := if o = .slot c x i then .saved p.block place i else o
        let s := s.setDie d { s.die d with locks := (s.die d).locks.map fun r => { r with owner := own r.owner } }
        let keep (y : SavedCtx) : SavedCtx := if y.ctx = x then { y with p := { y.p with slots := tput i l.quiet y.p.slots } } else y
        let s := s.setBlock p.block { k with saved := k.saved.map keep }
        dropIdle (s.setCore c { s.core c with pctx := tput x { p with slots := tdel i p.slots } (s.core c).pctx }) c x
    | _, _ => s

/-- What a fault in a context's slot, or the end of its chunk, leaves to record where its block stands in memory: the slot, and those
that were to follow it (R215, R227). -/
def settleContext (s : State) (c x : Nat) : State :=
  match tlook x (s.core c).pctx with
  | none => s
  | some p => p.slots.foldl (fun u y => settleSlot u c x y.1) s

/-- A chunk of a transfer is due (`phraseChunk`); one that stops while its block is in memory is recorded there (R227). -/
def execPhraseChunk (core ctx slot : Nat) (s : State) : Host.Outcome State Fault Refusal :=
  .next (settleContext (phraseChunk core ctx slot s) core ctx)

/-- The programs whose records say that they have ended are at their end: one launched, with no transfer left, leaves its context
(R195, R229; DEDUCED, notes/assumptions/103.md). -/
def endedContexts (s : State) (core : Nat) (xs : List Nat) : State :=
  (xs.filter fun x => (s.thread? (.phrase core x)).any fun t => t.gstate = .ended).foldl
    (fun u x => if busySlots u (.phrase core x) = 0 then endProgram u (.phrase core x) 0 else u) s

/-- Seats a block with its images on a core (R176). -/
def seatBlock (s : State) (b core : Nat) (k : Block) (m : Images) (x : Seat) : State :=
  let ap := (k.saved.findIdx? fun y => !y.p.launched).bind fun i => x.ctxs[i]?
  let s := seatPhrases s b core k x.ctxs m.phrase
  let k' := { restoreBlock k m with
              core := core, pos := x.pos, wb := x.wb, ws := x.ws, base := x.base, resident := true, inMem := 0, barDone := 0,
              apCtx := ap.getD k.apCtx, saved := [], requests := [] }
  let ms := (s.thread? (.mstream b)).map fun t => restoreStream t m.stream
  let k'' := { k' with msEnded := ms.any fun t => t.gstate = .ended, apEnded := false }
  let s := (s.setBlock b k'').modThread (.mstream b) fun t => restoreStream t m.stream
  let s := (List.range k.ngrp).foldl
    (fun u g => u.modThread (.group b g) fun t =>
      if t.gstate = .evicted then endedWait k g (restoreGroup t (m.groups.getD g [])) else t) s
  endedContexts s core x.ctxs

/-- The saved block whose record stands at an address, in the context that asks where several do. -/
def savedAt (s : State) (va : Nat) (asid : BitVec 16) : Option (Nat × Block) :=
  let l := s.blocks.filter fun x => !x.2.resident && saveBase s x.2 = va
  (l.find? fun x => x.2.asid = asid).or l.head?

/-! ### The progress rule (R148) -/

/-- The groups of a block on its core. -/
def groupsOn (s : State) (b : Nat) : List (Agent × Thread) :=
  s.threads.filter fun x => match x.1 with
    | .group b' _ => b' = b && (inActiveSet x.2 || inStore x.2)
    | _ => false

/-- The block is blocked. -/
def blockedBlock (s : State) (b : Nat) : Bool :=
  let l := groupsOn s b
  !l.isEmpty && l.all fun x => (x.2.gstate = .parked || x.2.gstate = .swapped) && x.2.wait ≠ .none && !x.2.onTrap

/-- How long the earliest-parked group of a block has waited. -/
def longestWait (s : State) (b : Nat) : Nat := ((groupsOn s b).map fun x => x.2.waited).foldl max 0

/-- The blocked block of a core that has waited longest. -/
def blockedOn (s : State) (core : Nat) : Option (Nat × Block) :=
  let l := s.blocks.filter fun x => x.2.resident && x.2.core = core && !x.2.physical && blockedBlock s x.1
  l.foldl
    (fun (acc : Option (Nat × Block)) x =>
      match acc with
      | none => some x
      | some y => if longestWait s y.1 < longestWait s x.1 then some x else acc) none

/-- Work of the die that waits for room, in the order of R346. -/
def waitingWork (s : State) (die : Nat) : List (Nat × Grid) :=
  if drained s die then []
  else s.grids.filter fun x => x.2.waits && x.2.dies.getLsbD die && inOrder s x.2 && firstOnDie s die x.1 x.2

/-- The block stands in room that its die keeps for its level: as many groups of the level as the reserve has units (R277; which
groups stand in it is a DESIGN CHOICE, notes/assumptions/60.md). -/
def inReserve (s : State) (k : Block) : Option Nat :=
  let level := (s.grid? k.grid).elim 0 fun g => g.vdepth.toNat
  let d := k.core / 96
  if level ≠ 0 ∧ levelGroups s d level ≤ (s.die d).rsvg level then some level else none

/-- Work that may take the place of a block: of its level only, where the block stands in a level's reserve (R277). -/
def workFor (s : State) (k : Block) (l : List (Nat × Grid)) : List (Nat × Grid) :=
  match inReserve s k with
  | some n => l.filter fun x => x.2.vdepth.toNat = n
  | none => l

/-- Places the first waiting grid that has room on a core. -/
def placeWaiting (s : State) (core : Nat) (l : List (Nat × Grid)) : State :=
  let try' (x : Nat × Grid) : Option State :=
    (freeSave s x.2.asid).bind fun i =>
      ((List.range 16).filterMap fun b => (roomOn s core b x.2.kernel).map fun r => (b, r)).findSome? fun y =>
        let s' := placeBlock s x.1 x.2 core y.1 i y.2
        if reserveKept s s' (core / 96) x.2.vdepth.toNat then some s' else none
  (l.findSome? try').getD s

/-- The no-issue count of a slice has reached `PROGWIN`: a blocked block leaves for waiting work, if there are both; the count
starts again (R148). -/
def execProgressWindowExpiry (core slice : Nat) (s : State) : Host.Outcome State Fault Refusal :=
  let c := s.core core
  if 1536 ≤ core ∨ tget 0 slice c.noIssue < c.progwin.toNat then .next s
  else
    let s := s.setCore core { c with noIssue := tput slice 0 c.noIssue }
    match blockedOn s core with
    | none => .next s
    | some (b, k) =>
      let l := workFor s k (waitingWork s (core / 96))
      if l.isEmpty then .next s
      else
        match fullEvict s b k with
        | .error _ => .next s
        | .ok s => .next (placeWaiting s core l)

/-! ### `CTXS` (R374) -/

/-- A trap of the word on its own access to memory. -/
def ctxsTrap (e : Env) (s : State) (x : Cause × Nat) : Res :=
  .trap { Trap.all x.1.code x.1.detail e.act with addrs := e.lanes.map fun l => (l, BitVec.ofNat 64 x.2) } s

/-- The scalar result of a word. -/
def putD (e : Env) (s : State) (v : Nat) : State := s.modThread e.a fun t => t.setS (sIdx e.f.d) (BitVec.ofNat 64 v)

def execCtxsPart (f : Fields) (s : State) := issue 0xE7 f s fun e s =>
  let core := (e.va 64 e.low).toNat % 65536
  let b := e.vb 64 e.low
  match partialEvict core (dbits b 0 32) (BitVec.ofNat 16 (dbits b 32 16)) e.a s.threads.length s with
  | .error x => ctxsTrap e s x
  | .ok s => .ok (putD e s (freeRegs s core))

def execCtxsFull (f : Fields) (s : State) := issue 0xE7 f s fun e s =>
  let a := e.va 64 e.low
  let core := dbits a 0 16
  let pos := dbits a 16 4
  match s.blocks.find? fun x => x.2.resident && x.2.core = core && x.2.pos = pos && x.1 ≠ s.blockNo e.a && !x.2.physical with
  | none => .ok (putD e s 0)
  | some (b, k) =>
    match fullEvict s b k with
    | .error x => ctxsTrap e s x
    | .ok s => .ok (putD e s (saveBase s k))

def execCtxsRest (f : Fields) (s : State) := issue 0xE7 f s fun e s =>
  let core := (e.vb 64 e.low).toNat % 65536
  match savedAt s (e.va 64 e.low).toNat (s.asidOf e.a) with
  | none => .ok (putD e s 1)
  | some (b, k) =>
    if 1536 ≤ core ∨ !(s.ctxDies k.asid).getLsbD (core / 96) then .ok (putD e s 2)
    else
      match seatOn s b core k with
      | none => .ok (putD e s 1)
      | some x =>
        match readImages (s.acquire core .pkg) (.core core) k with
        | .error y => ctxsTrap e s y
        | .ok (m, s) => .ok (putD e (seatBlock s b core k m x) 0)

/-- The grid of a record address that has not completed, in the context that asks where several have one; a shading grid has no
record. -/
def gridAt (s : State) (va : Dword) (asid : BitVec 16) : Option Nat :=
  let l := s.grids.filter fun x => x.2.recAddr = va && x.2.shade.isNone && x.2.stage ≠ 2
  ((l.find? fun x => x.2.asid = asid).or l.head?).map Prod.fst

def execCtxsTerm (f : Fields) (s : State) := issue 0xE7 f s fun e s =>
  match gridAt s (e.va 64 e.low) (s.asidOf e.a) with
  | none => .ok (putD e s 1)
  | some n => .ok (putD e (terminateGrid s n) 0)

end Sys2Proof.Machine
end

