-- ==== Sys2Proof/Machine/Ring.lean ====
section
/-!
DEFINITION. The accesses of the network and storage ports: the records of their faults (R322, R385, R394, R395), the bytes of a fabric
frame (R382), and the kernel rings (R378, R379, R395).
-/
namespace Sys2Proof.Machine

/-! ### Accesses of a port -/

/-- The class of the ports' accesses: they allocate under `PCIDX` (R301, R380). -/
def portClass (s : State) : Cls := { Cls.plain with cidx := dbits s.sys.fabcfg 16 8 }

/-- A record posted by a port for a failed access. -/
def portRecord (agent : Nat) (asid : BitVec 16) (c : Cause) (kind va : Nat) : FaultRec :=
  { FaultRec.blank with
    cause := BitVec.ofNat 8 c.code, agent := agent, kind := if hasKind c.code then kind else 0, asid := asid,
    detail := c.detail, cdetail := BitVec.ofNat 64 (if hasKind c.code then kind else 0), addr := BitVec.ofNat 64 va }

/-- Writes bytes over pieces; a line written whole loses its poison (R327). -/
def putPieces (s : State) (bs : List Byte) : List (Nat × Nat) → State
  | [] => s
  | (p, n) :: r => putPieces (clearLines (s.putHomes p (bs.take n)) ((List.range n).map fun i => p + i)) (bs.drop n) r

/-- A port's write over physical pieces. -/
def portWrite (s : State) (bs : List Byte) (ps : List (Nat × Nat)) : State := putPieces (s.useLines (portClass s) ps) bs ps

/-! ### The bytes of a frame (R382) -/

/-- Bytes filled up with zeros to a length. -/
def zeroPad (n : Nat) (bs : List Byte) : List Byte := bs ++ List.replicate (n - bs.length) 0

/-- A frame's bytes without its check sequence; the `EtherType` goes high byte first, as on every Ethernet (PRESUMED,
notes/assumptions/80.md). -/
def frameBytes (f : Frame) : List Byte :=
  leBytes 6 f.dmac.toNat ++ leBytes 6 f.smac.toNat ++ (leBytes 2 f.etype.toNat).reverse ++
    leBytes 2 f.src.toNat ++ leBytes 2 f.dst.toNat ++ [f.kind, f.srcDie, f.flits,
      (if f.hold then 1 else 0) ||| if f.opening then 2 else 0] ++
    leBytes 4 f.seq.toNat ++ leBytes 4 f.ack.toNat ++ leBytes 8 f.addr.toNat ++ leBytes 8 f.value.toNat ++ leBytes 8 f.tag.toNat ++
    leBytes 8 f.openNo.toNat ++ List.replicate 16 0 ++ zeroPad (64 * f.flits.toNat) f.data

/-- The frame that bytes hold; `value` of kinds 0 and 2 is the byte count of the data. -/
def frameOf (port : Nat) (bs : List Byte) (good : Bool) : Frame :=
  let w (o n : Nat) : Nat := leNat (readBytes (fun i => bs.getD i 0) o n)
  { port := BitVec.ofNat 4 port, dmac := BitVec.ofNat 48 (w 0 6), smac := BitVec.ofNat 48 (w 6 6), etype := bs.getD 12 0 ++ bs.getD 13 0,
    src := BitVec.ofNat 16 (w 14 2), dst := BitVec.ofNat 16 (w 16 2), kind := bs.getD 18 0, srcDie := bs.getD 19 0,
    flits := bs.getD 20 0, hold := (bs.getD 21 0).getLsbD 0, opening := (bs.getD 21 0).getLsbD 1, seq := BitVec.ofNat 32 (w 22 4),
    ack := BitVec.ofNat 32 (w 26 4), addr := BitVec.ofNat 64 (w 30 8), value := BitVec.ofNat 64 (w 38 8), tag := BitVec.ofNat 64 (w 46 8),
    openNo := BitVec.ofNat 64 (w 54 8), 
    data := (bs.drop 78).take (min (64 * (bs.getD 20 0).toNat) (w 38 8)), good := good }

/-! ### Kernel rings (R395) -/

/-- The longest frame with its four bytes of check sequence (R378). -/
def frameLimit : Nat := 9216

/-- The length of a frame whose bytes come without the check sequence. -/
def frameFits (n : Nat) : Bool := decide (n + 4 ≤ frameLimit)

/-- A PAUSE or priority flow control frame: `EtherType` 0x8808 with the opcode 1 or 0x0101 (R378; the codes of IEEE 802.3: PRESUMED,
notes/assumptions/80.md). -/
def isPause (bs : List Byte) : Bool :=
  let w (o : Nat) : BitVec 16 := bs.getD o 0 ++ bs.getD (o + 1) 0
  w 12 = 0x8808 && (w 14 = 1 || w 14 = 0x0101)

/-- The cause of a port's access to a physical range, if it fails: memory that does not exist, or poison. -/
def physFail (s : State) (p n : Nat) (read : Bool) : Option Cause :=
  if (List.range n).any fun i => !physExists (p + i) then some ⟨cPROT, 3⟩
  else if read && (List.range n).any fun i => s.poisoned (p + i) then some ⟨cECCU, 1⟩
  else none

/-- The first failure among accesses: address, bytes, and whether it reads. -/
def firstFail (s : State) (l : List (Nat × Nat × Bool)) : Option (Cause × Nat × Bool) :=
  l.findSome? fun x => (physFail s x.1 x.2.1 x.2.2).map fun c => (c, x.1, x.2.2)

/-- Posts the record of a failed access. -/
def ringFault (s : State) (x : Cause × Nat × Bool) : State :=
  postFault s 16 (portRecord 5 0 x.1 (if x.2.2 then 0 else 1) x.2.1)

/-- The record that a port's `KRING` names. -/
def ringRecord (s : State) (port : Nat) : KRing :=
  let p := (tget 0 port s.sys.kring).toNat
  let w (o n : Nat) : Nat := leNat (readBytes s.homeByte (p + o) n)
  { at' := p, tx := w 0 8, rx := w 8 8, size := 2 ^ (w 0x10 1 % 16), txTail := w 0x18 4, txHead := w 0x1C 4, rxTail := w 0x20 4,
    rxHead := w 0x24 4 }

def setRing (s : State) (port : Nat) (r : KRing) : State := s.modSys fun y => { y with rings := tput port r y.rings }

/-- A port that a write of `KRING` has told to read its record reads it; a record that it cannot read leaves it without a ring. -/
def ringSync (s : State) (port : Nat) : State :=
  if s.sys.ringDue.contains port then
    let s := s.modSys fun y => { y with ringDue := y.ringDue.filter fun p => p ≠ port }
    match firstFail s [((tget 0 port s.sys.kring).toNat, 64, true)] with
    | some x => ringFault (s.modSys fun y => { y with rings := tdel port y.rings }) x
    | none => setRing (s.useLines (portClass s) [((tget 0 port s.sys.kring).toNat, 64)]) port (ringRecord s port)
  else s

/-- The ring that a port uses: none before the first write of its `KRING`. -/
def ringOf (s : State) (port : Nat) : Option KRing := tlook port s.sys.rings

/-- Marks a descriptor done with a length and a status, writes a head, and raises the interrupt. -/
def markDone (s : State) (d len status headAt head : Nat) : State :=
  let s := s.useLines (portClass s) [(d, 16), (headAt, 4)]
  let s := s.putHomes (d + 8) (leBytes 2 len)
  let s := s.putHome (d + 10) (s.homeByte (d + 10) ||| 1)
  let s := s.putHomes (d + 12) (leBytes 4 status)
  raiseInt 16 0 (s.putHomes headAt (leBytes 4 head))

/-- A received frame goes into the next posted buffer, its descriptor marked; a frame that failed its check brings its status
only. Without a buffer, or on a port that is down, the frame is dropped. -/
def ringReceive (s : State) (port : Nat) (data : List Byte) (good : Bool) : State :=
  let s := ringSync s port
  match ringOf s port with
  | none => s
  | some r =>
    if r.rxHead = r.rxTail then s
    else
      let d := r.rx + 16 * (r.rxHead % r.size)
      match firstFail s [(d, 16, true)] with
      | some x => ringFault s x
      | none =>
        let b := (s.home64 d).toNat
        let bs := if good then data else []
        let s := s.useLines (portClass s) [(d, 16)]
        match firstFail s [(b, bs.length, false)] with
        | some x => ringFault s x
        | none =>
          let h := (r.rxHead + 1) % 2 ^ 32
          markDone (portWrite (setRing s port { r with rxHead := h }) bs [(b, bs.length)]) d bs.length (if good then 0 else 1)
            (r.at' + 0x24) h

/-- The port transmits the frame of the next descriptor and marks it done. A frame above the limit is not sent; the status that its
descriptor then takes is a free value (notes/assumptions/46.md). -/
def ringTransmit (s : State) (port : Nat) : State :=
  let s := ringSync s port
  match ringOf s port with
  | none => s
  | some r =>
    if r.txHead = r.txTail then s
    else
      let d := r.tx + 16 * (r.txHead % r.size)
      match firstFail s [(d, 16, true)] with
      | some x => ringFault s x
      | none =>
        let b := (s.home64 d).toNat
        let n := leNat (readBytes s.homeByte (d + 8) 2)
        match firstFail s [(b, n, true)] with
        | some x => ringFault s x
        | none =>
          let h := (r.txHead + 1) % 2 ^ 32
          let s := setRing (s.useLines (portClass s) [(d, 16), (b, n)]) port { r with txHead := h }
          if frameFits n then
            markDone (s.modSys fun y => { y with sentRaw := y.sentRaw ++ [readBytes s.homeByte b n] }) d n 0 (r.at' + 0x1C) h
          else markDone s.free.2 d n s.free.1.toNat (r.at' + 0x1C) h

end Sys2Proof.Machine
end

