-- ==== Sys2Proof/Machine/Fabric.lean ====
section
/-!
DEFINITION. The fabric: `NSIG` (R390, R391), received frames (R382, R383, R385 to R387, R391), acknowledgments, time-outs, failed
flows and port links (R383, R384, R388).
-/
namespace Sys2Proof.Machine

/-! ### `NSIG` (R391) -/

/-- The identity of the group that signals (R384). -/
def signalOf (s : State) (a : Agent) : FrameFor :=
  let g := match a with
    | .group _ g => g
    | _ => 0
  .signal (s.blockNo a) g (s.asidOf a) ((s.block? (s.blockNo a)).elim 0 Block.blkno) ((s.grid? (s.gridNo a)).elim 0 Grid.recAddr)

def execNsig (f : Fields) (s : State) := issue 0xE8 f s fun e s =>
  let calling := e.act &&& e.t.getP (f.xb 0 4) &&& ~~~e.t.help
  match lowest e.n calling with
  | none => .ok s
  | some l =>
    let pkg := ((e.t.getS (sIdx f.a)).setWidth 16 : BitVec 16)
    let va := e.t.getS (sIdx f.a + 1)
    let trapAt (c : Nat) (d : BitVec 32) : Res :=
      .trap { Trap.all c d e.act with
              cdetail := if f.fn.getLsbD 0 then 2 else 1, addrs := e.lanes.map fun l => (l, va) } s
    if f.a = .s 255 then .trap (rangeTrap f.a e.act) s
    else if va.toNat % 8 ≠ 0 then trapAt cMISALIGN 0
    else if 2 ^ 57 ≤ va.toNat then trapAt cPROT 4
    else if signalsDue s e.a then .go (hold s e.a .own 6)
    else
      let s := s.release (s.coreNo e.a) .fab
      let put (s : State) (v : Dword) : State :=
        if f.d.isAbsent then s else s.modThread e.a fun t => t.setS (sIdx f.d) v
      if !fabricTo s pkg.toNat then .ok (put s 2)
      else if flowFull s (s.dieNo e.a) pkg.toNat then .go (hold s e.a .own 6)
      else
        .ok (put (sendFrame s (s.dieNo e.a) pkg.toNat (if f.fn.getLsbD 0 then 4 else 3) va (e.vb 64 l) 0 []
          (signalOf s e.a)) 0)

/-! ### What the acknowledgment or the end of a frame brings -/

/-- Groups that waited for room in a flow, or for their signals to be performed, issue their word again (R389, R391). -/
def wakeSenders (s : State) : State :=
  (s.threads.filter fun x => x.2.wait = .own && x.2.warg = 6#6).foldl (fun u x => wake u x.1) s

/-- The record of a signal that was refused or whose flow failed (R384). -/
def signalFault (g : Nat) (asid : BitVec 16) (blkno gridRec : Dword) (f : Frame) (detail : BitVec 32) : FaultRec :=
  { portRecord 5 asid ⟨cPROT, detail⟩ (if f.kind = 4#8 then 2 else 1) f.addr.toNat with grpno := g, blkno := blkno, gridRec := gridRec }

/-- The slot whose chunk a frame in flight carries, on whatever core it now stands: core, context and slot number with it. The tag
tells it from every other transfer. -/
def taggedSlot (s : State) (tag : Dword) : Option (Nat × Nat × Nat × PhSlot) :=
  s.cores.findSome? fun k => k.2.pctx.findSome? fun c => c.2.slots.findSome? fun i =>
    if i.2.sent = some tag then some (k.1, c.1, i.1, i.2) else none

/-- The operation of a frame that was refused, or whose flow failed, stops (R384, R385). -/
def failFrame (s : State) (f : Frame) (who : FrameFor) (detail : BitVec 32) : State :=
  match who with
  | .chunk _ _ _ =>
    match taggedSlot s f.tag with
    | some (c, x, i, _) => settleContext (stopSlot s c x i cPROT detail (if f.kind = 0#8 then 1 else 0) f.addr) c x
    | none => s
  | .signal _ g asid blkno rec' => postFault s f.srcDie.toNat (signalFault g asid blkno rec' f detail)
  | .reply _ => s

/-- A frame is acknowledged: the chunk of a write is performed (R387). -/
def ackFrame (s : State) (f : Frame) (who : FrameFor) : State :=
  match who with
  | .chunk _ _ _ =>
    if f.kind = 0#8 then
      match taggedSlot s f.tag with
      | some (c, x, i, l) => settleContext (endChunk c x i (chunkCount l) 0 { st := s, places := Places.none, fail := none }) c x
      | none => s
    else s
  | _ => s

/-- How many frames of a flow lie before sequence `n`. -/
def ackedCount (x : Flow) (n : Word) : Nat :=
  match x.unacked.head? with
  | none => 0
  | some (f, _) => let k := (n - f.seq).toNat; if k ≤ x.unacked.length then k else 0

/-- Takes the frames before sequence `n` off a flow, and what their acknowledgment brings. -/
def acknowledge (s : State) (x : Flow) (n : Word) : Flow × State :=
  let k := ackedCount x n
  let x' := { x with unacked := x.unacked.drop k, unsent := min x.unsent (x.unacked.length - k), timeouts := 0, held := false, acked := true }
  (x', (x.unacked.take k).foldl (fun u y => ackFrame u y.1 y.2) (s.setFlow x'))

/-- A flow sends the frames that waited for the room it now has. -/
def sendWaiting (s : State) (x : Flow) : State :=
  if x.waiting.isEmpty then s.setFlow x else sendNew s (refill x).1 (refill x).2

/-! ### Frames that the receiver sends back -/

/-- An acknowledgment, or a negative one, of the flow that a frame came on. It goes to the peer of its entry on an up port of the
mask; where the entry is invalid or names no such port, it goes back where the frame came from (DESIGN CHOICE,
notes/assumptions/80.md). -/
def answer (s : State) (f : Frame) (neg hold refuse : Bool) (seq ack : Word) : State :=
  let e := peerEntry s f.src.toNat
  let port := (pickPort s f.src.toNat).getD f.port.toNat
  transmit s
    [{ port := BitVec.ofNat 4 port, dmac := if peerValid e then peerMac e else f.smac, smac := Config.portMac port, etype := s.sys.etype,
       src := BitVec.ofNat 16 s.sys.pkgNo, dst := f.src, kind := if neg then 6 else 5, srcDie := f.srcDie, hold := hold,
       opening := false, flits := 0, seq := seq, ack := ack, addr := 0, value := if refuse then 1 else 0, tag := f.tag,
       openNo := f.openNo, data := [], good := true }]

/-! ### Reception -/

/-- A frame that is discarded and counted as lost: a reserved kind, another destination, a failed check (R382). -/
def frameLost (s : State) (f : Frame) : Bool :=
  decide (6 < f.kind.toNat) || !f.good || s.sys.pkgNo ≠ 0xFFFF && f.dst.toNat ≠ s.sys.pkgNo

def countLost (s : State) : State := s.modSys fun y => { y with lost := y.lost + 1 }

def State.rxFlow? (s : State) (f : Frame) : Option RxFlow :=
  s.sys.rxflows.find? fun x => x.pkg = f.src.toNat && x.die = f.srcDie.toNat

def State.setRx (s : State) (x : RxFlow) : State :=
  let hit (y : RxFlow) : Bool := y.pkg = x.pkg && y.die = x.die
  s.modSys fun y =>
    { y with rxflows := if y.rxflows.any hit then y.rxflows.map fun z => if hit z then x else z else y.rxflows ++ [x] }

/-- The bytes that a received frame names: address and length. -/
def frameSpan (f : Frame) : Nat × Nat :=
  (f.addr.toNat, if f.kind = 0#8 ∨ f.kind = 1#8 then f.value.toNat else 8)

/-- The peer right that a kind needs (R385). -/
def rightFor (kind : Nat) : Nat :=
  match kind with
  | 1 => 0
  | 0 => 1
  | _ => 2

/-- The lock that the port holds on a frame's bytes (R386). -/
def frameLock (p : List Byte) (f : Frame) : RLock :=
  let sp := frameSpan f
  let r := outward (sp.1, sp.1 + sp.2)
  { asid := peerAsid p, lo := r.1, hi := r.2, write := f.kind ≠ 1#8, owner := .port }

/-- How the access of a frame ends. -/
inductive Performed where
  | done (s : State)
  | refused
  | fault (c : Cause) (va : Nat)
  deriving DecidableEq, Repr

/-- The accesses of a write, a read request or a signal, at the home slices under the peer entry read for the frame (R385, R386,
R391). -/
def performFrame (s : State) (p : List Byte) (f : Frame) : Performed :=
  let asid := peerAsid p
  let k := f.kind.toNat
  let sp := frameSpan f
  if s.sys.pkgNo = 0xFFFF ∨ !peerValid p ∨ !peerMay p (rightFor k) then .refused
  else
    let pieces := piecesOf sp.1 sp.2
    match k with
    | 0 =>
      match virtRange .net .write asid s pieces with
      | .error x => .fault x.1 x.2
      | .ok (ps, s) => .done (portWrite s f.data ps)
    | 1 =>
      match virtRange .net .read asid s pieces with
      | .error x => .fault x.1 x.2
      | .ok (ps, s) =>
        let s := s.useLines (portClass s) ps
        .done (sendFrame s 16 f.src.toNat 2 f.addr f.value f.tag (getPieces s ps) (.reply (frameLock p f)))
    | _ =>
      let acc := if k = 3 then Acc.write else .atomic
      match s.check .net asid false false false acc false sp.1 8 with
      | .fail c => .fault c sp.1
      | .ok q e c =>
        if k = 4 ∧ s.poisoned q then .fault ⟨cECCU, 1⟩ sp.1
        else
          let s := (s.touch .net acc (.ok q e c)).useLines (portClass s) [(q, 8)]
          .done (s.putHome64 q (if k = 3 then f.value else s.home64 q + f.value))

/-- The record of a fault that the port met (R385). -/
def portFault (p : List Byte) (f : Frame) (c : Cause) (va : Nat) : FaultRec :=
  portRecord 5 (peerAsid p) c (if f.kind = 1#8 then 0 else if f.kind = 4#8 then 2 else 1) va

/-- Performs the frame next in order under a peer entry: done and acknowledged, refused, or held until it is resumed (R385). Its lock is
registered before and released once it is acknowledged; that of a read request stays until its read data is sent, that of a held
frame stays with it (R386). -/
def performNext (s : State) (x : RxFlow) (p : List Byte) (f : Frame) : State :=
  let l := frameLock p f
  let s := s.lockPort l
  let ended (s : State) : State := s.setRx { x with expected := x.expected + 1, frame := none }
  match performFrame s p f with
  | .done s => answer (ended (if f.kind = 1#8 then s else s.unlockPort l)) f false false false f.seq (f.seq + 1)
  | .refused => answer (ended (s.unlockPort l)) f true false true f.seq (f.seq + 1)
  | .fault c va =>
    answer (postFault (s.setRx { x with frame := some { frame := f, peer := p, lock := l } }) 16 (portFault p f c va)) f true true false
      f.seq x.expected

/-- The port reads the peer entry once for the frame (R381). -/
def takeFrame' (s : State) (x : RxFlow) (f : Frame) : State := performNext s x (peerEntry s f.src.toNat) f

/-- The lock of a frame that a port no longer holds is released (R386). -/
def dropRxFrame (s : State) (x : RxFlow) : State :=
  match x.frame with
  | some h => s.unlockPort h.lock
  | none => s

/-- The receiver's rules for a sequenced frame (R383): `act` performs the frame next in order. -/
def receive (s : State) (f : Frame) (act : State → RxFlow → State) : State :=
  if frameLost s f then countLost s
  else
    let fresh : RxFlow := { pkg := f.src.toNat, die := f.srcDie.toNat, openNo := f.openNo, expected := 0, frame := none }
    match s.rxFlow? f with
    | none => if f.opening ∧ f.seq = 0 then act s fresh else answer s f true false false f.seq 0
    | some x =>
      if x.openNo ≠ f.openNo then
        if f.opening ∧ f.seq = 0 then act (dropRxFrame s x) fresh else answer s f true false false f.seq 0
      else if x.frame.isSome then answer s f true true false f.seq x.expected
      else if x.expected ≠ f.seq then answer s f true false false f.seq x.expected
      else act s x

/-- The slot that read data answers: the one whose request to that package has its tag. -/
def answeredSlot (s : State) (f : Frame) : Option (Nat × Nat × Nat × PhSlot) :=
  (taggedSlot s f.tag).filter fun y =>
    match y.2.2.2.src with
    | .fab p _ => p.setWidth 16 = f.src
    | _ => false

/-- Bytes cut into elements. -/
def cutBytes (n : Nat) : Nat → List Byte → List (List Byte)
  | 0, _ => []
  | k + 1, bs => bs.take n :: cutBytes n k (bs.drop n)

/-- The engine writes read data locally, and the chunk is performed (R387). Data of a package without a valid entry, or with the fabric
disabled, is refused, and the transfer that awaits it stops (R385; the stop is a DESIGN CHOICE, notes/assumptions/85.md). -/
def takeReadData (s : State) (x : RxFlow) (f : Frame) : State :=
  let s := s.setRx { x with expected := x.expected + 1 }
  if !fabricTo s f.src.toNat then
    let s := answer s f true false true f.seq (f.seq + 1)
    match answeredSlot s f with
    | some (c, y, i, _) => settleContext (stopSlot s c y i cPROT 9 0 f.addr) c y
    | none => s
  else
    let s := answer s f false false false f.seq (f.seq + 1)
    match answeredSlot s f with
    | some (c, y, i, l) =>
      let r : Run := { a := .phrase c y, l := l }
      let es := chunkElems l 1
      settleContext (endChunk c y i (chunkCount l) 0 (writeElems r s l.dst (es.zip (cutBytes l.esz es.length f.data)))) c y
    | none => s

/-- The flow that an acknowledgment names; one with another open number is ignored (R383). -/
def ackedFlow (s : State) (f : Frame) : Option Flow :=
  (s.flow? f.srcDie.toNat f.src.toNat).bind fun x => if x.openNo = f.openNo then some x else none

/-- A cumulative acknowledgment. -/
def receiveAck (s : State) (f : Frame) : State :=
  if frameLost s f then countLost s
  else
    match ackedFlow s f with
    | some x =>
      let r := acknowledge s x f.ack
      wakeSenders (sendWaiting r.2 r.1)
    | none => s

/-- A negative acknowledgment: it refuses the operation that it names, holds the flow's timer, or makes the sender go back (R383,
R385). -/
def receiveNak (s : State) (f : Frame) : State :=
  if frameLost s f then countLost s
  else
    match ackedFlow s f with
    | none => s
    | some x =>
      if f.value = 1 then
        let r := acknowledge s x f.seq
        match r.1.unacked with
        | (g, who) :: rest =>
          if g.seq = f.seq then wakeSenders (failFrame (sendWaiting r.2 { r.1 with unacked := rest }) g who 9)
          else s
        | [] => wakeSenders (sendWaiting r.2 r.1)
      else if f.hold then s.setFlow { x with held := true }
      else
        let r := acknowledge s x f.ack
        let y := if ackedCount x f.ack = 0 then { x with held := false } else r.1
        let s := resend (r.2.setFlow y) y
        wakeSenders (sendWaiting s ((s.flow? y.die y.pkg).getD y))

/-- A frame as its port sorts it by its kind (R382). -/
def receiveFrame (s : State) (f : Frame) : State :=
  match f.kind.toNat with
  | 2 => receive s f fun s x => takeReadData s x f
  | 5 => receiveAck s f
  | 6 => receiveNak s f
  | _ => receive s f fun s x => takeFrame' s x f

/-- A frame of a kind is received: PAUSE frames and frames above the limit are discarded (R378), and one of another `EtherType` is no
fabric frame and goes to the kernel ring (R382, R395). -/
def receiveKind (kind : Nat) (f : Frame) (s : State) : Host.Outcome State Fault Refusal :=
  .next
    (if f.kind.toNat ≠ kind ∨ isPause (frameBytes f) ∨ !frameFits (frameBytes f).length then s
    else if f.etype = s.sys.etype then receiveFrame s f
    else ringReceive s f.port.toNat (frameBytes f) f.good)

def execFabricWrite (f : Frame) (s : State) : Host.Outcome State Fault Refusal := receiveKind 0 f s
def execFabricReadRequest (f : Frame) (s : State) : Host.Outcome State Fault Refusal := receiveKind 1 f s
def execFabricReadData (f : Frame) (s : State) : Host.Outcome State Fault Refusal := receiveKind 2 f s
def execFabricSignalSet (f : Frame) (s : State) : Host.Outcome State Fault Refusal := receiveKind 3 f s
def execFabricSignalAdd (f : Frame) (s : State) : Host.Outcome State Fault Refusal := receiveKind 4 f s
def execFabricAck (f : Frame) (s : State) : Host.Outcome State Fault Refusal := receiveKind 5 f s
def execFabricNak (f : Frame) (s : State) : Host.Outcome State Fault Refusal := receiveKind 6 f s

/-- A flow fails: its operations stop, and its next use opens it afresh (R384). -/
def failFlow (s : State) (x : Flow) : State :=
  let s := releaseReplies ((s.dropFlow x.die x.pkg).modSys fun y => { y with flowfail := y.flowfail + 1 }) (x.notSent ++ x.waiting)
  wakeSenders (x.unacked.foldl (fun u y => failFrame u y.1 y.2 10) s)

/-- Timeouts in a row after which a flow fails. -/
def timeoutLimit : Nat := 64

/-- The oldest unacknowledged frame of a flow has waited its time (R383). -/
def execRetransmitTimeout (die pkg : Nat) (s : State) : Host.Outcome State Fault Refusal :=
  match s.flow? die pkg with
  | none => .next s
  | some x =>
    if x.unacked.isEmpty ∨ x.held then .next s
    else if timeoutLimit ≤ x.timeouts + 1 then .next (failFlow s x)
    else
      let y := { x with timeouts := x.timeouts + 1 }
      .next (resend (s.setFlow y) y)

/-- A link comes up or goes down: flows leave a port that is down, and a flow without a port takes one of its mask that is up
and carries its frames from the oldest on (R380, R388). No port comes up where the boot has failed (R368), or on a medium of a reserved
code. -/
def execPortLinkChange (port : Nat) (up : Bool) (media : BitVec 3) (s : State) : Host.Outcome State Fault Refusal :=
  if 16 ≤ port ∨ up && (!s.sys.running || decide (4 < media.toNat)) then .next s
  else
    let w := tget 0 port s.sys.portstat &&& 0x0FFFFFFFFFFFFFFF#64
    let w := if up then w ||| (1#64 <<< 63) ||| (media.setWidth 64 <<< 60) else w &&& 0x7FFFFFFFFFFFFFFF#64
    let s := s.modSys fun y => { y with portstat := tset 0 port w y.portstat }
    .next (s.sys.flows.foldl
      (fun u x =>
        match x.port with
        | some p => if portUp u p then u else u.setFlow { x with port := pickPort u x.pkg }
        | none =>
          if (pickPort u x.pkg).isSome then resend u x else u)
      s)

/-- A frame is lost on reception and counted (R382). -/
def execFabricFrameLost (f : Frame) (s : State) : Host.Outcome State Fault Refusal :=
  .next (if f.etype = s.sys.etype && frameLost s f then countLost s else s)

end Sys2Proof.Machine
end

