-- ==== Sys2Proof/Machine/Events.lean ====
section
/-!
DEFINITION. Writes of device-space words by the resident kernel (R339), the package mark (R307), the storage port (R393, R394)
and the kernel rings (R395), and the reserved opcodes (R30).
-/
namespace Sys2Proof.Machine

/-! ### Device-space words -/

/-- A write to a word of die `d`; no die is above 16. -/
def onDie (d : Nat) (s : State) (g : State → State) : Host.Outcome State Fault Refusal := .next (if d ≤ 16 then g s else s)

def execAttcmdWrite (v : Dword) (s : State) : Host.Outcome State Fault Refusal := .next (writeAttcmd v s)
def execKringWrite (port : Nat) (v : Dword) (s : State) : Host.Outcome State Fault Refusal :=
  .next (if port < 16 then writeKring port v s else s)
def execIntpendWrite (die : Nat) (v : Dword) (s : State) : Host.Outcome State Fault Refusal := onDie die s (writeIntpend die v)
def execFbstatWrite (die : Nat) (v : Dword) (s : State) : Host.Outcome State Fault Refusal := onDie die s (writeFbstat die v)
def execPacfgWrite (die : Nat) (v : Dword) (s : State) : Host.Outcome State Fault Refusal := onDie die s (writePacfg die v)
def execViewcfgWrite (die : Nat) (v : Dword) (s : State) : Host.Outcome State Fault Refusal := onDie die s (writeViewcfg die v)
def execFtringWrite (die : Nat) (v : Dword) (s : State) : Host.Outcome State Fault Refusal := onDie die s (writeFtring die v)
def execQueueConfigWrite (q : Nat) (cfg : Bool) (v : Dword) (s : State) : Host.Outcome State Fault Refusal :=
  .next (if q < 64 then writeQueueConfig q cfg v s else s)
def execQcacheWrite (q : Nat) (v : Dword) (s : State) : Host.Outcome State Fault Refusal :=
  .next (if q < 64 then writeQcache q v s else s)
def execFabcfgWrite (v : Dword) (s : State) : Host.Outcome State Fault Refusal := .next (writeFabcfg v s)

/-- A write to any word; an offset that names no word is no access of device space (R339). -/
def execRegisterWrite (die off : Nat) (v : Dword) (s : State) : Host.Outcome State Fault Refusal :=
  onDie die s fun s => (devWrite s die off v).getD s

/-! ### The package mark (R307) -/

/-- The system die sends every core the greatest timestamp performed. -/
def execScPackageMark (s : State) : Host.Outcome State Fault Refusal :=
  let m := s.dies.foldl (fun m d => d.2.scMax.foldl (fun m x => if scNewer x.2.t m then x.2.t else m) m) s.sys.scMark
  .next (s.modSys fun y => { y with scMark := m })

/-! ### Reserved opcodes (R30) -/

def execReservedOpcode (w : BitVec 96) (s : State) : Host.Outcome State Fault Refusal := issueIllegal w s

/-! ### The storage port (R393, R394) -/

/-- The context of the device's requests. -/
def Sys.sasid (y : Sys) : BitVec 16 := y.spcfg.extractLsb' 48 16

/-- The lock on the bytes of a device's request (R216, R309). -/
def deviceLock (s : State) (write : Bool) (addr : Dword) (n : Nat) : RLock :=
  let r := outward (addr.toNat, addr.toNat + n)
  { asid := s.sys.sasid, lo := r.1, hi := r.2, write := write, owner := .device }

/-- A request of the device is in flight: until it is performed, its bytes are locked. A request that is performed in the step in which it
comes holds its lock within that step only (notes/assumptions/93.md). -/
def deviceBegins (write : Bool) (addr : Dword) (n : Nat) (s : State) : State := s.lockPort (deviceLock s write addr n)

/-- A memory request of the device: performed at the home slices, and its lock released; one that fails posts a record, and a write is
discarded. -/
def execStorageDeviceRequest (write : Bool) (addr : Dword) (len : Nat) (data : List Byte) (s : State) :
    Host.Outcome State Fault Refusal :=
  let n := if write then data.length else len
  let s := s.unlockPort (deviceLock s write addr n)
  match virtRange .storage (if write then .write else .read) s.sys.sasid s (piecesOf addr.toNat n) with
  | .error (c, va) => .next (postFault s 16 (portRecord 6 s.sys.sasid c (if write then 1 else 0) va))
  | .ok (ps, s) => .next (if write then portWrite s data ps else s.useLines (portClass s) ps)

/-- The link trains to a width and a speed, or goes down (both 0). -/
def execPcieLinkChange (width speed : BitVec 4) (s : State) : Host.Outcome State Fault Refusal :=
  if 4 < width.toNat ∨ 6 < speed.toNat ∨ (width = 0 ↔ speed ≠ 0) then .next s
  else
    .next (s.modSys fun y =>
      { y with spcfg := (y.spcfg &&& 0xFFFF000000000000#64) ||| (width.setWidth 64 <<< 4) ||| speed.setWidth 64 })

/-! ### Kernel rings (R378, R395) -/

/-- A frame that a port receives beside the fabric's rows: PAUSE frames and frames above the limit are discarded, a frame of the
fabric's `EtherType` is the fabric's (R382), and any other goes to the kernel ring. -/
def execKernelRingReceive (port : Nat) (data : List Byte) (good : Bool) (s : State) : Host.Outcome State Fault Refusal :=
  if 16 ≤ port ∨ !portUp s port then .next s
  else if isPause data ∨ !frameFits data.length then .next s
  else
    let f := frameOf port data good
    .next (if f.etype = s.sys.etype then receiveFrame s f else ringReceive s port data good)

def execKernelRingTransmit (port : Nat) (s : State) : Host.Outcome State Fault Refusal :=
  .next (if 16 ≤ port ∨ !portUp s port then s else ringTransmit s port)

end Sys2Proof.Machine
end

