-- ==== Sys2Proof/Machine/Firmware.lean ====
section
/-!
DEFINITION. The firmware core's step over the command queues (R350 to R357), gangs (R358, R359), and the completion of packets
(R352, R356).
-/
namespace Sys2Proof.Machine

/-! ### Queues -/

def Queue.dies (q : Queue) : BitVec 16 := q.qcfg.extractLsb' 32 16
def Queue.prio (q : Queue) : BitVec 3 := q.qcfg.extractLsb' 8 3

/-- The firmware core's translation buffer. -/
def fwTlb : TlbAt := .core firmwareCore

/-- A queue enters `ERROR` or `FETCHFAULT`: the system die raises its queue interrupt (R356). -/
def queueStop (s : State) (q : Nat) (st : BitVec 3) (ecode : BitVec 5) : State :=
  raiseInt 16 6 (s.setQueue q { s.queue q with qstate := st, ecode := ecode })

def queueHeld (s : State) (q : Nat) (h : BitVec 8) : State := s.setQueue q { s.queue q with qstate := 2, hcode := h }

/-- The record of a fault that firmware lane `q` met (R323, R355, R357). -/
def fwRecord (s : State) (q : Nat) (c : Cause) (kind va : Nat) : FaultRec :=
  { FaultRec.blank with
    cause := BitVec.ofNat 8 c.code, agent := 4, kind := if hasKind c.code then kind else 0, asid := (s.queue q).asid,
    core := firmwareCore, detail := c.detail, cdetail := BitVec.ofNat 64 (if hasKind c.code then kind else 0),
    lanes := bitMask q, grpno := q, addr := BitVec.ofNat 64 va, addrs := [(q, BitVec.ofNat 64 va)] }

/-- A fault on a packet's target or records: the packet stays untaken and its queue goes to `ERROR` (R355). -/
def targetFault (s : State) (q : Nat) (c : Cause) (kind va : Nat) : State :=
  postFault (queueStop s q 3 3) 16 (fwRecord s q c kind va)

/-- A fault on the ring (R357). -/
def fetchFault (s : State) (q : Nat) (c : Cause) (va : Nat) : State :=
  postFault (queueStop s q 4 (s.queue q).ecode) 16 (fwRecord s q c 0 va)

/-! ### Packets (R350 to R352) -/

/-- A packet that a lane has read: queue, index, the order of the step's accesses, bytes. -/
structure Packet where
  q : Nat
  idx : Word
  order : Nat
  bytes : List Byte
  deriving DecidableEq, Repr

def Packet.word (p : Packet) (off : Nat) : Dword := BitVec.ofNat 64 (recNat p.bytes off 8)
def Packet.header (p : Packet) : Dword := p.word 0
def Packet.type (p : Packet) : Nat := dbits p.header 3 5
def Packet.bar (p : Packet) : Bool := p.header.getLsbD 1
def Packet.arg (p : Packet) : Nat := dbits p.header 32 32
def Packet.addr (p : Packet) : Nat := (p.word 8).toNat

/-- The header is valid for index `i` in a ring of `n` slots (R351). -/
def phaseOk (h : Dword) (i : Word) (n : Nat) : Bool := h.getLsbD 0 = decide ((i.toNat / n + 1) % 2 = 1)

/-- The error code of a packet that breaks R350 or R352, if it does. -/
def Packet.error (p : Packet) : Option (BitVec 5) :=
  let ok (align : Nat) : Bool := decide (p.addr < 2 ^ 57) && p.addr % align = 0
  let good : Bool := match p.type with
    | 0 => p.arg = 0
    | 1 => p.arg = 0 && ok 256
    | 2 => p.arg = 0 && ok 64
    | 3 => ok 4
    | 4 => ok 8
    | _ => ok 8 && decide (p.arg < 2)
  if 5 < p.type then some 1 else if p.header.getLsbD 2 || dbits p.header 8 8 ≠ 0 || !good then some 2 else none

/-- The order of the accesses that the firmware group makes next: after those in flight. -/
def nextOrder (s : State) : Nat := (allFlights s).foldl (fun m x => max m (x.2.order + 1)) 0

/-- What the firmware group has written to `n` bytes at an address of a context is performed before it reads them (R305). -/
def seeOwn (s : State) (asid : BitVec 16) (va n : Nat) : State :=
  match s.check fwTlb asid false false false .read false va n with
  | .ok p _ _ => performFlights s fun x => x.meets p n
  | .fail _ => s

/-- The same before each part of a record that is read (R355). -/
def ownBefore (asid : BitVec 16) : Before := fun s va n => seeOwn s asid va n

/-- A lane fetches its packet, if it has one to process (R354). -/
def fetchPacket (s : State) (q : Nat) : Option Packet × State :=
  let k := s.queue q
  let i := k.ridx
  let va := k.qbase.toNat + 64 * (i.toNat % k.slots)
  if !queueCtxOk s k then (none, queueStop s q 3 4)
  else
    let s := seeOwn s k.asid va 64
    match s.readVirt fwTlb k.asid false va 8 with
    | .error c => (none, fetchFault s q c va)
    | .ok (h, s) =>
      if !phaseOk (BitVec.ofNat 64 h) i k.slots then (none, s.setQueue q { s.queue q with qstate := 0 })
      else
        match s.readWords fwTlb k.asid false (va + 8) 7 with
        | .error (c, va) => (none, fetchFault s q c va)
        | .ok (bs, s) =>
          if (s.ctxWord k.asid 0x40).getLsbD 0 then (none, queueHeld s q 5)
          else (some { q := q, idx := i, order := nextOrder s, bytes := leBytes 8 h ++ bs }, s)

/-- A packet is taken; `done` tells that it completes at once (R354). -/
def takePacket (s : State) (p : Packet) (done : Bool) : State :=
  let k := s.queue p.q
  s.setQueue p.q
    { k with ridx := p.idx + 1, qstate := 1, outst := if done then k.outst else k.outst + 1, attempts := 0, drain := 0 }

/-- Adds an access in flight to a queue. -/
def addFlight (s : State) (q : Nat) (x : InFlight) : State :=
  s.setQueue q { s.queue q with flight := (s.queue q).flight ++ [x] }

/-- Adds a packet's grids in flight to a queue. -/
def addGrids (s : State) (q idx : Nat) (gs : List Nat) : State :=
  s.setQueue q { s.queue q with gangs := (s.queue q).gangs ++ [(idx, gs)] }

/-- `ADD32` or `WRITE64`: the target is translated, and the access is in flight. -/
def takeAccess (s : State) (p : Packet) : State :=
  let is64 := p.type = 4
  let acc : Acc := if is64 then .write else .red
  match s.check fwTlb (s.queue p.q).asid false false false acc false p.addr (if is64 then 8 else 4) with
  | .fail c => targetFault s p.q c (if is64 then 1 else 2) p.addr
  | .ok q e c =>
    if !is64 && s.poisoned q then targetFault s p.q ⟨cECCU, 1⟩ 2 p.addr
    else
      let s := s.touch fwTlb acc (.ok q e c)
      addFlight (takePacket s p false) p.q
        { idx := p.idx.toNat, order := if is64 then p.order else p.order + 1, is64 := is64, va := p.addr, phys := q,
          page := s.pageAt fwTlb (s.queue p.q).asid p.addr, stale := false,
          value := if is64 then p.word 0x10 else BitVec.ofNat 64 p.arg }

/-- `WAITMEM`: taken only while its condition holds. -/
def takeWait (s : State) (p : Packet) : State :=
  match (seeOwn s (s.queue p.q).asid p.addr 8).readVirt fwTlb (s.queue p.q).asid false p.addr 8 with
  | .error c => targetFault s p.q c 0 p.addr
  | .ok (v, s) =>
    let eq : Bool := (BitVec.ofNat 64 v &&& p.word 0x10) = p.word 0x18
    if eq = (p.arg = 0) then takePacket s p true else queueHeld s p.q 2

/-- Grids of a queue that are outstanding (R353). -/
def queueGrids (s : State) (q : Nat) : Nat :=
  (s.grids.filter fun x => x.2.queue = some q && x.2.parent.isNone && x.2.shade.isNone && x.2.stage ≠ 2).length

/-- `GRID`: the record is read and the grid waits for placement, or has failed to launch. -/
def takeGrid (s : State) (p : Packet) : State :=
  let k := s.queue p.q
  if 256 ≤ queueGrids s p.q then queueHeld s p.q 4
  else
    match readGrid s fwTlb k.asid p.addr (ownBefore k.asid) with
    | .error (c, va) => targetFault s p.q c 0 va
    | .ok (src, s) =>
      let g := { gridOf src p.addr k.asid k.dies k.prio s.nextAge with
                 queue := some p.q, packet := p.idx.toNat,
                 status := match launchFailure s src k.asid k.dies false with
                   | some d => failStatus d
                   | none => 0 }
      let r := addGrid s g
      addGrids (takePacket r.2 p false) p.q p.idx.toNat [r.1]

/-! ### Gangs (R358, R359) -/

/-- A gang record: grid record addresses with their dies. -/
def gangEntries (bs : List Byte) : List (Nat × BitVec 16) :=
  (List.range (min 8 (recNat bs 0 8))).map fun k => (recNat bs (0x10 + 16 * k) 8, BitVec.ofNat 16 (recNat bs (0x18 + 16 * k) 2))

/-- The gang record keeps R358. -/
def gangOk (s : State) (asid : BitVec 16) (bs : List Byte) : Bool :=
  let es := gangEntries bs
  decide (1 ≤ recNat bs 0 8) && decide (recNat bs 0 8 ≤ 8) &&
    ((List.range es.length).all fun k => zeroIn bs (0x1A + 16 * k) 6) && (es.all fun e => e.1 % 256 = 0) &&
    (es.all fun e => e.2 &&& ~~~(s.ctxDies asid) = 0) &&
    ((List.range es.length).all fun i => (List.range i).all fun j =>
      ((es.getD i (0, 0)).2 &&& (es.getD j (0, 0)).2) = 0)

/-- Reads the records of a gang's grids, in turn. -/
def readGang (s : State) (asid : BitVec 16) :
    List (Nat × BitVec 16) → Except (Cause × Nat) (List (GridSrc × Nat × BitVec 16) × State)
  | [] => .ok ([], s)
  | (va, m) :: r =>
    match readGrid s fwTlb asid va (ownBefore asid) with
    | .error e => .error e
    | .ok (src, s) =>
      match readGang s asid r with
      | .error e => .error e
      | .ok (l, s) => .ok ((src, va, m) :: l, s)

/-- Adds the grids of a gang; `fail` gives the detail with which one fails to launch. -/
def addGang (s : State) (p : Packet) (asid : BitVec 16) (prio : BitVec 3) (fail : GridSrc → BitVec 16 → Option Nat) :
    List (GridSrc × Nat × BitVec 16) → List Nat × State
  | [] => ([], s)
  | (src, va, m) :: r =>
    let g := { gridOf src va asid m prio s.nextAge with
               queue := some p.q, packet := p.idx.toNat,
               status := match fail src m with
                 | some d => failStatus d
                 | none => 0 }
    let x := addGrid s g
    let y := addGang x.2 p asid prio fail r
    (x.1 :: y.1, y.2)

/-- Places every block of the gang's grids that did not fail. -/
def placeGang (s : State) : List Nat → Option State
  | [] => some s
  | n :: r =>
    match s.grid? n with
    | none => none
    | some g => if g.status ≠ 0 then placeGang s r else (placeAll s n g.nblk).bind fun s => placeGang s r

/-- No earlier grid or gang packet of the queue waits for a block's placement (R346). -/
def queuePlaced (s : State) (q : Nat) : Bool :=
  s.grids.all fun x => !(x.2.queue = some q && x.2.parent.isNone && x.2.shade.isNone && x.2.waits)

/-- Attempts of a gang after which its dies are drained. -/
def drainAfter : Nat := 16

/-- A gang that is not committed: its reservations are released and its queue is held. -/
def gangHeld (s : State) (p : Packet) (dies : BitVec 16) : State :=
  let k := s.queue p.q
  s.setQueue p.q
    { k with qstate := 2, hcode := 3, attempts := k.attempts + 1,
             drain := if drainAfter ≤ k.attempts + 1 then dies else k.drain }

/-- Reads a gang record: its count, then as many entries as it tells of. -/
def readGangRec (s : State) (asid : BitVec 16) (va : Nat) : Except (Cause × Nat) (List Byte × State) :=
  match s.readWords fwTlb asid false va 2 Cls.plain (ownBefore asid) with
  | .error e => .error e
  | .ok (h, s) =>
    match s.readWords fwTlb asid false (va + 16) (2 * min 8 (recNat h 0 8)) Cls.plain (ownBefore asid) with
    | .error e => .error e
    | .ok (bs, s) => .ok (h ++ bs, s)

/-- `GANG`: all its grids are placed at once, or none is; a record that breaks its rules fails every grid it names. -/
def takeGang (s : State) (p : Packet) : State :=
  let k := s.queue p.q
  match readGangRec s k.asid p.addr with
  | .error (c, va) => targetFault s p.q c 0 va
  | .ok (bs, s) =>
    let es := gangEntries bs
    let bad := !gangOk s k.asid bs
    match readGang s k.asid (if bad then es.filter fun e => e.1 % 256 = 0 else es) with
    | .error (c, va) => targetFault s p.q c 0 va
    | .ok (l, s) =>
      let fail (src : GridSrc) (m : BitVec 16) : Option Nat := if bad then some 4 else launchFailure s src k.asid m true
      let own : State := s.setQueue p.q { s.queue p.q with drain := 0 }
      let r := addGang own p k.asid k.prio fail l
      let dies := es.foldl (fun m e => m ||| e.2) 0
      match if bad || queuePlaced s p.q then placeGang r.2 r.1 else none with
      | some s' => addGrids (takePacket s' p false) p.q p.idx.toNat r.1
      | none => gangHeld s p dies

/-! ### The step (R354, R355) -/

/-- The place of a packet in the order of R355. -/
def Packet.rank (p : Packet) : Nat :=
  if p.error.isSome then 1
  else
    match p.type with
    | 5 => 2
    | 4 => 3
    | 3 => 4
    | 0 => 5
    | 1 => 6
    | _ => 7

/-- One lane processes its packet. -/
def processPacket (s : State) (p : Packet) : State :=
  match p.error with
  | some e => queueStop s p.q 3 e
  | none =>
    if p.bar && (s.queue p.q).outst ≠ 0 then queueHeld s p.q 1
    else
      match p.type with
      | 0 => takePacket s p true
      | 1 => takeGrid s p
      | 2 => takeGang s p
      | 5 => takeWait s p
      | _ => takeAccess s p

/-- The lanes whose queues are served. -/
def servedQueues (s : State) : List Nat := (List.range 64).filter fun q => decide ((s.queue q).qstate.toNat ≤ 2)

/-- Every served lane fetches its packet, then the packets are processed type by type (R355). -/
def execFirmwareStep (s : State) : Host.Outcome State Fault Refusal :=
  if !s.sys.running then .next s
  else
    let r := (servedQueues s).foldl
      (fun (acc : List Packet × State) q =>
        match fetchPacket acc.2 q with
        | (some p, s) => (acc.1 ++ [p], s)
        | (none, s) => (acc.1, s))
      ([], s)
    .next ([1, 2, 3, 4, 5, 6, 7].foldl
      (fun u k => (r.1.filter fun p => p.rank = k).foldl processPacket u) r.2)

/-! ### Completion (R352, R356) -/

/-- A taken packet completes: its access is performed, where none is left that comes before it, or every grid of it is complete;
`OUTST` falls. Else nothing happens. -/
def execPacketCompletion (q idx : Nat) (s : State) : Host.Outcome State Fault Refusal :=
  let k := s.queue q
  match k.flight.find? fun x => x.idx = idx with
  | some x => .next (if (allFlights s).any fun y => y.2.precedes x then s else completeFlight s q x)
  | none =>
    match k.gangs.find? fun x => x.1 = idx with
    | none => .next s
    | some x =>
      if x.2.all fun n => (s.grid? n).all fun g => g.stage = 2 then
        let s := x.2.foldl (fun (u : State) n => { u with grids := tdel n u.grids }) s
        .next (s.setQueue q { k with gangs := k.gangs.filter fun y => y.1 ≠ idx, outst := k.outst - 1 })
      else .next s

end Sys2Proof.Machine
end

