-- ==== Sys2Proof/Machine/Render.lean ====
section
/-!
DEFINITION. The geometry of views in exact arithmetic: camera records and rays (R266, R267), dicing (R272), sample coordinates
(R271), visibility (R275) and the values of samples and pixels (R270).
-/
namespace Sys2Proof.Machine

/-! ### Exact fractions -/

/-- num / den, with den positive. -/
structure Frac where
  num : Int
  den : Nat
  deriving DecidableEq, Repr

def Frac.ofNat (n : Nat) : Frac := ⟨n, 1⟩
def Frac.add (x y : Frac) : Frac := if x.den = y.den then ⟨x.num + y.num, x.den⟩ else ⟨x.num * y.den + y.num * x.den, x.den * y.den⟩
def Frac.neg (x : Frac) : Frac := ⟨-x.num, x.den⟩
def Frac.sub (x y : Frac) : Frac := x.add y.neg
def Frac.mul (x y : Frac) : Frac := ⟨x.num * y.num, x.den * y.den⟩

/-- x / y, for y ≠ 0. -/
def Frac.div (x y : Frac) : Frac := ⟨if y.num < 0 then -(x.num * y.den) else x.num * y.den, x.den * y.num.natAbs⟩

def Frac.le (x y : Frac) : Bool := decide (x.num * y.den ≤ y.num * x.den)
def Frac.lt (x y : Frac) : Bool := decide (x.num * y.den < y.num * x.den)
def Frac.isZero (x : Frac) : Bool := x.num = 0

/-- The value of a finite `F32`. -/
def fracOf (w : Word) : Option Frac :=
  match widen .f32 w.toNat with
  | .fin x =>
    let v : Int := if x.neg then -(x.m : Int) else x.m
    some (if 0 ≤ x.e then ⟨v * 2 ^ x.e.toNat, 1⟩ else ⟨v, 2 ^ (-x.e).toNat⟩)
  | _ => none

/-- `RoundRN` of an exact value to `F32`. -/
def Frac.round (x : Frac) : Word :=
  if x.num = 0 then 0
  else
    let sh := x.den.log2 + 64
    let n := x.num.natAbs <<< sh
    BitVec.ofNat 32 (roundEx .f32 .rn false
      { neg := decide (x.num < 0), m := n / x.den, e := -(sh : Int), sticky := decide (n % x.den ≠ 0) }).1

/-! ### Vectors -/

structure FVec where
  x : Frac
  y : Frac
  z : Frac
  deriving DecidableEq, Repr

def FVec.add (a b : FVec) : FVec := ⟨a.x.add b.x, a.y.add b.y, a.z.add b.z⟩
def FVec.sub (a b : FVec) : FVec := ⟨a.x.sub b.x, a.y.sub b.y, a.z.sub b.z⟩
def FVec.scale (k : Frac) (a : FVec) : FVec := ⟨k.mul a.x, k.mul a.y, k.mul a.z⟩
def FVec.dot (a b : FVec) : Frac := ((a.x.mul b.x).add (a.y.mul b.y)).add (a.z.mul b.z)
def FVec.cross (a b : FVec) : FVec :=
  ⟨(a.y.mul b.z).sub (a.z.mul b.y), (a.z.mul b.x).sub (a.x.mul b.z), (a.x.mul b.y).sub (a.y.mul b.x)⟩

/-- The value of a point whose coordinates are all finite. -/
def vecOf (v : Vec3) : Option FVec :=
  match fracOf v.x, fracOf v.y, fracOf v.z with
  | some x, some y, some z => some ⟨x, y, z⟩
  | _, _, _ => none

/-! ### Camera records (R266, R267) -/

/-- A number of bytes at an offset. -/
def fieldNat (bs : List Byte) (off n : Nat) : Nat := (((bs.drop off).take n).foldr (fun b acc => b.toNat + 256 * acc) 0)

def fieldWord (bs : List Byte) (off : Nat) : Word := BitVec.ofNat 32 (fieldNat bs off 4)

def fieldVec (bs : List Byte) (off : Nat) : Vec3 := ⟨fieldWord bs off, fieldWord bs (off + 4), fieldWord bs (off + 8)⟩

/-- A valid camera record. -/
structure Cam where
  persp : Bool
  cmot : Bool
  seed : Word
  eye : FVec
  rt : FVec
  up : FVec
  fw : FVec
  eye1 : FVec
  lensr : Frac
  focus : Frac
  hw : Frac
  hh : Frac
  near : Frac
  far : Frac
  deriving DecidableEq, Repr

/-- Reserved bytes and bits of a camera record are zero, and its kind is one of two. -/
def camShape (bs : List Byte) : Bool :=
  decide (fieldNat bs 0 1 ≤ 1) && decide (fieldNat bs 1 1 ≤ 1) && fieldNat bs 2 2 = 0 && fieldNat bs 0x14 4 = 0 &&
    fieldNat bs 0x24 4 = 0 && fieldNat bs 0x64 28 = 0

/-- The order of its depths and the signs of its lens fields. -/
def camRanges (c : Cam) : Bool :=
  let zero := Frac.ofNat 0
  c.near.lt c.far && (!c.persp || zero.lt c.near) && zero.le c.lensr && (c.lensr.isZero || zero.lt c.focus)

/-- The camera of 128 bytes, or none where the record breaks R267. -/
def camOf (bs : List Byte) : Option Cam := do
  let eye ← vecOf (fieldVec bs 0x08)
  let rt ← vecOf (fieldVec bs 0x18)
  let up ← vecOf (fieldVec bs 0x28)
  let fw ← vecOf (fieldVec bs 0x38)
  let eye1 ← vecOf (fieldVec bs 0x58)
  let lensr ← fracOf (fieldWord bs 0x34)
  let focus ← fracOf (fieldWord bs 0x44)
  let hw ← fracOf (fieldWord bs 0x48)
  let hh ← fracOf (fieldWord bs 0x4C)
  let near ← fracOf (fieldWord bs 0x50)
  let far ← fracOf (fieldWord bs 0x54)
  let c : Cam :=
    { persp := fieldNat bs 0 1 = 1, cmot := fieldNat bs 1 1 = 1, seed := fieldWord bs 4, eye := eye, rt := rt, up := up, fw := fw,
      eye1 := eye1, lensr := lensr, focus := focus, hw := hw, hh := hh, near := near, far := far }
  if camShape bs && camRanges c then some c else none

/-! ### Samples and rays (R267, R271) -/

/-- `Mix`. -/
def mix32 (x : Word) : Word :=
  let x := (x ^^^ (x >>> 16)) * 0x7FEB352D#32
  let x := (x ^^^ (x >>> 15)) * 0x846CA68B#32
  x ^^^ (x >>> 16)

/-- The word H(w) of sample s of pixel (i, j). -/
def sampleWord (seed : Word) (i j s w : Nat) : Word :=
  mix32 (mix32 (BitVec.ofNat 32 (65536 * i + 256 * j + 4 * s + w)) ^^^ seed)

/-- The coordinates of a sample. -/
structure Sample where
  sx : Frac
  sy : Frac
  tau : Frac
  lx : Frac
  ly : Frac
  deriving DecidableEq, Repr

def sampleAt (mode : Nat) (seed : Word) (i j s : Nat) : Sample :=
  if mode = 0 then ⟨⟨1, 2⟩, ⟨1, 2⟩, ⟨0, 1⟩, ⟨0, 1⟩, ⟨0, 1⟩⟩
  else
    let h (w : Nat) : Nat := (sampleWord seed i j s w).toNat
    let unit (w : Nat) : Frac := ⟨(h w / 256 : Nat), 2 ^ 24⟩
    let lens (n : Nat) : Frac := ⟨(n : Int) - 2 ^ 15, 2 ^ 15⟩
    ⟨unit 0, unit 1, unit 2, lens (h 3 / 65536), lens (h 3 % 65536)⟩

/-- Samples of a pixel. -/
def sampleCount (mode : Nat) : Nat :=
  match mode with
  | 0 => 1
  | 1 => 4
  | _ => 16

/-- A ray with the eye that depths are measured from. -/
structure Ray where
  eye : FVec
  o : FVec
  d : FVec
  deriving DecidableEq, Repr

/-- The ray of a sample of pixel (i, j) of a tile of `rows` and `cols`. -/
def rayOf (c : Cam) (rows cols i j : Nat) (p : Sample) : Ray :=
  let one := Frac.ofNat 1
  let px := (((Frac.ofNat (2 * j)).add (p.sx.mul (Frac.ofNat 2))).div (Frac.ofNat cols)).sub one
  let py := one.sub (((Frac.ofNat (2 * i)).add (p.sy.mul (Frac.ofNat 2))).div (Frac.ofNat rows))
  let e := if c.cmot then c.eye.add ((c.eye1.sub c.eye).scale p.tau) else c.eye
  let off := (c.rt.scale (px.mul c.hw)).add (c.up.scale (py.mul c.hh))
  let o := if c.persp then e else e.add off
  let d := if c.persp then c.fw.add off else c.fw
  if c.lensr.isZero then ⟨e, o, d⟩
  else
    let f := o.add (d.scale c.focus)
    let o' := o.add (((c.rt.scale p.lx).add (c.up.scale p.ly)).scale c.lensr)
    ⟨e, o', f.sub o'⟩

/-! ### Dicing (R272) -/

/-- The corner points P0 to P3, or their values at τ = 1, of a primitive: a triangle is the patch with its last point twice. -/
def corners (quad : Bool) (l : List FVec) : List FVec := if quad then l else l.take 3 ++ (l.drop 2).take 1

/-- The bilinear patch at (U / nu, V / nv). -/
def bilinear (l : List FVec) (u nu v nv : Nat) : FVec :=
  let zero : FVec := ⟨⟨0, 1⟩, ⟨0, 1⟩, ⟨0, 1⟩⟩
  let w (a b : Nat) : Frac := ⟨(a * b : Nat), nu * nv⟩
  (((l.getD 0 zero).scale (w (nu - u) (nv - v))).add ((l.getD 1 zero).scale (w u (nv - v)))).add
    (((l.getD 2 zero).scale (w (nu - u) v)).add ((l.getD 3 zero).scale (w u v)))

/-- The depth of a point from an eye. -/
def depthFrom (c : Cam) (eye p : FVec) : Frac := (p.sub eye).dot c.fw

/-- The place of a point in pixels, with τ = 0 and no lens; none where no ray reaches it, or a half-width is 0. -/
def toPixels (c : Cam) (rows cols : Nat) (p : FVec) : Option (Frac × Frac) :=
  let r := p.sub c.eye
  let n := c.up.cross c.fw
  let det := c.rt.dot n
  let x := r.dot n
  let y := r.dot (c.fw.cross c.rt)
  let z := r.dot (c.rt.cross c.up)
  let dx := if c.persp then z else det
  if det.isZero || dx.isZero || c.hw.isZero || c.hh.isZero then none
  else
    let px := (x.div dx).div c.hw
    let py := (y.div dx).div c.hh
    let half (k : Nat) : Frac := ⟨k, 2⟩
    some ((half cols).mul px, (half rows).mul py)

/-- The square of the distance of two places. -/
def dist2 (a b : Frac × Frac) : Frac :=
  let dx := a.1.sub b.1
  let dy := a.2.sub b.2
  (dx.mul dx).add (dy.mul dy)

def Frac.max (x y : Frac) : Frac := if x.le y then y else x

/-- min(64, max(1, ⌈L / dice⌉)) for a length whose square is `l2`. -/
def segments (l2 dice : Frac) : Nat :=
  ((List.range 64).find? fun i => l2.le ((Frac.ofNat ((i + 1) * (i + 1))).mul (dice.mul dice))).elim 64 fun i => i + 1

/-- The segments nu and nv of a patch; none where the projection of a corner does not exist. -/
def segmentsOf (c : Cam) (rows cols : Nat) (dice : Frac) (l : List FVec) : Option (Nat × Nat) :=
  if l.any fun p => (depthFrom c c.eye p).le c.near then some (64, 64)
  else
    match l.map (toPixels c rows cols) with
    | [some a, some b, some x, some y] =>
      some (segments ((dist2 a b).max (dist2 x y)) dice, segments ((dist2 a x).max (dist2 b y)) dice)
    | _ => none

/-! ### Micropolygons (R272) -/

/-- A triangle to sample: its vertices at τ = 0, their motion to τ = 1, its primitive, number, identity and colour. -/
structure MPoly where
  a : FVec
  b : FVec
  c : FVec
  da : FVec
  db : FVec
  dc : FVec
  prim : Nat
  num : Nat
  ident : Word
  colour : Word
  deriving DecidableEq, Repr

/-- The values of a primitive's points; they were checked to be finite. -/
def vecsOf (l : List Vec3) : List FVec := l.filterMap vecOf

/-- The motion B_Q − B_P at (U / nu, V / nv). -/
def motionAt (pr : Prim) (u nu v nv : Nat) : FVec :=
  let p := corners pr.quad (vecsOf pr.p)
  let q := corners pr.quad (vecsOf pr.q)
  if pr.motion then (bilinear q u nu v nv).sub (bilinear p u nu v nv) else ⟨⟨0, 1⟩, ⟨0, 1⟩, ⟨0, 1⟩⟩

/-- A vertex of a subgrid: its position and colour, and its motion. -/
def subVertex (pr : Prim) (x : Sub) (c r : Nat) : Option (FVec × FVec × Word) :=
  match x.verts[r * x.a + c]? with
  | none => none
  | some (p, col) => (vecOf p).map fun v => (v, motionAt pr (7 * x.k + c) x.nu (3 * x.m + r) x.nv, col)

/-- The triangles of a cell; one with a vertex that is not finite is none. -/
def cellTris (pr : Prim) (x : Sub) (prim c r : Nat) : List (Option MPoly) :=
  let col := (x.verts.getD (r * x.a + c) (⟨0, 0, 0⟩, 0)).2
  let tri (u v w : Option (FVec × FVec × Word)) : Option MPoly :=
    match u, v, w with
    | some u, some v, some w =>
      some { a := u.1, b := v.1, c := w.1, da := u.2.1, db := v.2.1, dc := w.2.1, prim := prim, num := 0, ident := pr.ident,
             colour := col }
    | _, _, _ => none
  let at' := subVertex pr x
  [tri (at' c r) (at' (c + 1) r) (at' (c + 1) (r + 1)), tri (at' c r) (at' (c + 1) (r + 1)) (at' c (r + 1))]

/-- The triangles of a subgrid. -/
def subTris (pr : Prim) (x : Sub) (prim : Nat) : List (Option MPoly) :=
  (List.range (x.b - 1)).flatMap fun r => (List.range (x.a - 1)).flatMap fun c => cellTris pr x prim c r

/-- The triangle of an undiced primitive. -/
def wholeTri (pr : Prim) (prim : Nat) : Option MPoly :=
  match vecsOf pr.p with
  | a :: b :: c :: _ =>
    some { a := a, b := b, c := c, da := motionAt pr 0 1 0 1, db := motionAt pr 1 1 0 1, dc := motionAt pr 0 1 1 1, prim := prim,
           num := 0, ident := pr.ident, colour := pr.colour }
  | _ => none

/-- The triangles of a primitive, numbered. -/
def primTris (subs : List Sub) (prim : Nat) (pr : Prim) : List MPoly :=
  let mine := subs.filter fun x => x.prim = prim
  let l := if mine.isEmpty then [wholeTri pr prim] else mine.flatMap fun x => subTris pr x prim
  ((l.zip (List.range l.length)).filterMap fun x => x.1.map fun m => { m with num := x.2 })

/-- Every triangle of a view. -/
def viewTris (prims : List Prim) (subs : List Sub) : List MPoly :=
  (prims.zip (List.range prims.length)).flatMap fun x => primTris subs x.2 x.1

/-! ### Visibility (R275) -/

/-- The exact depth at which a ray hits a triangle at τ. -/
def hitDepth (c : Cam) (r : Ray) (tau : Frac) (m : MPoly) : Option Frac :=
  let a := m.a.add (m.da.scale tau)
  let b := m.b.add (m.db.scale tau)
  let q := m.c.add (m.dc.scale tau)
  let n := (b.sub a).cross (q.sub a)
  let nd := n.dot r.d
  if nd.isZero then none
  else
    let p := r.o.add (r.d.scale ((n.dot (a.sub r.o)).div nd))
    let zero := Frac.ofNat 0
    let inside (u v : FVec) : Bool := zero.le (n.dot ((v.sub u).cross (p.sub u)))
    let z := depthFrom c r.eye p
    if inside a b && inside b q && inside q a && c.near.le z && z.le c.far then some z else none

/-- A hit: its depth and triangle. -/
structure Hit where
  z : Frac
  m : MPoly
  deriving DecidableEq, Repr

/-- The first hit comes before the second. -/
def Hit.before (x y : Hit) : Bool :=
  x.z.lt y.z || (!y.z.lt x.z &&
    (decide (x.m.ident < y.m.ident) || x.m.ident = y.m.ident &&
      (decide (x.m.prim < y.m.prim) || x.m.prim = y.m.prim && decide (x.m.num < y.m.num))))

/-- The visible hit of a sample. -/
def visible (c : Cam) (r : Ray) (tau : Frac) (l : List MPoly) : Option Hit :=
  l.foldl
    (fun (acc : Option Hit) m =>
      match hitDepth c r tau m with
      | none => acc
      | some z =>
        let h : Hit := ⟨z, m⟩
        match acc with
        | none => some h
        | some y => if h.before y then some h else acc) none

/-! ### Pixels (R270) -/

/-- The visible hits of the samples of pixel (i, j). -/
def pixelHits (c : Cam) (mode rows cols i j : Nat) (l : List MPoly) : List (Option Hit) :=
  (List.range (sampleCount mode)).map fun s =>
    let p := sampleAt mode c.seed i j s
    visible c (rayOf c rows cols i j p) p.tau l

/-- The nearest hit among samples, the first at equal depth. -/
def nearestHit (l : List (Option Hit)) : Option Hit :=
  l.foldl
    (fun (acc : Option Hit) h =>
      match acc, h with
      | none, h => h
      | some y, some x => if x.z.lt y.z then some x else acc
      | some _, none => acc) none

/-- The mean of one byte of the sample colours. -/
def meanByte (l : List Word) (b : Nat) : Nat :=
  ((l.map fun w => (w.toNat >>> (8 * b)) % 256).foldl (· + ·) 0 + l.length / 2) / max 1 l.length

/-- The value of a pixel on a channel. -/
def pixelValue (chan : Nat) (bg : Word) (l : List (Option Hit)) : Word :=
  match chan with
  | 0 => (nearestHit l).elim 0x7F800000 fun h => h.z.round
  | 1 => Frac.round ⟨(l.filter Option.isSome).length, max 1 l.length⟩
  | 2 => (nearestHit l).elim 0xFFFFFFFF fun h => h.m.ident
  | _ =>
    let cs := l.map fun h => h.elim bg fun h => h.m.colour
    BitVec.ofNat 32 ((List.range 4).foldl (fun acc b => acc + (meanByte cs b) <<< (8 * b)) 0)

end Sys2Proof.Machine
end

