-- ==== Sys2Proof/Machine/View.lean ====
section
/-!
DEFINITION. Views: `VIEW`, `VSTAT`, `VCAN`, opcodes 0xDB to 0xDD (R283 to R286), the dicing and sampling units (R268, R269, R272,
R273, R278, R287, R288), arrival (R282, R284), faults of views and their end by the resident kernel (R280, R281), and the wait for
a view record (R277).
-/
namespace Sys2Proof.Machine

/-! ### Status and records (R276, R277) -/

def vsNONE : Word := 0
def vsFILLING : Word := 1
def vsDONE : Word := 2
def vsCANCELLED : Word := 3
def vsDEPTH : Word := 4
def vsCUTERR : Word := 5
def vsKILLED : Word := 6

/-- A status word of a code, a level and a detail. -/
def viewStatus (code : Word) (level detail : Nat) : Word := code ||| BitVec.ofNat 32 (1024 * level + 65536 * detail)

/-- Records of one pool. -/
def viewRecords : Nat := 256

/-- A record of a level is free on a die. -/
def recordFree (s : State) (die level : Nat) : Bool :=
  decide ((s.views.filter fun x => x.2.die = die && x.2.level = level).length < viewRecords)

/-- The view in flight into a tile of a block. -/
def viewInto (s : State) (b n : Nat) : Option (Nat × View) :=
  s.views.find? fun x => x.2.block = b && x.2.tile = n && !x.2.withdrawn

def State.setView (s : State) (n : Nat) (v : View) : State := { s with views := tput n v s.views }

/-! ### `VIEW` (R284) -/

/-- A trap of the leader lane on the camera record. -/
def leaderTrap (c : Cause) (l : Nat) (va : Dword) : Trap :=
  { Trap.all c.code c.detail (bitMask l) with addrs := [(l, va)] }

/-- A tile of the group's block becomes `EMPTY` with a status word. -/
def emptyTile (e : Env) (s : State) (n : Nat) (v : Word) : State :=
  modBlock e s fun k => k.setTile n { (k.tile n).release with vstat := v }

/-- What a `VIEW` takes at its issue: the camera copy, the tile's rows and columns, and its place in the order of issue (R278). -/
def viewAsk (e : Env) (k : Block) (n : Nat) (cam cut : Dword) (bs : List Byte) (age : Nat) : ViewAsk :=
  { age := age, tile := n, chan := e.f.xb 4 2, mode := e.f.xb 6 2, rows := (k.tile n).rows, cols := (k.tile n).cols, camAddr := cam, cut := cut,
    cam := bs }

/-- The view that a group starts into a tile of its block `k`. -/
def newView (s : State) (a : Agent) (t : Thread) (k : Block) (q : ViewAsk) : View :=
  { block := s.blockNo a, grp := agentIndex a, tile := q.tile, die := s.dieNo a, pc := t.pc, level := t.vdepth.toNat + 1,
    asid := k.asid, prio := (s.grid? k.grid).elim 0 Grid.prio, grid := k.grid, camAddr := q.camAddr, cam := q.cam, cut := q.cut,
    chan := q.chan, mode := q.mode, rows := q.rows, cols := q.cols, age := q.age, phase := .dice, fault := false,
    withdrawn := false, cutBytes := [], primBytes := [], prims := [], subs := [], shadesLeft := 0, bg := 0, row := 0, pixels := [],
    asked := false, leave := false }

/-- Starts a view: its tile is `FILLING`. -/
def startView (s : State) (v : View) : State :=
  match s.block? v.block with
  | none => s
  | some k =>
    let s := s.setBlock v.block
      (k.setTile v.tile { k.tile v.tile with st := .filling, by' := .view, vstat := viewStatus vsFILLING v.level 0 })
    { s.setView s.nextView v with nextView := s.nextView + 1 }

/-- The rest of `VIEW` on a `READY` tile of format `D32`, whose status word is 0 from here on unless the word traps, which changes
nothing (R31). A group that finds no record free waits for one with what it has taken. -/
def viewReady (e : Env) (s : State) (k : Block) (n l : Nat) : Res :=
  let cam := e.va 64 l
  if e.t.vdepth = 3#2 then
    if k.tctl.getLsbD 2 then .trap (Trap.all cVIEWDEPTH 0 e.act) s else .ok (emptyTile e s n vsDEPTH)
  else
    let u := modBlock e s fun k => k.setTile n { k.tile n with vstat := 0 }
    match groupRead e (u.release (u.coreNo e.a) .pkg) cam.toNat 16 with
    | .error (c, va) => .trap (leaderTrap c l (BitVec.ofNat 64 va)) s
    | .ok (bs, s) =>
      let q := viewAsk e k n cam (e.vb 64 l) bs s.nextAge
      let s := { s with nextAge := s.nextAge + 1 }
      if (camOf bs).isNone then .ok (emptyTile e s n (viewStatus vsCUTERR 0 1))
      else if !recordFree s (s.dieNo e.a) (e.t.vdepth.toNat + 1) then
        .go ((park s e.a .vrec 0).modThread e.a fun t => { t with ask := some q })
      else .ok (startView s (newView s e.a e.t k q))

def execView (f : Fields) (s : State) := issue 0xDB f s fun e s =>
  match lowest e.n (e.act &&& e.t.getP (f.xb 0 4) &&& ~~~e.t.help) with
  | none => .ok s
  | some l =>
    let cam := e.va 64 l
    let cut := e.vb 64 l
    if cam.toNat % 128 ≠ 0 then .trap (leaderTrap ⟨cMISALIGN, 0⟩ l cam) s
    else if cut.toNat % 64 ≠ 0 then .trap (leaderTrap ⟨cMISALIGN, 0⟩ l cut) s
    else
      withTile e s f.d.num fun k t =>
        if t.fmt ≠ .d32 then .trap (tileTrap e f.d.num 2) s else viewReady e s k f.d.num l

/-- A group that waits for a view record starts its view once one is free, and goes on after the word. Where its tile is no longer a
`READY` one of format `D32`, or its word was saved with its record, the word issues again (DESIGN CHOICE, notes/assumptions/83.md);
else nothing happens. -/
def execViewRecordWake (a : Agent) (s : State) : Host.Outcome State Fault Refusal :=
  match s.thread? a, s.block? (s.blockNo a) with
  | some t, some k =>
    if t.wait ≠ .vrec ∨ t.gstate = .evicted ∨ !recordFree s (s.dieNo a) (t.vdepth.toNat + 1) then .next s
    else
      let u := (wake s a).modThread a fun t => { t with ask := none }
      match t.ask with
      | none => .next u
      | some q =>
        if (k.tile q.tile).st ≠ .ready ∨ (k.tile q.tile).fmt ≠ .d32 then .next u
        else .next (startView (u.modThread a Thread.advance) (newView s a t k q))
  | _, _ => .next s

/-! ### `VSTAT` and `VCAN` (R285, R286) -/

def execVstat (f : Fields) (s : State) := issue 0xDC f s fun e s =>
  laneWise e s 64 fun _ =>
    ((e.blk s).elim 0 fun k => dfield (k.tile f.a.num).st.code 62 2 ||| ((k.tile f.a.num).vstat.setWidth 64), 0)

/-- A status word with another code; a fault that it told of is over. -/
def recode (v code : Word) : Word := (v &&& 0xFFFFFC00#32) ||| code

def execVcan (f : Fields) (s : State) := issue 0xDD f s fun e s =>
  let n := f.d.num
  match e.blk s with
  | none => .ok s
  | some k =>
    let t := k.tile n
    if t.st ≠ .filling ∨ t.by' ≠ .view then .ok s
    else
      let s := s.setBlock (s.blockNo e.a)
        (k.setTile n { t with st := .ready, by' := .nobody, vstat := recode t.vstat vsCANCELLED })
      match viewInto s (s.blockNo e.a) n with
      | some (m, v) => .ok (withdrawView s m v)
      | none => .ok s

/-! ### Reaching the tile (R282, R284) -/

/-- The view unit's writes into the saved image of an evicted block, from an offset in the tile window image; those that cannot
be made tell why. -/
def imageWrite (s : State) (v : View) (k : Block) (off : Nat) (bs : List Byte) : Except (Cause × Nat) State :=
  s.virtWrite (.die v.die) k.asid (queueClass s v.grid 0) (saveBase s k + 0x1B400 + off) bs

/-- The descriptor and the status word of the view's tile, in the block and, while it is evicted, in its image. -/
def putViewTile (s : State) (v : View) (k : Block) (t : Tile) : Except (Cause × Nat) State :=
  let s := s.setBlock v.block (k.setTile v.tile t)
  if k.resident then .ok s
  else
    match imageWrite s v k (0x240 + 4 * v.tile) (leBytes 4 t.vstat.toNat) with
    | .error e => .error e
    | .ok s => imageWrite s v k (0x40 + 8 * v.tile) (leBytes 8 t.word.toNat)

/-- The record of a view's fault (R280). -/
def viewRecord (s : State) (v : View) (c : Cause) (kind va : Nat) : FaultRec :=
  { FaultRec.blank with
    cause := BitVec.ofNat 8 c.code, agent := 3, kind := if hasKind c.code then kind else 0, asid := v.asid, detail := c.detail,
    cdetail := if hasKind c.code then BitVec.ofNat 64 kind else 0, pc := v.pc, blkno := (s.block? v.block).elim 0 Block.blkno,
    gridRec := (s.grid? v.grid).elim 0 Grid.recAddr, grpno := v.grp, ctx := v.tile, addr := BitVec.ofNat 64 va }

/-- Changes the status word of the view's tile. -/
def restatus (s : State) (v : View) (g : Word → Word) : State :=
  match s.block? v.block with
  | none => s
  | some k =>
    let t := k.tile v.tile
    match putViewTile s v k { t with vstat := g t.vstat } with
    | .ok s => s
    | .error _ => s.setBlock v.block (k.setTile v.tile { t with vstat := g t.vstat })

/-- A view stops on a fault: `FLT`, and a record in its die's buffer. -/
def stopView (s : State) (n : Nat) (v : View) (c : Cause) (kind va : Nat) : State :=
  postFault (restatus (s.setView n { v with fault := true }) v fun w => w ||| 0x200) v.die (viewRecord s v c kind va)

/-- A view ends without an image: its tile is `EMPTY` with a status word. The record is freed once no shading group is left. -/
def endView (s : State) (n : Nat) (v : View) (code : Word) (detail : Nat) : State :=
  let s := withdrawView s n v
  match s.block? v.block with
  | none => s
  | some k =>
    let t := { (k.tile v.tile).release with vstat := viewStatus code v.level detail }
    match putViewTile s v k t with
    | .ok s => s
    | .error _ => s.setBlock v.block (k.setTile v.tile t)

/-- The bytes of the image at their slot keys. -/
def imageBytes (t : Tile) (v : View) : List (Nat × Byte) :=
  (v.pixels.zip (List.range v.pixels.length)).flatMap fun x =>
    ((leBytes 4 x.1.toNat).zip (List.range 4)).map fun b =>
      (elemKey .d32 t.sbase (x.2 / max 1 v.cols) (x.2 % max 1 v.cols) + b.2, b.1)

/-- Writes the rows of an image into a saved window. -/
def writeRows (s : State) (v : View) (k : Block) (t : Tile) : Except (Cause × Nat) State :=
  (List.range v.rows).foldl
    (fun acc i =>
      match acc with
      | .error e => .error e
      | .ok s =>
        imageWrite s v k (0x400 + elemKey .d32 t.sbase i 0)
          (((v.pixels.drop (i * v.cols)).take v.cols).flatMap fun w => leBytes 4 w.toNat))
    (.ok s)

/-- A view whose rows are all resolved arrives: its tile is `READY` with the image, in the block where it stands or in its saved
image, where a granule written whole loses its poison too (R327); else nothing happens. Where the head of the block's matrix queue has
waited on the tile, that wait ends here, with an acquire at `PKG` (R287). -/
def execViewArrival (view : Nat) (s : State) : Host.Outcome State Fault Refusal :=
  match tlook view s.views with
  | none => .next s
  | some v =>
    if v.withdrawn ∨ v.fault ∨ v.phase ≠ .resolved then .next s
    else
      match s.block? v.block with
      | none => .next { s with views := tdel view s.views }
      | some k =>
        let t := k.tile v.tile
        let t' := { t with st := .ready, by' := .nobody, vstat := recode t.vstat vsDONE }
        if k.resident then
          let u := { s.setBlock v.block ((writeSlots k (imageBytes t v)).setTile v.tile t') with views := tdel view s.views }
          .next (if k.mq.any fun m => (mxTiles m.f).contains v.tile then u.acquire k.core .pkg else u)
        else
          match writeRows s v k t with
          | .error (c, va) => .next (stopView s view v c 1 va)
          | .ok s =>
            match putViewTile s v k t' with
            | .error (c, va) => .next (stopView s view v c 1 va)
            | .ok s => .next { clearGranules s v.block ((imageBytes t v).map Prod.fst) with views := tdel view s.views }

/-! ### Dicing (R268, R269, R272 to R274) -/

/-- A valid cut record. -/
structure Cut where
  nprim : Nat
  disp : Bool
  prims : Nat
  shader : Nat
  sarg : Dword
  bg : Word
  dice : Frac
  deriving DecidableEq, Repr

/-- The target edge: 0 means one half. -/
def diceOf (w : Word) : Option Frac :=
  match fracOf w with
  | none => none
  | some x => if x.isZero then some ⟨1, 2⟩ else if Frac.le ⟨1, 8⟩ x then some x else none

/-- The cut of 64 bytes, or none where the record breaks R268. -/
def cutOf (bs : List Byte) : Option Cut :=
  match diceOf (fieldWord bs 0x24) with
  | none => none
  | some d =>
    if fieldNat bs 0 4 ≤ 2 ^ 24 ∧ fieldNat bs 4 4 < 8 ∧ fieldNat bs 8 8 % 128 = 0 ∧ fieldNat bs 0x28 24 = 0 then
      some { nprim := fieldNat bs 0 4, disp := fieldNat bs 4 1 % 2 = 1, prims := fieldNat bs 8 8, shader := fieldNat bs 0x10 8,
             sarg := BitVec.ofNat 64 (fieldNat bs 0x18 8), bg := fieldWord bs 0x20, dice := d }
    else none

/-- The primitive of 128 bytes, or none where the record breaks R269. -/
def primOf (bs : List Byte) : Option Prim :=
  let pts (off : Nat) : List Vec3 := (List.range 4).map fun i => fieldVec bs (off + 12 * i)
  let pr : Prim :=
    { quad := fieldNat bs 0 1 = 1, motion := fieldNat bs 1 1 = 1, ident := fieldWord bs 4, p := pts 8, q := pts 0x38,
      colour := fieldWord bs 0x68 }
  if fieldNat bs 0 1 ≤ 1 ∧ fieldNat bs 1 1 ≤ 1 ∧ fieldNat bs 2 2 = 0 ∧ pr.ident ≠ 0xFFFFFFFF#32 ∧ fieldNat bs 0x6C 20 = 0 ∧
      (pr.p ++ pr.q).all (fun v => (vecOf v).isSome) ∧ (pr.quad ∨ fieldNat bs 0x2C 12 = 0) then some pr
  else none

/-- Every primitive of the array's bytes, or none where one is invalid. -/
def primsOf (bs : List Byte) : Nat → Option (List Prim)
  | 0 => some []
  | n + 1 =>
    match primOf (bs.take 128), primsOf (bs.drop 128) n with
    | some p, some r => some (p :: r)
    | _, _ => none

/-- The subgrids of a diced primitive with its diced vertices. -/
def subgrids (pr : Prim) (prim nu nv : Nat) : List Sub :=
  let l := corners pr.quad (vecsOf pr.p)
  (List.range ((nv + 2) / 3)).flatMap fun m => (List.range ((nu + 6) / 7)).map fun k =>
    let a := min 8 (nu + 1 - 7 * k)
    let b := min 4 (nv + 1 - 3 * m)
    { prim := prim, nu := nu, nv := nv, k := k, m := m, a := a, b := b, done := false,
      verts := (List.range b).flatMap fun r => (List.range a).map fun c =>
        let p := bilinear l (7 * k + c) nu (3 * m + r) nv
        (⟨p.x.round, p.y.round, p.z.round⟩, pr.colour) }

/-- The segments of a primitive; where the spec gives its projection no meaning, numbers that nothing constrains. -/
def dicePrim (s : State) (c : Cam) (v : View) (cut : Cut) (pr : Prim) : (Nat × Nat) × State :=
  match segmentsOf c v.rows v.cols cut.dice (corners pr.quad (vecsOf pr.p)) with
  | some x => (x, s)
  | none =>
    let r := s.free
    ((1 + dbits r.1 0 6, 1 + dbits r.1 6 6), r.2)

/-- The subgrids of the primitives that are diced. -/
def diceAll (c : Cam) (v : View) (cut : Cut) (shades : Bool) : List (Prim × Nat) → State → List Sub × State
  | [], s => ([], s)
  | (pr, i) :: r, s =>
    if !(pr.quad || shades) then diceAll c v cut shades r s
    else
      let x := dicePrim s c v cut pr
      let y := diceAll c v cut shades r x.2
      (subgrids pr i x.1.1 x.1.2 ++ y.1, y.2)

/-- The lanes that stand for a vertex of an `a` by `b` subgrid, and all lanes of their quads. -/
def vertexLanes (a b : Nat) : List Nat :=
  (List.range 32).filter fun l => decide (2 * (l / 4 % 4) + l % 2 < a) && decide (2 * (l / 16) + l % 4 / 2 < b)
def quadLanes (a b : Nat) : List Nat :=
  (List.range 32).filter fun l => decide (2 * (l / 4 % 4) < a) && decide (2 * (l / 16) < b)

/-- The vector inputs of a lane of a subgrid's shading group (R273). -/
def shadeInputs (pr : Prim) (x : Sub) (l : Nat) : List (Nat × Word) :=
  let c := min (2 * (l / 4 % 4) + l % 2) (x.a - 1)
  let r := min (2 * (l / 16) + l % 4 / 2) (x.b - 1)
  let p := (x.verts.getD (r * x.a + c) (⟨0, 0, 0⟩, 0)).1
  [(l, p.x), (64 + l, p.y), (128 + l, p.z), (192 + l, Frac.round ⟨(7 * x.k + c : Nat), x.nu⟩),
   (256 + l, Frac.round ⟨(3 * x.m + r : Nat), x.nv⟩), (320 + l, pr.ident), (384 + l, pr.colour)]

/-- The grid that shades a subgrid: one block of one group, one level below the requester. -/
def shadeGrid (s : State) (n : Nat) (v : View) (cut : Cut) (k : Kernel) (pr : Prim) (x : Sub) (i : Nat) : Grid :=
  let up := s.grid? v.grid
  let vl := vertexLanes x.a x.b
  let ql := quadLanes x.a x.b
  { recAddr := 0, asid := v.asid, dies := up.elim (s.ctxDies v.asid) Grid.dies, prio := v.prio, queue := up.bind Grid.queue,
    packet := 0, age := s.nextAge, kernel := k, nblk := 1, nlane := 32, hq := false, signal := 0,
    args := [cut.sarg, v.camAddr, v.cut, BitVec.ofNat 64 (x.a + 256 * x.b)], placed := 0, endedBlocks := 0, parent := none,
    poolRec := none,
    shade := some { view := n, launch := maskList ql, helpers := maskList (ql.filter fun l => !vl.contains l),
                    vregs := ql.flatMap (shadeInputs pr x), a := x.a, b := x.b, sub := i },
    terminated := false, stage := 0, stalled := false, status := 0, vdepth := BitVec.ofNat 2 v.level }

/-- The kernel keeps the limits of R274 for a level. -/
def shaderOk (s : State) (die level : Nat) (kern table : List Byte) : Bool :=
  let k := kernelOf kern table
  kernOk kern && k.ngrp = 1 && k.mstream = 0 && k.access = 0 && k.spad = 0 && decide (k.nt ≤ 4) &&
    decide (k.nalloc ≤ 32 * (s.die die).rsvn level) &&
    (initTiles k (Block.launch 0 (gridOf { rec' := [], kern := kern, table := table } 0 0 0 0 0) 0 0 0 0 0 0)).isSome

/-- A view with its subgrids: it launches its shading groups, or goes on to sampling. -/
def diced (s : State) (n : Nat) (v : View) (cut : Cut) (prims : List Prim) (subs : List Sub) (k : Option Kernel) : State :=
  let v := { v with prims := prims, subs := subs, bg := cut.bg }
  match k with
  | none => s.setView n { v with phase := .sample }
  | some k =>
    let v := { v with shadesLeft := subs.length, phase := if subs.isEmpty then .sample else .shade }
    let blank : Prim := { quad := false, motion := false, ident := 0, p := [], q := [], colour := 0 }
    (subs.zip (List.range subs.length)).foldl
      (fun (u : State) x => (addGrid u (shadeGrid u n v cut k (prims.getD x.1.prim blank) x.1 x.2)).2) (s.setView n v)

/-- The shading kernel of a cut for a view, if it has shading groups. -/
def shadesView (v : View) (cut : Cut) : Bool := cut.shader ≠ 0 && (v.chan = 3 || cut.disp)

/-- Dices a view whose records are valid. -/
def diceView (s : State) (n : Nat) (v : View) (c : Cam) (cut : Cut) (prims : List Prim) : State :=
  let all := prims.zip (List.range prims.length)
  let b := TlbAt.die v.die
  if shadesView v cut then
    match readKernel s b v.asid cut.shader (queueClass s v.grid 0) with
    | .error (e, va) => stopView s n v e 0 va
    | .ok ((kern, table), s) =>
      if !shaderOk s v.die v.level kern table then endView s n v vsCUTERR 4
      else
        let x := diceAll c v cut true all s
        diced x.2 n v cut prims x.1 (some (kernelOf kern table))
  else
    let x := diceAll c v cut false all s
    diced x.2 n v cut prims x.1 none

/-- Bytes read by the view unit, page by page, and the access that failed, if one did. -/
structure Seen where
  bytes : List Byte
  fail : Option (Cause × Nat)
  st : State
  deriving DecidableEq, Repr

/-- Reads pages behind bytes that have been read: no byte is read twice (R287). `cls` gives the class of the reads from the bytes
(R300, R301). -/
def readOn (v : View) (cls : List Byte → Cls) : List (Nat × Nat) → Seen → Seen
  | [], r => r
  | (va, n) :: rest, r =>
    match virtRange (.die v.die) .read v.asid r.st [(va, n)] with
    | .error e => { r with fail := some e }
    | .ok (ps, s) =>
      let bs := getPieces s ps
      readOn v cls rest { r with bytes := r.bytes ++ bs, st := s.useLines (cls (r.bytes ++ bs)) ps }

/-- Reads what is left of `n` bytes at an address. -/
def readOnce (s : State) (v : View) (cls : List Byte → Cls) (va n : Nat) (got : List Byte) : Seen :=
  readOn v cls (piecesOf (va + got.length) (n - got.length)) { bytes := got, fail := none, st := s }

/-- The class of a view's scene reads: `SCC` of the cut, for the queue of its requester (R268, R300, R301). -/
def sceneClass (s : State) (v : View) (cut : List Byte) : Cls := queueClass s v.grid (BitVec.ofNat 2 (fieldNat cut 4 1 / 2))

/-- Reads the scene of a view and dices it: a fault stops the view, an invalid record ends it. Each byte of the cut and of its
primitives is read once (R287). -/
def readScene (s : State) (n : Nat) (v : View) : State :=
  match camOf v.cam with
  | none => endView s n v vsCUTERR 1
  | some c =>
    let r := readOnce s v (sceneClass s v) v.cut.toNat 64 v.cutBytes
    let v := { v with cutBytes := r.bytes }
    match r.fail, cutOf r.bytes with
    | some (e, va), _ => stopView r.st n v e 0 va
    | none, none => endView r.st n v vsCUTERR 2
    | none, some cut =>
      let r := readOnce r.st v (fun _ => sceneClass s v v.cutBytes) cut.prims (128 * cut.nprim) v.primBytes
      let v := { v with primBytes := r.bytes }
      match r.fail, primsOf r.bytes cut.nprim with
      | some (e, va), _ => stopView r.st n v e 0 va
      | none, none => endView r.st n v vsCUTERR 3
      | none, some prims => diceView r.st n v c cut prims

/-- The first of two views in the units' order: deepest level, then oldest (R278). -/
def viewFirst (l : List (Nat × View)) : Option (Nat × View) :=
  l.foldl
    (fun (acc : Option (Nat × View)) x =>
      match acc with
      | none => some x
      | some y => if y.2.level < x.2.level || y.2.level = x.2.level && decide (x.2.age < y.2.age) then some x else acc) none

/-- The views of a die in a phase that nothing stops. -/
def viewsIn (s : State) (die : Nat) (p : VPhase) : List (Nat × View) :=
  s.views.filter fun x => x.2.die = die && x.2.phase = p && !x.2.fault && !x.2.withdrawn

/-- The dicing unit of a die takes its next view; else nothing happens. -/
def execViewDice (die : Nat) (s : State) : Host.Outcome State Fault Refusal :=
  match viewFirst (viewsIn s die .dice) with
  | none => .next s
  | some (n, v) => .next (readScene s n v)

/-! ### Sampling (R270, R275, R288) -/

/-- The pixels of a row. -/
def rowPixels (v : View) (c : Cam) (i : Nat) : List Word :=
  let l := viewTris v.prims v.subs
  (List.range v.cols).map fun j => pixelValue v.chan v.bg (pixelHits c v.mode v.rows v.cols i j l)

/-- A row that has leave is resolved. -/
def sampleRow (v : View) : View :=
  match camOf v.cam with
  | none => v
  | some c =>
    { v with pixels := v.pixels ++ rowPixels v c v.row, row := v.row + 1, asked := false, leave := false,
             phase := if v.row + 1 < v.rows then .sample else .resolved }

/-- The sampling unit of a die resolves the next row that has leave, or asks leave for the next that has not asked and whose context is not stopped (R364); else nothing
happens. -/
def execViewRowSample (die : Nat) (s : State) : Host.Outcome State Fault Refusal :=
  let l := viewsIn s die .sample
  match viewFirst (l.filter fun x => x.2.leave) with
  | some (n, v) => .next (s.setView n (sampleRow v))
  | none =>
    match viewFirst (l.filter fun x => !x.2.asked && !stoppedOn s die x.2.asid) with
    | none => .next s
    | some (n, v) =>
      .next (askLeave (s.setView n { v with asked := true }) die (.row n) (2 * v.cols * sampleCount v.mode) v.prio.toNat)

/-! ### The end of a view by the resident kernel (R280, R281) -/

/-- The shading grids of a view whose group stands on a trap. -/
def trappedShades (s : State) (n : Nat) : List Nat :=
  (s.grids.filter fun x =>
    (x.2.shade.any fun h => h.view = n) &&
      s.blocks.any fun b => b.2.grid = x.1 && ((s.thread? (.group b.1 0)).any Thread.onTrap)).map Prod.fst

/-- Terminates shading grids of a view, whose results are lost. -/
def dropShades (n : Nat) : List Nat → State → State
  | [], s => s
  | g :: r, s =>
    let s := terminateGrid s g
    let s := { s with grids := tdel g s.grids }
    dropShades n r (match tlook n s.views with
      | some v => shadeEnded s n v
      | none => s)

/-- The resident kernel ends a view that stands on a fault, or terminates those of its shading grids that stand on a trap; the
view's tile is `EMPTY` with `KILLED`. Else nothing happens. -/
def execViewKill (view : Nat) (s : State) : Host.Outcome State Fault Refusal :=
  match tlook view s.views with
  | none => .next s
  | some v =>
    let gs := trappedShades s view
    if !v.fault && gs.isEmpty then .next s
    else .next (dropShades view gs (if v.withdrawn then s else endView s view v vsKILLED 0))

end Sys2Proof.Machine
end

