-- ==== Sys2Proof/Machine/Resume.lean ====
section
/-!
DEFINITION. `CTXS.RSM` (R374): the agent that a fault record names goes on, in place or at another pc (R77, R163, R226, R280, R347,
R385).
-/
namespace Sys2Proof.Machine

/-- What a copy of a fault record says of its agent (R323). -/
structure RecordKey where
  agent : Nat
  asid : BitVec 16
  core : Nat
  pc : Dword
  blkno : Dword
  gridRec : Dword
  grpno : Nat
  ctx : Nat
  addr : Nat
  deriving DecidableEq, Repr

def recordKey (bs : List Byte) : RecordKey :=
  { agent := recNat bs 0 8 / 2 ^ 53 % 8, asid := BitVec.ofNat 16 (recNat bs 2 2), core := recNat bs 0 2,
    pc := BitVec.ofNat 64 (recNat bs 0x10 8), blkno := BitVec.ofNat 64 (recNat bs 0x28 8),
    gridRec := BitVec.ofNat 64 (recNat bs 0x30 8), grpno := recNat bs 0x38 1, ctx := recNat bs 0x39 1, addr := recNat bs 0x48 8 }

/-- The blocks of a record's context, grid and number. -/
def keyBlocks (s : State) (r : RecordKey) : List Nat :=
  (s.blocks.filter fun x =>
    x.2.asid = r.asid && x.2.blkno = r.blkno && (s.grid? x.2.grid).elim (r.gridRec = 0) fun g => g.recAddr = r.gridRec).map Prod.fst

/-- The agent among candidates: one that stands on a trap at the record's pc, else one on a trap, else the first. -/
def pickAgent (s : State) (r : RecordKey) (l : List Agent) : Option Agent :=
  let th (a : Agent) (p : Thread → Bool) : Bool := (s.thread? a).any p
  (l.find? fun a => th a fun t => t.onTrap && t.pc = r.pc && s.coreNo a = r.core).or
    ((l.find? fun a => th a Thread.onTrap).or l.head?)

/-- A group's replay entry as it goes on at `pc` in place: one of that pc issues, one of an outer trap waits for its handler's
return (R163). -/
def resumedReplay (t : Thread) : Option Replay :=
  match t.replay with
  | some r => if r.pc = t.pc then some { r with armed := true } else if t.sup then some r else none
  | none => none

/-- An agent with registers goes on: in place for `to` 0, else at `to`. One that does not stand on a trap is left as it is. -/
def resumeThread (s : State) (a : Agent) (dest : Dword) : State :=
  match s.thread? a with
  | none => s
  | some t =>
    if !t.onTrap then s
    else
      let s := if t.wait = .kern then s.acquire (s.coreNo a) .pkg else s
      let t := { t with replay := if dest = 0 then resumedReplay t else none, pc := if dest = 0 then t.pc else dest, cause := 0,
                        detail := 0, tlanes := 0, cdetail := 0, taddrs := [] }
      wake (s.setThread a t) a

/-- A stopped transfer is given up with its locks and tile states. -/
def dropSlot (s : State) (c x i : Nat) (l : PhSlot) : State := completeSlot s c x i l

/-- A phrase context goes on (R226): its stopped transfers perform again from their cursors, or are given up where it is
redirected. -/
def resumeContext (s : State) (c x : Nat) (p : PCtx) (dest : Dword) : State :=
  let a := Agent.phrase c x
  let stopped := p.slots.filter fun y => y.2.stopped
  let s :=
    if dest = 0 then
      stopped.foldl (fun u y => modSlot u c x y.1 fun l => { l with stopped := false, asked := false, leave := false, sent := none }) s
    else stopped.foldl (fun u y => dropSlot u c x y.1 y.2) s
  let s := if dest ≠ 0 ∧ !stopped.isEmpty then s.modThread a fun t => { t with pc := dest } else s
  resumeThread s a dest

/-- The frame that a port holds on a fault is performed from its first byte (R385). -/
def resumeFrame (s : State) (x : RxFlow) (h : HeldFrame) : State :=
  performNext (dropRxFrame s x) { x with frame := none } h.peer h.frame

/-- A flow that holds a frame of the record's context; the one whose bytes hold the faulting address comes first. -/
def heldFrame (s : State) (r : RecordKey) : Option (RxFlow × HeldFrame) :=
  let l := s.sys.rxflows.filterMap fun x => x.frame.bind fun h => if h.lock.asid = r.asid then some (x, h) else none
  let inside (f : Frame) : Bool := decide ((frameSpan f).1 ≤ r.addr) && decide (r.addr < (frameSpan f).1 + max 1 (frameSpan f).2)
  (l.find? fun y => inside y.2.frame).or l.head?

/-- The grid whose completion waits on a fault. -/
def stalledGrid (s : State) (r : RecordKey) : Option (Nat × Grid) :=
  s.grids.find? fun x => x.2.stalled && x.2.asid = r.asid && x.2.recAddr = r.gridRec

/-- The view of a record, into its tile, by its group and its `VIEW`: a stopped one, else any (R280, R286). -/
def recordView (s : State) (r : RecordKey) : Option (Nat × View) :=
  let bs := keyBlocks s r
  let l := s.views.filter fun x =>
    bs.contains x.2.block && x.2.tile = r.ctx && x.2.grp = r.grpno && x.2.pc = r.pc && !x.2.withdrawn
  (l.find? fun x => x.2.fault).or l.head?

/-- Resumes the agent of a record; none where there is no such agent on a core or in a unit. -/
def resumeAgent (s : State) (r : RecordKey) (dest : Dword) : Option State :=
  let live (a : Agent) : Bool := (s.thread? a).any fun t => t.gstate ≠ .ended && t.gstate ≠ .evicted
  match r.agent with
  | 0 => (pickAgent s r (((keyBlocks s r).map fun b => Agent.group b r.grpno).filter live)).map fun a => resumeThread s a dest
  | 1 => (pickAgent s r (((keyBlocks s r).map Agent.mstream).filter live)).map fun a => resumeThread s a dest
  | 2 =>
    match tlook r.ctx (s.core r.core).pctx with
    | some p => if (keyBlocks s r).contains p.block then some (resumeContext s r.core r.ctx p dest) else none
    | none => none
  | 3 =>
    (recordView s r).map fun x =>
      if x.2.fault then restatus (s.setView x.1 { x.2 with fault := false }) x.2 fun w => w &&& ~~~0x200#32 else s
  | 4 => (stalledGrid s r).map fun x => s.setGrid x.1 { x.2 with stalled := false }
  | 5 => (heldFrame s r).map fun x => resumeFrame s x.1 x.2
  | _ => none

def execCtxsRsm (f : Fields) (s : State) := issue 0xE7 f s fun e s =>
  let a := e.va 64 e.low
  match groupRead e s a.toNat 128 with
  | .error x => ctxsTrap e s x
  | .ok (bs, s) =>
    match resumeAgent s (recordKey bs) (e.vb 64 e.low) with
    | none => .ok (putD e s 1)
    | some s => .ok (putD e s 0)

end Sys2Proof.Machine
end

