-- ==== Sys2Proof/Machine/Dispatch.lean ====
section
/-! DEFINITION. The dispatch of every instruction and event row to its meaning. -/
namespace Sys2Proof.Machine

/-- The effect of one row on the state; `State.cur` names the agent that issues an instruction. -/
def exec (i : Instr) (s : State) : Host.Outcome State Fault Refusal :=
  match i with
  | .iadd f => Sys2Proof.Machine.execIadd f s
  | .isub f => Sys2Proof.Machine.execIsub f s
  | .imul f => Sys2Proof.Machine.execImul f s
  | .imulh f => Sys2Proof.Machine.execImulh f s
  | .imad f => Sys2Proof.Machine.execImad f s
  | .imadw f => Sys2Proof.Machine.execImadw f s
  | .iabs f => Sys2Proof.Machine.execIabs f s
  | .ineg f => Sys2Proof.Machine.execIneg f s
  | .imin f => Sys2Proof.Machine.execImin f s
  | .imax f => Sys2Proof.Machine.execImax f s
  | .isad f => Sys2Proof.Machine.execIsad f s
  | .and f => Sys2Proof.Machine.execAnd f s
  | .or f => Sys2Proof.Machine.execOr f s
  | .xor f => Sys2Proof.Machine.execXor f s
  | .andn f => Sys2Proof.Machine.execAndn f s
  | .shl f => Sys2Proof.Machine.execShl f s
  | .shr f => Sys2Proof.Machine.execShr f s
  | .sar f => Sys2Proof.Machine.execSar f s
  | .rot f => Sys2Proof.Machine.execRot f s
  | .bfx f => Sys2Proof.Machine.execBfx f s
  | .bfi f => Sys2Proof.Machine.execBfi f s
  | .popc f => Sys2Proof.Machine.execPopc f s
  | .clz f => Sys2Proof.Machine.execClz f s
  | .ctz f => Sys2Proof.Machine.execCtz f s
  | .brev f => Sys2Proof.Machine.execBrev f s
  | .prmb f => Sys2Proof.Machine.execPrmb f s
  | .icmp f => Sys2Proof.Machine.execIcmp f s
  | .sel f => Sys2Proof.Machine.execSel f s
  | .mov f => Sys2Proof.Machine.execMov f s
  | .movi f => Sys2Proof.Machine.execMovi f s
  | .lea f => Sys2Proof.Machine.execLea f s
  | .iclmp f => Sys2Proof.Machine.execIclmp f s
  | .fadd f => Sys2Proof.Machine.execFadd f s
  | .fsub f => Sys2Proof.Machine.execFsub f s
  | .fmul f => Sys2Proof.Machine.execFmul f s
  | .ffma f => Sys2Proof.Machine.execFfma f s
  | .fmin f => Sys2Proof.Machine.execFmin f s
  | .fmax f => Sys2Proof.Machine.execFmax f s
  | .fcmp f => Sys2Proof.Machine.execFcmp f s
  | .fclass f => Sys2Proof.Machine.execFclass f s
  | .fdiv f => Sys2Proof.Machine.execFdiv f s
  | .fsqrt f => Sys2Proof.Machine.execFsqrt f s
  | .frcp f => Sys2Proof.Machine.execFrcp f s
  | .frsq f => Sys2Proof.Machine.execFrsq f s
  | .fexp2 f => Sys2Proof.Machine.execFexp2 f s
  | .flog2 f => Sys2Proof.Machine.execFlog2 f s
  | .fsin f => Sys2Proof.Machine.execFsin f s
  | .fcos f => Sys2Proof.Machine.execFcos f s
  | .frnd f => Sys2Proof.Machine.execFrnd f s
  | .cvt f => Sys2Proof.Machine.execCvt f s
  | .cvtfi f => Sys2Proof.Machine.execCvtfi f s
  | .cvtif f => Sys2Proof.Machine.execCvtif f s
  | .fdot2 f => Sys2Proof.Machine.execFdot2 f s
  | .hadd2 f => Sys2Proof.Machine.execHadd2 f s
  | .hsub2 f => Sys2Proof.Machine.execHsub2 f s
  | .hmul2 f => Sys2Proof.Machine.execHmul2 f s
  | .hfma2 f => Sys2Proof.Machine.execHfma2 f s
  | .hmin2 f => Sys2Proof.Machine.execHmin2 f s
  | .hmax2 f => Sys2Proof.Machine.execHmax2 f s
  | .iadd2 f => Sys2Proof.Machine.execIadd2 f s
  | .isub2 f => Sys2Proof.Machine.execIsub2 f s
  | .imin2 f => Sys2Proof.Machine.execImin2 f s
  | .imax2 f => Sys2Proof.Machine.execImax2 f s
  | .vacs2 f => Sys2Proof.Machine.execVacs2 f s
  | .pack2 f => Sys2Proof.Machine.execPack2 f s
  | .unpk2 f => Sys2Proof.Machine.execUnpk2 f s
  | .bdec f => Sys2Proof.Machine.execBdec f s
  | .benc f => Sys2Proof.Machine.execBenc f s
  | .reqb f => Sys2Proof.Machine.execReqb f s
  | .cbld f => Sys2Proof.Machine.execCbld f s
  | .amax f => Sys2Proof.Machine.execAmax f s
  | .scl f => Sys2Proof.Machine.execScl f s
  | .nop f => Sys2Proof.Machine.execNop f s
  | .bra f => Sys2Proof.Machine.execBra f s
  | .brx f => Sys2Proof.Machine.execBrx f s
  | .brz f => Sys2Proof.Machine.execBrz f s
  | .call f => Sys2Proof.Machine.execCall f s
  | .ret f => Sys2Proof.Machine.execRet f s
  | .loop f => Sys2Proof.Machine.execLoop f s
  | .exit f => Sys2Proof.Machine.execExit f s
  | .split f => Sys2Proof.Machine.execSplit f s
  | .flip f => Sys2Proof.Machine.execFlip f s
  | .merge f => Sys2Proof.Machine.execMerge f s
  | .pand f => Sys2Proof.Machine.execPand f s
  | .por f => Sys2Proof.Machine.execPor f s
  | .pxor f => Sys2Proof.Machine.execPxor f s
  | .pset f => Sys2Proof.Machine.execPset f s
  | .pmov f => Sys2Proof.Machine.execPmov f s
  | .yield f => Sys2Proof.Machine.execYield f s
  | .sleep f => Sys2Proof.Machine.execSleep f s
  | .getsr f => Sys2Proof.Machine.execGetsr f s
  | .setsr f => Sys2Proof.Machine.execSetsr f s
  | .trap f => Sys2Proof.Machine.execTrap f s
  | .sysc f => Sys2Proof.Machine.execSysc f s
  | .bkpt f => Sys2Proof.Machine.execBkpt f s
  | .eret f => Sys2Proof.Machine.execEret f s
  | .shfl f => Sys2Proof.Machine.execShfl f s
  | .bcast f => Sys2Proof.Machine.execBcast f s
  | .vote f => Sys2Proof.Machine.execVote f s
  | .ballot f => Sys2Proof.Machine.execBallot f s
  | .matchLanes f => Sys2Proof.Machine.execMatchLanes f s
  | .gred f => Sys2Proof.Machine.execGred f s
  | .gscan f => Sys2Proof.Machine.execGscan f s
  | .qxch f => Sys2Proof.Machine.execQxch f s
  | .ddx f => Sys2Proof.Machine.execDdx f s
  | .ddy f => Sys2Proof.Machine.execDdy f s
  | .regrp f => Sys2Proof.Machine.execRegrp f s
  | .ld f => Sys2Proof.Machine.execLd f s
  | .st f => Sys2Proof.Machine.execSt f s
  | .lds f => Sys2Proof.Machine.execLds f s
  | .sts f => Sys2Proof.Machine.execSts f s
  | .ldk f => Sys2Proof.Machine.execLdk f s
  | .atom f => Sys2Proof.Machine.execAtom f s
  | .red f => Sys2Proof.Machine.execRed f s
  | .atom2 f => Sys2Proof.Machine.execAtom2 f s
  | .fence f => Sys2Proof.Machine.execFence f s
  | .lock f => Sys2Proof.Machine.execLock f s
  | .unlock f => Sys2Proof.Machine.execUnlock f s
  | .prf f => Sys2Proof.Machine.execPrf f s
  | .bari f => Sys2Proof.Machine.execBari f s
  | .bara f => Sys2Proof.Machine.execBara f s
  | .barw f => Sys2Proof.Machine.execBarw f s
  | .rdci f => Sys2Proof.Machine.execRdci f s
  | .clent f => Sys2Proof.Machine.execClent f s
  | .cltry f => Sys2Proof.Machine.execCltry f s
  | .cllv f => Sys2Proof.Machine.execCllv f s
  | .clabt f => Sys2Proof.Machine.execClabt f s
  | .clabtRst f => Sys2Proof.Machine.execClabtRst f s
  | .tdef f => Sys2Proof.Machine.execTdef f s
  | .tld f => Sys2Proof.Machine.execTld f s
  | .tst f => Sys2Proof.Machine.execTst f s
  | .tstat f => Sys2Proof.Machine.execTstat f s
  | .trel f => Sys2Proof.Machine.execTrel f s
  | .mma f => Sys2Proof.Machine.execMma f s
  | .mmaq f => Sys2Proof.Machine.execMmaq f s
  | .lrmul f => Sys2Proof.Machine.execLrmul f s
  | .lradd f => Sys2Proof.Machine.execLradd f s
  | .lrc f => Sys2Proof.Machine.execLrc f s
  | .lrdn f => Sys2Proof.Machine.execLrdn f s
  | .lrfm f => Sys2Proof.Machine.execLrfm f s
  | .mzero f => Sys2Proof.Machine.execMzero f s
  | .mtrn f => Sys2Proof.Machine.execMtrn f s
  | .msetpCb f => Sys2Proof.Machine.execMsetpCb f s
  | .msetpRcap f => Sys2Proof.Machine.execMsetpRcap f s
  | .phrs f => Sys2Proof.Machine.execPhrs f s
  | .bseal f => Sys2Proof.Machine.execBseal f s
  | .bwait f => Sys2Proof.Machine.execBwait f s
  | .paddr f => Sys2Proof.Machine.execPaddr f s
  | .pxfer f => Sys2Proof.Machine.execPxfer f s
  | .pgath f => Sys2Proof.Machine.execPgath f s
  | .pscat f => Sys2Proof.Machine.execPscat f s
  | .ploop f => Sys2Proof.Machine.execPloop f s
  | .pqpsh f => Sys2Proof.Machine.execPqpsh f s
  | .parrv f => Sys2Proof.Machine.execParrv f s
  | .pend f => Sys2Proof.Machine.execPend f s
  | .pcur f => Sys2Proof.Machine.execPcur f s
  | .pcurSt f => Sys2Proof.Machine.execPcurSt f s
  | .view f => Sys2Proof.Machine.execView f s
  | .vstat f => Sys2Proof.Machine.execVstat f s
  | .vcan f => Sys2Proof.Machine.execVcan f s
  | .tlbiVa f => Sys2Proof.Machine.execTlbiVa f s
  | .tlbiAsid f => Sys2Proof.Machine.execTlbiAsid f s
  | .tlbiAll f => Sys2Proof.Machine.execTlbiAll f s
  | .tfence f => Sys2Proof.Machine.execTfence f s
  | .pgmap f => Sys2Proof.Machine.execPgmap f s
  | .fbpop f => Sys2Proof.Machine.execFbpop f s
  | .launch f => Sys2Proof.Machine.execLaunch f s
  | .join f => Sys2Proof.Machine.execJoin f s
  | .qctlStat f => Sys2Proof.Machine.execQctlStat f s
  | .qctlSetr f => Sys2Proof.Machine.execQctlSetr f s
  | .qctlStart f => Sys2Proof.Machine.execQctlStart f s
  | .qctlStop f => Sys2Proof.Machine.execQctlStop f s
  | .ctxsPart f => Sys2Proof.Machine.execCtxsPart f s
  | .ctxsFull f => Sys2Proof.Machine.execCtxsFull f s
  | .ctxsRest f => Sys2Proof.Machine.execCtxsRest f s
  | .ctxsTerm f => Sys2Proof.Machine.execCtxsTerm f s
  | .ctxsRsm f => Sys2Proof.Machine.execCtxsRsm f s
  | .nsig f => Sys2Proof.Machine.execNsig f s
  | .halt f => Sys2Proof.Machine.execHalt f s
  | .boot => Sys2Proof.Machine.execBoot s
  | .registerResultWrite a idx reg lanes => Sys2Proof.Machine.execRegisterResultWrite a idx reg lanes s
  | .depPark a => Sys2Proof.Machine.execDepPark a s
  | .sleepExpiry a => Sys2Proof.Machine.execSleepExpiry a s
  | .groupSwap core slice => Sys2Proof.Machine.execGroupSwap core slice s
  | .swapComplete core slice => Sys2Proof.Machine.execSwapComplete core slice s
  | .evictedGroupReturn a => Sys2Proof.Machine.execEvictedGroupReturn a s
  | .progressWindowExpiry core slice => Sys2Proof.Machine.execProgressWindowExpiry core slice s
  | .barrierRelease a => Sys2Proof.Machine.execBarrierRelease a s
  | .tileWaitRelease a => Sys2Proof.Machine.execTileWaitRelease a s
  | .queuePortWake a => Sys2Proof.Machine.execQueuePortWake a s
  | .matrixGrant core => Sys2Proof.Machine.execMatrixGrant core s
  | .matrixComplete core => Sys2Proof.Machine.execMatrixComplete core s
  | .phraseRequestStart core => Sys2Proof.Machine.execPhraseRequestStart core s
  | .rangeLockRegister core ctx slot => Sys2Proof.Machine.execRangeLockRegister core ctx slot s
  | .phraseChunk core ctx slot => Sys2Proof.Machine.execPhraseChunk core ctx slot s
  | .phraseTransferComplete core ctx slot => Sys2Proof.Machine.execPhraseTransferComplete core ctx slot s
  | .phraseContextResume core ctx => Sys2Proof.Machine.execPhraseContextResume core ctx s
  | .bwaitRelease a => Sys2Proof.Machine.execBwaitRelease a s
  | .clauseRequest a lane => Sys2Proof.Machine.execClauseRequest a lane s
  | .deadlockWalk a lane => Sys2Proof.Machine.execDeadlockWalk a lane s
  | .levelUpdate die => Sys2Proof.Machine.execLevelUpdate die s
  | .leaveGrant die hold => Sys2Proof.Machine.execLeaveGrant die hold s
  | .slewHoldEnd die => Sys2Proof.Machine.execSlewHoldEnd die s
  | .energySettlement die asid => Sys2Proof.Machine.execEnergySettlement die asid s
  | .coreGate core => Sys2Proof.Machine.execCoreGate core s
  | .coreUngate core => Sys2Proof.Machine.execCoreUngate core s
  | .remoteScratchpadAccess a => Sys2Proof.Machine.execRemoteScratchpadAccess a s
  | .scPackageMark => Sys2Proof.Machine.execScPackageMark s
  | .viewDice die => Sys2Proof.Machine.execViewDice die s
  | .viewRowSample die => Sys2Proof.Machine.execViewRowSample die s
  | .viewArrival view => Sys2Proof.Machine.execViewArrival view s
  | .viewKill view => Sys2Proof.Machine.execViewKill view s
  | .viewRecordWake a => Sys2Proof.Machine.execViewRecordWake a s
  | .blockPlacement grid core base => Sys2Proof.Machine.execBlockPlacement grid core base s
  | .blockEnd block => Sys2Proof.Machine.execBlockEnd block s
  | .gridComplete grid => Sys2Proof.Machine.execGridComplete grid s
  | .joinRelease a => Sys2Proof.Machine.execJoinRelease a s
  | .haltWake a => Sys2Proof.Machine.execHaltWake a s
  | .firmwareStep => Sys2Proof.Machine.execFirmwareStep s
  | .fabricWrite f => Sys2Proof.Machine.execFabricWrite f s
  | .fabricReadRequest f => Sys2Proof.Machine.execFabricReadRequest f s
  | .fabricReadData f => Sys2Proof.Machine.execFabricReadData f s
  | .fabricSignalSet f => Sys2Proof.Machine.execFabricSignalSet f s
  | .fabricSignalAdd f => Sys2Proof.Machine.execFabricSignalAdd f s
  | .fabricAck f => Sys2Proof.Machine.execFabricAck f s
  | .fabricNak f => Sys2Proof.Machine.execFabricNak f s
  | .retransmitTimeout die pkg => Sys2Proof.Machine.execRetransmitTimeout die pkg s
  | .portLinkChange port up media => Sys2Proof.Machine.execPortLinkChange port up media s
  | .kernelRingReceive port data good => Sys2Proof.Machine.execKernelRingReceive port data good s
  | .kernelRingTransmit port => Sys2Proof.Machine.execKernelRingTransmit port s
  | .storageDeviceRequest write addr len data => Sys2Proof.Machine.execStorageDeviceRequest write addr len data s
  | .pcieLinkChange width speed => Sys2Proof.Machine.execPcieLinkChange width speed s
  | .attestationQuote => Sys2Proof.Machine.execAttestationQuote s
  | .attcmdWrite v => Sys2Proof.Machine.execAttcmdWrite v s
  | .kringWrite port v => Sys2Proof.Machine.execKringWrite port v s
  | .intpendWrite die v => Sys2Proof.Machine.execIntpendWrite die v s
  | .fbstatWrite die v => Sys2Proof.Machine.execFbstatWrite die v s
  | .pacfgWrite die v => Sys2Proof.Machine.execPacfgWrite die v s
  | .viewcfgWrite die v => Sys2Proof.Machine.execViewcfgWrite die v s
  | .ftringWrite die v => Sys2Proof.Machine.execFtringWrite die v s
  | .queueConfigWrite q cfg v => Sys2Proof.Machine.execQueueConfigWrite q cfg v s
  | .qcacheWrite q v => Sys2Proof.Machine.execQcacheWrite q v s
  | .fabcfgWrite v => Sys2Proof.Machine.execFabcfgWrite v s
  | .registerWrite die off v => Sys2Proof.Machine.execRegisterWrite die off v s
  | .reservedOpcode w => Sys2Proof.Machine.execReservedOpcode w s
  | .allowanceRefill die => Sys2Proof.Machine.execAllowanceRefill die s
  | .packetCompletion q idx => Sys2Proof.Machine.execPacketCompletion q idx s
  | .fabricFrameLost f => Sys2Proof.Machine.execFabricFrameLost f s

end Sys2Proof.Machine
end

