-- ==== Sys2Proof/Machine/Prepare.lean ====
section
/-!
DEFINITION. Laying a word out for the next step: a package in which one agent stands at the word and is the next to issue. It
stands for the boot, the kernel's set-up of a context, and the launch that placed the agent (notes/assumptions/21.md).
-/
namespace Sys2Proof.Machine

/-- Where the word is put; its page maps to itself. -/
def wordPlace : Nat := 0x10000

/-- Three levels of page tables for one gigabyte page at address 0, a context record with its root, and the context table. -/
def smallTables (s : State) : State :=
  let s := s.putHome64 0x1000 0x2001
  let s := s.putHome64 0x2000 0x3001
  let s := s.putHome64 0x3000 0x119
  let s := s.putHome64 0x4008 0x5000
  let s := s.putHome64 0x5000 0x10001
  s.putHome64 0x5008 0x1000

/-- A kernel with every register, tile and slot that a block can have. -/
def wideKernel : Kernel :=
  { entry := BitVec.ofNat 64 wordPlace, mstream := 0, access := 0, nalloc := 1024, ngrp := 1, nt := 64, ns := 1024, spad := 4096,
    tiles := [] }

/-- A grid of one block of that kernel in the context 1. -/
def wideGrid : Grid :=
  { recAddr := 0, asid := 1, dies := 1, prio := 0, queue := none, packet := 0, age := 0, kernel := wideKernel, nblk := 1,
    nlane := 32, hq := false, signal := 0, args := [], placed := 1, endedBlocks := 0, parent := none, poolRec := none,
    shade := none, terminated := false, stage := 0, stalled := false, status := 0, vdepth := 0 }

/-- The agent whose profile has an opcode: a matrix stream, the access program's context, or group 0. -/
def agentFor (opc : Nat) : Agent :=
  if 0xC5 ≤ opc ∧ opc ≤ 0xCE then .mstream 0 else if 0xD2 ≤ opc ∧ opc ≤ 0xDA then .phrase 0 0 else .group 0 0

/-- The opcode is for resident-kernel code, which runs on system core 0. -/
def forKernel (opc : Nat) : Bool := [0xE0, 0xE1, 0xE3, 0xE7, 0xE9].contains opc

/-- One agent at a word in an otherwise empty package, and its issue the next move. -/
def prepareOne (s : State) (opc : Nat) (bytes : List Byte) : State :=
  let a := agentFor opc
  let kern := forKernel opc
  let core := if kern then systemCore0 else 0
  let k := { Block.launch 0 wideGrid 0 core 0 0 0 0 with
             hasMs := agentIndex a = 32, hasAp := agentIndex a = 33, physical := kern }
  let t := match a with
    | .group _ _ => Thread.launch (BitVec.ofNat 64 wordPlace) 1024 (fullMask (lanesOnCore core)) 0
    | _ => Thread.launch (BitVec.ofNat 64 wordPlace) 0 1 0
  let s := (smallTables s).putHomes wordPlace bytes
  let s := { s with sys := { s.sys with booted := true, running := true, ctxbase := 0x4000 }, threads := [(a, t)],
                    blocks := [(0, k)], grids := [(0, wideGrid)], nextBlock := 1, nextGrid := 1, agenda := [.issue a] }
  match a with
  | .phrase c x =>
    let p : PCtx :=
      { launched := false, block := 0, issuer := 0, batch := 0, status := 0, slots := [], last := none, nextOrder := 0, running := false, engine := 0 }
    s.setCore c { s.core c with pctx := [(x, p)] }
  | _ => s

/-- The state with a word of `nbits` bits, its other bits zero, where the next step fetches. -/
def prepareWord (s : State) (nbits w : Nat) : State :=
  let v := BitVec.ofNat 96 (w % 2 ^ nbits)
  prepareOne s (opcodeOf v) (bytesOfWord v)

end Sys2Proof.Machine
end

