-- ==== Sys2Proof/Machine/Step.lean ====
section
/-!
DEFINITION. One step: the next move of the agenda, or what follows where the agenda is empty; and the state that holds a given
word where the next step fetches.
-/
namespace Sys2Proof.Machine

/-- The word that an agent has fetched runs: what it decodes to, or the trap of an illegal word (R31). -/
def runWord (w : BitVec 96) (s : State) : Host.Outcome State Fault Refusal :=
  match decodeWord w with
  | .ok i => exec i s
  | .error _ => issueIllegal w s

/-- One agent issues its next word. -/
def issueMove (a : Agent) (s : State) : Host.Outcome State Fault Refusal :=
  match beginIssue s a with
  | .done s => .next (tidy s none)
  | .word w s => finishIssue s a w (runWord w s)

/-- One agent issues its next word to be performed in parts (R304), where it is a memory word whose lanes do so and no uncorrectable
result is due; else as any word. -/
def issuePartsMove (a : Agent) (s : State) : Host.Outcome State Fault Refusal :=
  match beginIssue s a with
  | .done s => .next (tidy s none)
  | .word w s =>
    match fieldsOf w, s.thread? a with
    | some f, some t =>
      match entry (opcodeOf w) f s a t with
      | .runs e ports =>
        if inParts e.opc && t.late?.isNone && e.bad = 0 && !((memShape e).check e s).ok.isEmpty then finishIssue s a w (.next (startParts e ports s))
        else finishIssue s a w (runWord w s)
      | _ => finishIssue s a w (runWord w s)
    | _, _ => finishIssue s a w (runWord w s)

/-- A move. -/
def runMove (m : Move) (s : State) : Host.Outcome State Fault Refusal :=
  match m with
  | .issue a => issueMove a s
  | .issueParts a => issuePartsMove a s
  | .event i => if isEvent i then onNext (exec i s) fun s => tidy s none else .next s
  | .ringRead p => .next (tidy (ringSync s p) none)
  | .deviceLock w a n => .next (tidy (deviceBegins w a n s) none)
  | m => .next (tidy (quietMove m s) none)

/-- The machine's step. -/
def step (s : State) : Host.Outcome State Fault Refusal :=
  let p := nextMove s
  runMove p.1 p.2

/-- The state with a word where the next step fetches and issues it (Machine/Prepare.lean). -/
def State.withFetchWord (s : State) (nbits w : Nat) : State := prepareWord s nbits w

end Sys2Proof.Machine
end

