-- ==== Sys2Proof/Laws/Decode.lean ====
section
/-!
SUPPORT. Laws of the decoder and the encoder: operand codes, fields and words read back as they were written.
-/
namespace Sys2Proof

/-- An operand reads back from its code. -/
theorem opdOf_opdCode (o : Opd) (h : o.known = true) : opdOf (opdCode o) = some o := by
  cases o with
  | v n =>
    have h1 : (opdCode (.v n)).getLsbD 10 = false := by
      simp only [opdCode]; rw [BitVec.getLsbD_append]; simp
    have h2 : (opdCode (.v n)).setWidth 10 = n := by
      apply BitVec.eq_of_toNat_eq
      simp only [opdCode, BitVec.toNat_setWidth, BitVec.toNat_append]
      have := n.isLt
      simp [Nat.mod_eq_of_lt this]
    rw [opdOf, if_pos h1, h2]
  | s n => revert n; decide
  | q n => revert n; decide
  | t n => revert n; decide
  | p n => revert n; decide
  | k n => revert n; decide
  | sr n => simp only [Opd.known] at h; revert n; decide
  | xv n => revert n; decide
  | xs n => revert n; decide
  | immS => decide
  | immZ => decide
  | absent => decide

theorem opdOf_all (c : BitVec 11) : ((opdOf c).all fun o => decide (opdCode o = c) && o.known) = true := by
  revert c; decide +kernel

/-- A code that reads as an operand is that operand's code. -/
theorem opdCode_opdOf {c : BitVec 11} {o : Opd} (h : opdOf c = some o) : opdCode o = c ∧ o.known = true := by
  have := opdOf_all c
  rw [h] at this
  simpa using this

/-! ### Words and their fields -/

theorem extract_append_low {n m : Nat} (a : BitVec n) (b : BitVec m) : (a ++ b).extractLsb' 0 m = b := by
  ext i hi; rw [BitVec.getElem_extractLsb']; simp [BitVec.getLsbD_append, hi]

theorem extract_append_high {n m s k : Nat} (a : BitVec n) (b : BitVec m) (h : m ≤ s) :
    (a ++ b).extractLsb' s k = a.extractLsb' (s - m) k := by
  ext i hi
  have h1 : ¬ s + i < m := by omega
  have h2 : s + i - m = s - m + i := by omega
  simp [BitVec.getLsbD_append, h1, h2]

theorem extract_all {n : Nat} (a : BitVec n) : a.extractLsb' 0 n = a := by
  ext i hi; simp

theorem getLsbD_append_high {n m s : Nat} (a : BitVec n) (b : BitVec m) (h : m ≤ s) :
    (a ++ b).getLsbD s = a.getLsbD (s - m) := by
  have h1 : ¬ s < m := by omega
  rw [BitVec.getLsbD_append]; simp [h1]

theorem getLsbD_append_ofBool {n : Nat} (a : BitVec n) (b : Bool) : (a ++ BitVec.ofBool b).getLsbD 0 = b := by
  rw [BitVec.getLsbD_append]; cases b <;> rfl

/-- The fields of a word are those it was written with. -/
theorem fieldsOf_wordOf (opc : Nat) (f : Fields) (h : (f.d.known && f.a.known && f.b.known) = true) :
    fieldsOf (wordOf opc f) = some f := by
  simp only [Bool.and_eq_true] at h
  have hd : (wordOf opc f).extractLsb' 60 11 = opdCode f.d := by
    unfold wordOf
    rw [extract_append_high _ _ (by decide), extract_append_high _ _ (by decide), extract_append_high _ _ (by decide),
      extract_append_high _ _ (by decide)]
    exact extract_append_low _ _
  have ha : (wordOf opc f).extractLsb' 49 11 = opdCode f.a := by
    unfold wordOf
    rw [extract_append_high _ _ (by decide), extract_append_high _ _ (by decide), extract_append_high _ _ (by decide)]
    exact extract_append_low _ _
  have hb : (wordOf opc f).extractLsb' 38 11 = opdCode f.b := by
    unfold wordOf
    rw [extract_append_high _ _ (by decide), extract_append_high _ _ (by decide)]
    exact extract_append_low _ _
  have hm : (wordOf opc f).extractLsb' 32 6 = f.mod := by
    unfold wordOf
    rw [extract_append_high _ _ (by decide)]
    exact extract_append_low _ _
  have hx : (wordOf opc f).extractLsb' 0 32 = f.x := by
    unfold wordOf; exact extract_append_low _ _
  have hcc : (wordOf opc f).extractLsb' 71 2 = f.cc := by
    unfold wordOf
    rw [extract_append_high _ _ (by decide), extract_append_high _ _ (by decide), extract_append_high _ _ (by decide),
      extract_append_high _ _ (by decide), extract_append_high _ _ (by decide)]
    exact extract_append_low _ _
  have hyh : (wordOf opc f).getLsbD 73 = f.yh := by
    unfold wordOf
    rw [getLsbD_append_high _ _ (by decide), getLsbD_append_high _ _ (by decide), getLsbD_append_high _ _ (by decide),
      getLsbD_append_high _ _ (by decide), getLsbD_append_high _ _ (by decide), getLsbD_append_high _ _ (by decide)]
    exact getLsbD_append_ofBool _ _
  have hka : (wordOf opc f).getLsbD 74 = f.ka := by
    unfold wordOf
    rw [getLsbD_append_high _ _ (by decide), getLsbD_append_high _ _ (by decide), getLsbD_append_high _ _ (by decide),
      getLsbD_append_high _ _ (by decide), getLsbD_append_high _ _ (by decide), getLsbD_append_high _ _ (by decide),
      getLsbD_append_high _ _ (by decide)]
    exact getLsbD_append_ofBool _ _
  have hla : (wordOf opc f).extractLsb' 75 4 = f.la := by
    unfold wordOf
    rw [extract_append_high _ _ (by decide), extract_append_high _ _ (by decide), extract_append_high _ _ (by decide),
      extract_append_high _ _ (by decide), extract_append_high _ _ (by decide), extract_append_high _ _ (by decide),
      extract_append_high _ _ (by decide), extract_append_high _ _ (by decide)]
    exact extract_append_low _ _
  have hgp : (wordOf opc f).extractLsb' 79 4 = f.gp := by
    unfold wordOf
    rw [extract_append_high _ _ (by decide), extract_append_high _ _ (by decide), extract_append_high _ _ (by decide),
      extract_append_high _ _ (by decide), extract_append_high _ _ (by decide), extract_append_high _ _ (by decide),
      extract_append_high _ _ (by decide), extract_append_high _ _ (by decide), extract_append_high _ _ (by decide)]
    exact extract_append_low _ _
  have hgn : (wordOf opc f).getLsbD 83 = f.gn := by
    unfold wordOf
    rw [getLsbD_append_high _ _ (by decide), getLsbD_append_high _ _ (by decide), getLsbD_append_high _ _ (by decide),
      getLsbD_append_high _ _ (by decide), getLsbD_append_high _ _ (by decide), getLsbD_append_high _ _ (by decide),
      getLsbD_append_high _ _ (by decide), getLsbD_append_high _ _ (by decide), getLsbD_append_high _ _ (by decide),
      getLsbD_append_high _ _ (by decide)]
    exact getLsbD_append_ofBool _ _
  have hfn : (wordOf opc f).extractLsb' 84 4 = f.fn := by
    unfold wordOf
    rw [extract_append_high _ _ (by decide), extract_append_high _ _ (by decide), extract_append_high _ _ (by decide),
      extract_append_high _ _ (by decide), extract_append_high _ _ (by decide), extract_append_high _ _ (by decide),
      extract_append_high _ _ (by decide), extract_append_high _ _ (by decide), extract_append_high _ _ (by decide),
      extract_append_high _ _ (by decide), extract_append_high _ _ (by decide)]
    exact extract_append_low _ _
  unfold fieldsOf
  rw [hd, ha, hb, opdOf_opdCode _ h.1.1, opdOf_opdCode _ h.1.2, opdOf_opdCode _ h.2]
  simp only [hm, hx, hcc, hyh, hka, hla, hgp, hgn, hfn]

/-- The opcode of a word is the one it was written with. -/
theorem opcodeOf_wordOf {opc : Nat} (h : opc < 256) (f : Fields) : opcodeOf (wordOf opc f) = opc := by
  have : (wordOf opc f).extractLsb' 88 8 = BitVec.ofNat 8 opc := by
    unfold wordOf
    rw [extract_append_high _ _ (by decide), extract_append_high _ _ (by decide), extract_append_high _ _ (by decide),
      extract_append_high _ _ (by decide), extract_append_high _ _ (by decide), extract_append_high _ _ (by decide),
      extract_append_high _ _ (by decide), extract_append_high _ _ (by decide), extract_append_high _ _ (by decide),
      extract_append_high _ _ (by decide), extract_append_high _ _ (by decide), extract_append_high _ _ (by decide)]
    exact extract_all _
  unfold opcodeOf
  rw [this]
  simp [Nat.mod_eq_of_lt h]

theorem ofBool_getLsbD {n : Nat} (w : BitVec n) (i : Nat) : BitVec.ofBool (w.getLsbD i) = w.extractLsb' i 1 := by
  ext j hj
  have : j = 0 := by omega
  subst this
  rw [BitVec.getElem_extractLsb']
  simp

/-- A word is the word of its opcode and its fields. -/
theorem wordOf_fieldsOf {w : BitVec 96} {f : Fields} (h : fieldsOf w = some f) :
    wordOf (opcodeOf w) f = w ∧ (f.d.known && f.a.known && f.b.known) = true := by
  unfold fieldsOf at h
  split at h
  · rename_i d a b hd ha hb
    injection h with h
    subst h
    obtain ⟨hd1, hd2⟩ := opdCode_opdOf hd
    obtain ⟨ha1, ha2⟩ := opdCode_opdOf ha
    obtain ⟨hb1, hb2⟩ := opdCode_opdOf hb
    refine ⟨?_, by simp [hd2, ha2, hb2]⟩
    unfold wordOf opcodeOf
    simp only [hd1, ha1, hb1, BitVec.ofNat_toNat, BitVec.setWidth_eq, ofBool_getLsbD]
    apply BitVec.eq_of_getLsbD_eq
    intro i hi
    simp only [BitVec.getLsbD_append, BitVec.getLsbD_extractLsb']
    have key : ∀ a k m : Nat, a < m → k = i → (decide (a < m) && w.getLsbD k) = w.getLsbD i := by
      intro a k m h1 h2; simp [h1, h2]
    have both : ∀ (c : Prop) [Decidable c] (x y z : Bool), (c → x = z) → (¬c → y = z) → (if c then x else y) = z := by
      intro c _ x y z h1 h2; split
      · exact h1 ‹_›
      · exact h2 ‹_›
    iterate 12
      refine both _ _ _ _ (fun h => key _ _ _ h (by omega)) (fun h => ?_)
    exact key _ _ _ (by omega) (by omega)
  · cases h

/-! ### Bytes -/

/-- The twelve bytes of a word read back as the word (R8). -/
theorem wordOfBytes_bytesOfWord (w : BitVec 96) : wordOfBytes (bytesOfWord w) = some w := by
  simp only [wordOfBytes, bytesOfWord, Option.some.injEq, le32]
  apply BitVec.eq_of_getLsbD_eq
  intro i hi
  simp only [BitVec.getLsbD_append, BitVec.getLsbD_extractLsb']
  have key : ∀ a k : Nat, a < 8 → k = i → (decide (a < 8) && w.getLsbD k) = w.getLsbD i := by
    intro a k h1 h2; simp [h1, h2]
  repeat' split
  all_goals exact key _ _ (by omega) (by omega)

end Sys2Proof
end

