-- ==== Sys2Proof/Laws/PerInstr.lean ====
section
/-!
SUPPORT. The laws that hold of every instruction, one lemma for each row. `RoundTrip`: the encoding of a well-formed instruction
decodes to it.
-/
namespace Sys2Proof.Laws.RoundTrip

/-- The encoding of the instruction, where it is well formed and a word, decodes to it. -/
def Statement (i : Instr) : Prop := i.WellFormed → ∀ w, encode i = some w → decodeWord w = .ok i

theorem of_form {i : Instr} {opc : Nat} {f : Fields} (h : instrForm i = some (opc, f)) (ho : opc < 256)
    (hr : reservedOpc opc = false) (he : encode i = (instrForm i).map fun p => wordOf p.1 p.2) : Statement i := by
  intro hw w hx
  rw [he, h] at hx
  simp only [Option.map_some, Option.some.injEq] at hx
  subst hx
  simp only [Instr.WellFormed, Instr.wf, h, Bool.and_eq_true, decide_eq_true_eq] at hw
  have hk : (f.d.known && f.a.known && f.b.known) = true := by
    have := hw.1
    simp only [legal, Bool.and_eq_true] at this
    simp only [Bool.and_eq_true]
    exact ⟨⟨this.1.1.2, this.1.2⟩, this.2⟩
  have hf := fieldsOf_wordOf opc f hk
  simp [decodeWord, opcodeOf_wordOf ho, hr, hf, hw.2, hw.1]

theorem of_event {i : Instr} (h : encode i = none) : Statement i := by
  intro _ w hx
  rw [h] at hx
  cases hx

theorem reservedOpcode (w : BitVec 96) : Statement (.reservedOpcode w) := by
  intro hw v hv
  simp only [encode, Option.some.injEq] at hv
  subst hv
  have hr : reservedOpc (opcodeOf w) = true := hw
  simp [decodeWord, hr]

theorem iadd (f : Fields) : Statement (.iadd f) := of_form rfl (by decide) (by decide) rfl
theorem isub (f : Fields) : Statement (.isub f) := of_form rfl (by decide) (by decide) rfl
theorem imul (f : Fields) : Statement (.imul f) := of_form rfl (by decide) (by decide) rfl
theorem imulh (f : Fields) : Statement (.imulh f) := of_form rfl (by decide) (by decide) rfl
theorem imad (f : Fields) : Statement (.imad f) := of_form rfl (by decide) (by decide) rfl
theorem imadw (f : Fields) : Statement (.imadw f) := of_form rfl (by decide) (by decide) rfl
theorem iabs (f : Fields) : Statement (.iabs f) := of_form rfl (by decide) (by decide) rfl
theorem ineg (f : Fields) : Statement (.ineg f) := of_form rfl (by decide) (by decide) rfl
theorem imin (f : Fields) : Statement (.imin f) := of_form rfl (by decide) (by decide) rfl
theorem imax (f : Fields) : Statement (.imax f) := of_form rfl (by decide) (by decide) rfl
theorem isad (f : Fields) : Statement (.isad f) := of_form rfl (by decide) (by decide) rfl
theorem and (f : Fields) : Statement (.and f) := of_form rfl (by decide) (by decide) rfl
theorem or (f : Fields) : Statement (.or f) := of_form rfl (by decide) (by decide) rfl
theorem xor (f : Fields) : Statement (.xor f) := of_form rfl (by decide) (by decide) rfl
theorem andn (f : Fields) : Statement (.andn f) := of_form rfl (by decide) (by decide) rfl
theorem shl (f : Fields) : Statement (.shl f) := of_form rfl (by decide) (by decide) rfl
theorem shr (f : Fields) : Statement (.shr f) := of_form rfl (by decide) (by decide) rfl
theorem sar (f : Fields) : Statement (.sar f) := of_form rfl (by decide) (by decide) rfl
theorem rot (f : Fields) : Statement (.rot f) := of_form rfl (by decide) (by decide) rfl
theorem bfx (f : Fields) : Statement (.bfx f) := of_form rfl (by decide) (by decide) rfl
theorem bfi (f : Fields) : Statement (.bfi f) := of_form rfl (by decide) (by decide) rfl
theorem popc (f : Fields) : Statement (.popc f) := of_form rfl (by decide) (by decide) rfl
theorem clz (f : Fields) : Statement (.clz f) := of_form rfl (by decide) (by decide) rfl
theorem ctz (f : Fields) : Statement (.ctz f) := of_form rfl (by decide) (by decide) rfl
theorem brev (f : Fields) : Statement (.brev f) := of_form rfl (by decide) (by decide) rfl
theorem prmb (f : Fields) : Statement (.prmb f) := of_form rfl (by decide) (by decide) rfl
theorem icmp (f : Fields) : Statement (.icmp f) := of_form rfl (by decide) (by decide) rfl
theorem sel (f : Fields) : Statement (.sel f) := of_form rfl (by decide) (by decide) rfl
theorem mov (f : Fields) : Statement (.mov f) := of_form rfl (by decide) (by decide) rfl
theorem movi (f : Fields) : Statement (.movi f) := of_form rfl (by decide) (by decide) rfl
theorem lea (f : Fields) : Statement (.lea f) := of_form rfl (by decide) (by decide) rfl
theorem iclmp (f : Fields) : Statement (.iclmp f) := of_form rfl (by decide) (by decide) rfl
theorem fadd (f : Fields) : Statement (.fadd f) := of_form rfl (by decide) (by decide) rfl
theorem fsub (f : Fields) : Statement (.fsub f) := of_form rfl (by decide) (by decide) rfl
theorem fmul (f : Fields) : Statement (.fmul f) := of_form rfl (by decide) (by decide) rfl
theorem ffma (f : Fields) : Statement (.ffma f) := of_form rfl (by decide) (by decide) rfl
theorem fmin (f : Fields) : Statement (.fmin f) := of_form rfl (by decide) (by decide) rfl
theorem fmax (f : Fields) : Statement (.fmax f) := of_form rfl (by decide) (by decide) rfl
theorem fcmp (f : Fields) : Statement (.fcmp f) := of_form rfl (by decide) (by decide) rfl
theorem fclass (f : Fields) : Statement (.fclass f) := of_form rfl (by decide) (by decide) rfl
theorem fdiv (f : Fields) : Statement (.fdiv f) := of_form rfl (by decide) (by decide) rfl
theorem fsqrt (f : Fields) : Statement (.fsqrt f) := of_form rfl (by decide) (by decide) rfl
theorem frcp (f : Fields) : Statement (.frcp f) := of_form rfl (by decide) (by decide) rfl
theorem frsq (f : Fields) : Statement (.frsq f) := of_form rfl (by decide) (by decide) rfl
theorem fexp2 (f : Fields) : Statement (.fexp2 f) := of_form rfl (by decide) (by decide) rfl
theorem flog2 (f : Fields) : Statement (.flog2 f) := of_form rfl (by decide) (by decide) rfl
theorem fsin (f : Fields) : Statement (.fsin f) := of_form rfl (by decide) (by decide) rfl
theorem fcos (f : Fields) : Statement (.fcos f) := of_form rfl (by decide) (by decide) rfl
theorem frnd (f : Fields) : Statement (.frnd f) := of_form rfl (by decide) (by decide) rfl
theorem cvt (f : Fields) : Statement (.cvt f) := of_form rfl (by decide) (by decide) rfl
theorem cvtfi (f : Fields) : Statement (.cvtfi f) := of_form rfl (by decide) (by decide) rfl
theorem cvtif (f : Fields) : Statement (.cvtif f) := of_form rfl (by decide) (by decide) rfl
theorem fdot2 (f : Fields) : Statement (.fdot2 f) := of_form rfl (by decide) (by decide) rfl
theorem hadd2 (f : Fields) : Statement (.hadd2 f) := of_form rfl (by decide) (by decide) rfl
theorem hsub2 (f : Fields) : Statement (.hsub2 f) := of_form rfl (by decide) (by decide) rfl
theorem hmul2 (f : Fields) : Statement (.hmul2 f) := of_form rfl (by decide) (by decide) rfl
theorem hfma2 (f : Fields) : Statement (.hfma2 f) := of_form rfl (by decide) (by decide) rfl
theorem hmin2 (f : Fields) : Statement (.hmin2 f) := of_form rfl (by decide) (by decide) rfl
theorem hmax2 (f : Fields) : Statement (.hmax2 f) := of_form rfl (by decide) (by decide) rfl
theorem iadd2 (f : Fields) : Statement (.iadd2 f) := of_form rfl (by decide) (by decide) rfl
theorem isub2 (f : Fields) : Statement (.isub2 f) := of_form rfl (by decide) (by decide) rfl
theorem imin2 (f : Fields) : Statement (.imin2 f) := of_form rfl (by decide) (by decide) rfl
theorem imax2 (f : Fields) : Statement (.imax2 f) := of_form rfl (by decide) (by decide) rfl
theorem vacs2 (f : Fields) : Statement (.vacs2 f) := of_form rfl (by decide) (by decide) rfl
theorem pack2 (f : Fields) : Statement (.pack2 f) := of_form rfl (by decide) (by decide) rfl
theorem unpk2 (f : Fields) : Statement (.unpk2 f) := of_form rfl (by decide) (by decide) rfl
theorem bdec (f : Fields) : Statement (.bdec f) := of_form rfl (by decide) (by decide) rfl
theorem benc (f : Fields) : Statement (.benc f) := of_form rfl (by decide) (by decide) rfl
theorem reqb (f : Fields) : Statement (.reqb f) := of_form rfl (by decide) (by decide) rfl
theorem cbld (f : Fields) : Statement (.cbld f) := of_form rfl (by decide) (by decide) rfl
theorem amax (f : Fields) : Statement (.amax f) := of_form rfl (by decide) (by decide) rfl
theorem scl (f : Fields) : Statement (.scl f) := of_form rfl (by decide) (by decide) rfl
theorem nop (f : Fields) : Statement (.nop f) := of_form rfl (by decide) (by decide) rfl
theorem bra (f : Fields) : Statement (.bra f) := of_form rfl (by decide) (by decide) rfl
theorem brx (f : Fields) : Statement (.brx f) := of_form rfl (by decide) (by decide) rfl
theorem brz (f : Fields) : Statement (.brz f) := of_form rfl (by decide) (by decide) rfl
theorem call (f : Fields) : Statement (.call f) := of_form rfl (by decide) (by decide) rfl
theorem ret (f : Fields) : Statement (.ret f) := of_form rfl (by decide) (by decide) rfl
theorem loop (f : Fields) : Statement (.loop f) := of_form rfl (by decide) (by decide) rfl
theorem exit (f : Fields) : Statement (.exit f) := of_form rfl (by decide) (by decide) rfl
theorem split (f : Fields) : Statement (.split f) := of_form rfl (by decide) (by decide) rfl
theorem flip (f : Fields) : Statement (.flip f) := of_form rfl (by decide) (by decide) rfl
theorem merge (f : Fields) : Statement (.merge f) := of_form rfl (by decide) (by decide) rfl
theorem pand (f : Fields) : Statement (.pand f) := of_form rfl (by decide) (by decide) rfl
theorem por (f : Fields) : Statement (.por f) := of_form rfl (by decide) (by decide) rfl
theorem pxor (f : Fields) : Statement (.pxor f) := of_form rfl (by decide) (by decide) rfl
theorem pset (f : Fields) : Statement (.pset f) := of_form rfl (by decide) (by decide) rfl
theorem pmov (f : Fields) : Statement (.pmov f) := of_form rfl (by decide) (by decide) rfl
theorem yield (f : Fields) : Statement (.yield f) := of_form rfl (by decide) (by decide) rfl
theorem sleep (f : Fields) : Statement (.sleep f) := of_form rfl (by decide) (by decide) rfl
theorem getsr (f : Fields) : Statement (.getsr f) := of_form rfl (by decide) (by decide) rfl
theorem setsr (f : Fields) : Statement (.setsr f) := of_form rfl (by decide) (by decide) rfl
theorem trap (f : Fields) : Statement (.trap f) := of_form rfl (by decide) (by decide) rfl
theorem sysc (f : Fields) : Statement (.sysc f) := of_form rfl (by decide) (by decide) rfl
theorem bkpt (f : Fields) : Statement (.bkpt f) := of_form rfl (by decide) (by decide) rfl
theorem eret (f : Fields) : Statement (.eret f) := of_form rfl (by decide) (by decide) rfl
theorem shfl (f : Fields) : Statement (.shfl f) := of_form rfl (by decide) (by decide) rfl
theorem bcast (f : Fields) : Statement (.bcast f) := of_form rfl (by decide) (by decide) rfl
theorem vote (f : Fields) : Statement (.vote f) := of_form rfl (by decide) (by decide) rfl
theorem ballot (f : Fields) : Statement (.ballot f) := of_form rfl (by decide) (by decide) rfl
theorem matchLanes (f : Fields) : Statement (.matchLanes f) := of_form rfl (by decide) (by decide) rfl
theorem gred (f : Fields) : Statement (.gred f) := of_form rfl (by decide) (by decide) rfl
theorem gscan (f : Fields) : Statement (.gscan f) := of_form rfl (by decide) (by decide) rfl
theorem qxch (f : Fields) : Statement (.qxch f) := of_form rfl (by decide) (by decide) rfl
theorem ddx (f : Fields) : Statement (.ddx f) := of_form rfl (by decide) (by decide) rfl
theorem ddy (f : Fields) : Statement (.ddy f) := of_form rfl (by decide) (by decide) rfl
theorem regrp (f : Fields) : Statement (.regrp f) := of_form rfl (by decide) (by decide) rfl
theorem ld (f : Fields) : Statement (.ld f) := of_form rfl (by decide) (by decide) rfl
theorem st (f : Fields) : Statement (.st f) := of_form rfl (by decide) (by decide) rfl
theorem lds (f : Fields) : Statement (.lds f) := of_form rfl (by decide) (by decide) rfl
theorem sts (f : Fields) : Statement (.sts f) := of_form rfl (by decide) (by decide) rfl
theorem ldk (f : Fields) : Statement (.ldk f) := of_form rfl (by decide) (by decide) rfl
theorem atom (f : Fields) : Statement (.atom f) := of_form rfl (by decide) (by decide) rfl
theorem red (f : Fields) : Statement (.red f) := of_form rfl (by decide) (by decide) rfl
theorem atom2 (f : Fields) : Statement (.atom2 f) := of_form rfl (by decide) (by decide) rfl
theorem fence (f : Fields) : Statement (.fence f) := of_form rfl (by decide) (by decide) rfl
theorem lock (f : Fields) : Statement (.lock f) := of_form rfl (by decide) (by decide) rfl
theorem unlock (f : Fields) : Statement (.unlock f) := of_form rfl (by decide) (by decide) rfl
theorem prf (f : Fields) : Statement (.prf f) := of_form rfl (by decide) (by decide) rfl
theorem bari (f : Fields) : Statement (.bari f) := of_form rfl (by decide) (by decide) rfl
theorem bara (f : Fields) : Statement (.bara f) := of_form rfl (by decide) (by decide) rfl
theorem barw (f : Fields) : Statement (.barw f) := of_form rfl (by decide) (by decide) rfl
theorem rdci (f : Fields) : Statement (.rdci f) := of_form rfl (by decide) (by decide) rfl
theorem clent (f : Fields) : Statement (.clent f) := of_form rfl (by decide) (by decide) rfl
theorem cltry (f : Fields) : Statement (.cltry f) := of_form rfl (by decide) (by decide) rfl
theorem cllv (f : Fields) : Statement (.cllv f) := of_form rfl (by decide) (by decide) rfl
theorem clabt (f : Fields) : Statement (.clabt f) := of_form rfl (by decide) (by decide) rfl
theorem clabtRst (f : Fields) : Statement (.clabtRst f) := of_form rfl (by decide) (by decide) rfl
theorem tdef (f : Fields) : Statement (.tdef f) := of_form rfl (by decide) (by decide) rfl
theorem tld (f : Fields) : Statement (.tld f) := of_form rfl (by decide) (by decide) rfl
theorem tst (f : Fields) : Statement (.tst f) := of_form rfl (by decide) (by decide) rfl
theorem tstat (f : Fields) : Statement (.tstat f) := of_form rfl (by decide) (by decide) rfl
theorem trel (f : Fields) : Statement (.trel f) := of_form rfl (by decide) (by decide) rfl
theorem mma (f : Fields) : Statement (.mma f) := of_form rfl (by decide) (by decide) rfl
theorem mmaq (f : Fields) : Statement (.mmaq f) := of_form rfl (by decide) (by decide) rfl
theorem lrmul (f : Fields) : Statement (.lrmul f) := of_form rfl (by decide) (by decide) rfl
theorem lradd (f : Fields) : Statement (.lradd f) := of_form rfl (by decide) (by decide) rfl
theorem lrc (f : Fields) : Statement (.lrc f) := of_form rfl (by decide) (by decide) rfl
theorem lrdn (f : Fields) : Statement (.lrdn f) := of_form rfl (by decide) (by decide) rfl
theorem lrfm (f : Fields) : Statement (.lrfm f) := of_form rfl (by decide) (by decide) rfl
theorem mzero (f : Fields) : Statement (.mzero f) := of_form rfl (by decide) (by decide) rfl
theorem mtrn (f : Fields) : Statement (.mtrn f) := of_form rfl (by decide) (by decide) rfl
theorem msetpCb (f : Fields) : Statement (.msetpCb f) := of_form rfl (by decide) (by decide) rfl
theorem msetpRcap (f : Fields) : Statement (.msetpRcap f) := of_form rfl (by decide) (by decide) rfl
theorem phrs (f : Fields) : Statement (.phrs f) := of_form rfl (by decide) (by decide) rfl
theorem bseal (f : Fields) : Statement (.bseal f) := of_form rfl (by decide) (by decide) rfl
theorem bwait (f : Fields) : Statement (.bwait f) := of_form rfl (by decide) (by decide) rfl
theorem paddr (f : Fields) : Statement (.paddr f) := of_form rfl (by decide) (by decide) rfl
theorem pxfer (f : Fields) : Statement (.pxfer f) := of_form rfl (by decide) (by decide) rfl
theorem pgath (f : Fields) : Statement (.pgath f) := of_form rfl (by decide) (by decide) rfl
theorem pscat (f : Fields) : Statement (.pscat f) := of_form rfl (by decide) (by decide) rfl
theorem ploop (f : Fields) : Statement (.ploop f) := of_form rfl (by decide) (by decide) rfl
theorem pqpsh (f : Fields) : Statement (.pqpsh f) := of_form rfl (by decide) (by decide) rfl
theorem parrv (f : Fields) : Statement (.parrv f) := of_form rfl (by decide) (by decide) rfl
theorem pend (f : Fields) : Statement (.pend f) := of_form rfl (by decide) (by decide) rfl
theorem pcur (f : Fields) : Statement (.pcur f) := of_form rfl (by decide) (by decide) rfl
theorem pcurSt (f : Fields) : Statement (.pcurSt f) := of_form rfl (by decide) (by decide) rfl
theorem view (f : Fields) : Statement (.view f) := of_form rfl (by decide) (by decide) rfl
theorem vstat (f : Fields) : Statement (.vstat f) := of_form rfl (by decide) (by decide) rfl
theorem vcan (f : Fields) : Statement (.vcan f) := of_form rfl (by decide) (by decide) rfl
theorem tlbiVa (f : Fields) : Statement (.tlbiVa f) := of_form rfl (by decide) (by decide) rfl
theorem tlbiAsid (f : Fields) : Statement (.tlbiAsid f) := of_form rfl (by decide) (by decide) rfl
theorem tlbiAll (f : Fields) : Statement (.tlbiAll f) := of_form rfl (by decide) (by decide) rfl
theorem tfence (f : Fields) : Statement (.tfence f) := of_form rfl (by decide) (by decide) rfl
theorem pgmap (f : Fields) : Statement (.pgmap f) := of_form rfl (by decide) (by decide) rfl
theorem fbpop (f : Fields) : Statement (.fbpop f) := of_form rfl (by decide) (by decide) rfl
theorem launch (f : Fields) : Statement (.launch f) := of_form rfl (by decide) (by decide) rfl
theorem join (f : Fields) : Statement (.join f) := of_form rfl (by decide) (by decide) rfl
theorem qctlStat (f : Fields) : Statement (.qctlStat f) := of_form rfl (by decide) (by decide) rfl
theorem qctlSetr (f : Fields) : Statement (.qctlSetr f) := of_form rfl (by decide) (by decide) rfl
theorem qctlStart (f : Fields) : Statement (.qctlStart f) := of_form rfl (by decide) (by decide) rfl
theorem qctlStop (f : Fields) : Statement (.qctlStop f) := of_form rfl (by decide) (by decide) rfl
theorem ctxsPart (f : Fields) : Statement (.ctxsPart f) := of_form rfl (by decide) (by decide) rfl
theorem ctxsFull (f : Fields) : Statement (.ctxsFull f) := of_form rfl (by decide) (by decide) rfl
theorem ctxsRest (f : Fields) : Statement (.ctxsRest f) := of_form rfl (by decide) (by decide) rfl
theorem ctxsTerm (f : Fields) : Statement (.ctxsTerm f) := of_form rfl (by decide) (by decide) rfl
theorem ctxsRsm (f : Fields) : Statement (.ctxsRsm f) := of_form rfl (by decide) (by decide) rfl
theorem nsig (f : Fields) : Statement (.nsig f) := of_form rfl (by decide) (by decide) rfl
theorem halt (f : Fields) : Statement (.halt f) := of_form rfl (by decide) (by decide) rfl
theorem registerResultWrite (a : Agent) (idx : Nat) (reg : Option Nat) (lanes : Mask) :
    Statement (.registerResultWrite a idx reg lanes) := of_event rfl
theorem depPark (a : Agent) : Statement (.depPark a) := of_event rfl
theorem sleepExpiry (a : Agent) : Statement (.sleepExpiry a) := of_event rfl
theorem groupSwap (core slice : Nat) : Statement (.groupSwap core slice) := of_event rfl
theorem swapComplete (core slice : Nat) : Statement (.swapComplete core slice) := of_event rfl
theorem evictedGroupReturn (a : Agent) : Statement (.evictedGroupReturn a) := of_event rfl
theorem progressWindowExpiry (core slice : Nat) : Statement (.progressWindowExpiry core slice) := of_event rfl
theorem barrierRelease (a : Agent) : Statement (.barrierRelease a) := of_event rfl
theorem tileWaitRelease (a : Agent) : Statement (.tileWaitRelease a) := of_event rfl
theorem queuePortWake (a : Agent) : Statement (.queuePortWake a) := of_event rfl
theorem matrixGrant (core : Nat) : Statement (.matrixGrant core) := of_event rfl
theorem matrixComplete (core : Nat) : Statement (.matrixComplete core) := of_event rfl
theorem phraseRequestStart (core : Nat) : Statement (.phraseRequestStart core) := of_event rfl
theorem rangeLockRegister (core ctx slot : Nat) : Statement (.rangeLockRegister core ctx slot) := of_event rfl
theorem phraseChunk (core ctx slot : Nat) : Statement (.phraseChunk core ctx slot) := of_event rfl
theorem phraseTransferComplete (core ctx slot : Nat) : Statement (.phraseTransferComplete core ctx slot) := of_event rfl
theorem phraseContextResume (core ctx : Nat) : Statement (.phraseContextResume core ctx) := of_event rfl
theorem bwaitRelease (a : Agent) : Statement (.bwaitRelease a) := of_event rfl
theorem clauseRequest (a : Agent) (lane : Nat) : Statement (.clauseRequest a lane) := of_event rfl
theorem deadlockWalk (a : Agent) (lane : Nat) : Statement (.deadlockWalk a lane) := of_event rfl
theorem levelUpdate (die : Nat) : Statement (.levelUpdate die) := of_event rfl
theorem leaveGrant (die : Nat) (hold : Bool) : Statement (.leaveGrant die hold) := of_event rfl
theorem slewHoldEnd (die : Nat) : Statement (.slewHoldEnd die) := of_event rfl
theorem energySettlement (die : Nat) (asid : BitVec 16) : Statement (.energySettlement die asid) := of_event rfl
theorem coreGate (core : Nat) : Statement (.coreGate core) := of_event rfl
theorem coreUngate (core : Nat) : Statement (.coreUngate core) := of_event rfl
theorem remoteScratchpadAccess (a : Agent) : Statement (.remoteScratchpadAccess a) := of_event rfl
theorem viewDice (die : Nat) : Statement (.viewDice die) := of_event rfl
theorem viewRowSample (die : Nat) : Statement (.viewRowSample die) := of_event rfl
theorem viewArrival (view : Nat) : Statement (.viewArrival view) := of_event rfl
theorem viewKill (view : Nat) : Statement (.viewKill view) := of_event rfl
theorem viewRecordWake (a : Agent) : Statement (.viewRecordWake a) := of_event rfl
theorem blockPlacement (grid core base : Nat) : Statement (.blockPlacement grid core base) := of_event rfl
theorem blockEnd (block : Nat) : Statement (.blockEnd block) := of_event rfl
theorem gridComplete (grid : Nat) : Statement (.gridComplete grid) := of_event rfl
theorem joinRelease (a : Agent) : Statement (.joinRelease a) := of_event rfl
theorem haltWake (a : Agent) : Statement (.haltWake a) := of_event rfl
theorem fabricWrite (f : Frame) : Statement (.fabricWrite f) := of_event rfl
theorem fabricReadRequest (f : Frame) : Statement (.fabricReadRequest f) := of_event rfl
theorem fabricReadData (f : Frame) : Statement (.fabricReadData f) := of_event rfl
theorem fabricSignalSet (f : Frame) : Statement (.fabricSignalSet f) := of_event rfl
theorem fabricSignalAdd (f : Frame) : Statement (.fabricSignalAdd f) := of_event rfl
theorem fabricAck (f : Frame) : Statement (.fabricAck f) := of_event rfl
theorem fabricNak (f : Frame) : Statement (.fabricNak f) := of_event rfl
theorem retransmitTimeout (die pkg : Nat) : Statement (.retransmitTimeout die pkg) := of_event rfl
theorem portLinkChange (port : Nat) (up : Bool) (media : BitVec 3) : Statement (.portLinkChange port up media) := of_event rfl
theorem kernelRingReceive (port : Nat) (data : List Byte) (good : Bool) :
    Statement (.kernelRingReceive port data good) := of_event rfl
theorem kernelRingTransmit (port : Nat) : Statement (.kernelRingTransmit port) := of_event rfl
theorem storageDeviceRequest (write : Bool) (addr : Dword) (len : Nat) (data : List Byte) :
    Statement (.storageDeviceRequest write addr len data) := of_event rfl
theorem pcieLinkChange (width speed : BitVec 4) : Statement (.pcieLinkChange width speed) := of_event rfl
theorem attcmdWrite (v : Dword) : Statement (.attcmdWrite v) := of_event rfl
theorem kringWrite (port : Nat) (v : Dword) : Statement (.kringWrite port v) := of_event rfl
theorem intpendWrite (die : Nat) (v : Dword) : Statement (.intpendWrite die v) := of_event rfl
theorem fbstatWrite (die : Nat) (v : Dword) : Statement (.fbstatWrite die v) := of_event rfl
theorem pacfgWrite (die : Nat) (v : Dword) : Statement (.pacfgWrite die v) := of_event rfl
theorem viewcfgWrite (die : Nat) (v : Dword) : Statement (.viewcfgWrite die v) := of_event rfl
theorem ftringWrite (die : Nat) (v : Dword) : Statement (.ftringWrite die v) := of_event rfl
theorem queueConfigWrite (q : Nat) (cfg : Bool) (v : Dword) : Statement (.queueConfigWrite q cfg v) := of_event rfl
theorem qcacheWrite (q : Nat) (v : Dword) : Statement (.qcacheWrite q v) := of_event rfl
theorem fabcfgWrite (v : Dword) : Statement (.fabcfgWrite v) := of_event rfl
theorem registerWrite (die off : Nat) (v : Dword) : Statement (.registerWrite die off v) := of_event rfl
theorem allowanceRefill (die : Nat) : Statement (.allowanceRefill die) := of_event rfl
theorem packetCompletion (q idx : Nat) : Statement (.packetCompletion q idx) := of_event rfl
theorem fabricFrameLost (f : Frame) : Statement (.fabricFrameLost f) := of_event rfl
theorem boot : Statement .boot := of_event rfl
theorem scPackageMark : Statement .scPackageMark := of_event rfl
theorem firmwareStep : Statement .firmwareStep := of_event rfl
theorem attestationQuote : Statement .attestationQuote := of_event rfl

end Sys2Proof.Laws.RoundTrip
end

