-- ==== Sys2Proof/Safety.lean ====
section
/-!
DEFINITION. What a safe step and a safe run are, and the terms in which claims speak: when a word issues normally, what the state
is after it, and what the results of its lanes are.
-/
namespace Sys2Proof.Machine

/-- The step from a state answers a next state: no fault and no refusal. -/
def StepsOn (s : State) : Prop := ∃ s', step s = .next s'

/-- The memory of a state is in canonical form. -/
abbrev State.memWf (s : State) : Prop := Memory.wf s.mem

/-- A state from which `n` steps each answer a next state. -/
def RunsFor : Nat → State → Prop
  | 0, _ => True
  | n + 1, s => ∃ s', step s = .next s' ∧ RunsFor n s'

/-- `HELP` ⊆ `LIVE` and `EXM` ⊆ `LIVE` (R63). -/
def Thread.masksKept (t : Thread) : Prop := t.help &&& ~~~t.live = 0 ∧ t.exm &&& ~~~t.live = 0

/-- Every group of the package keeps its masks (R63). -/
def State.masksKept (s : State) : Prop := ∀ x ∈ s.threads, x.2.masksKept

/-- A thread with a live lane has an active one (R118). -/
def Thread.hasLane (t : Thread) : Prop := t.live ≠ 0 → t.exm ≠ 0

/-- Every group with a live lane has an active one (R118). -/
def State.lanesKept (s : State) : Prop := ∀ x ∈ s.threads, x.2.hasLane

/-! ### The issue of a word -/

/-- The word of opcode `opc` and fields `f` issues normally at state `s`: the issuing agent has registers, some lane is active,
every check of R31 passes, each queue port read holds its entries, no release waits for signals, and no poisoned register is
read. `e` is what the word reads, `ports` the queue ports without the entries popped. -/
def Runs (opc : Nat) (f : Fields) (s : State) (e : Env) (ports : Tab (List (List Word))) : Prop :=
  ∃ t, s.thread? s.cur = some t ∧ entry opc f s s.cur t = .runs e ports ∧ e.bad = 0

/-- The words that issue once every outstanding register result of their agent is written: `EXIT`, `SYSC` and `BKPT` (R24). -/
def waitsForResults (opc : Nat) : Bool := opc = 0x67 || opc = 0x75 || opc = 0x76

/-- The state in which a word issues: one of those words with the results of its agent written, any other in the state itself. -/
def settledFor (opc : Nat) (s : State) : State := if waitsForResults opc then s.modThread s.cur Thread.drain else s

/-- None of the results that a word waits for carries an uncorrectable error (R327). -/
def resultsGood (opc : Nat) (s : State) : Prop := waitsForResults opc = true → ∀ t, s.thread? s.cur = some t → t.late? = none

/-- No uncorrectable load result is outstanding (R327). -/
def NoLate (e : Env) : Prop := e.t.late? = none

/-- The state after a word whose only results are registers of its agent, which are now `u`: the queue entries popped, and
nothing else changed. -/
def regsAfter (s : State) (e : Env) (ports : Tab (List (List Word))) (u : Thread) : State :=
  popPorts (s.setThread e.a u) e.a e.opc e.f ports

/-- The state `s'` that the effect of a word left, with the queue entries popped and the pc moved on. -/
def wordEnd (s' : State) (e : Env) (ports : Tab (List (List Word))) : State :=
  (popPorts s' e.a e.opc e.f ports).modThread e.a Thread.advance

/-- The queue entries popped and the pc where the effect left it. -/
def wordStays (s' : State) (e : Env) (ports : Tab (List (List Word))) : State := popPorts s' e.a e.opc e.f ports

/-! ### Results of lanes -/

/-- Registers `u` are registers `t` but for vector, scalar and predicate registers, supervisor registers and the status. -/
def sameOutside (t u : Thread) : Prop :=
  { u with v := t.v, s := t.s, p := t.p, xv := t.xv, xs := t.xs, gst := t.gst, bad := t.bad } = t

/-- The lane that computes for lane `l`: the lowest active lane for a scalar destination (R80). -/
def laneFor (e : Env) (l : Nat) : Nat := if e.f.d.isS then e.low else l

/-- The flags that the lanes of a word raise. -/
def raised (e : Env) (g : Nat → Dword × Flags) : Flags := e.lanes.foldl (fun m l => m ||| (g (laneFor e l)).2) 0

/-- No lane raises a flag whose enable is set (R70). -/
def NoFlagTrap (e : Env) (g : Nat → Dword × Flags) : Prop :=
  ∀ l ∈ e.lanes, (g (laneFor e l)).2 &&& ((e.t.gst >>> 16) &&& 0x1F#32) = 0

/-- Registers `u` hold, for results `g` of width `w`, the result of each active lane in the destination of the word, or the one
result in a scalar destination; every other lane of every register holds what it held (R79, R80, R61). -/
def LaneValues (e : Env) (u : Thread) (w : Nat) (g : Nat → Dword × Flags) : Prop :=
  match e.f.d with
  | .v _ | .xv _ =>
    let n := vIdx e.f.d
    (∀ l ∈ e.lanes, u.getV n l = (g l).1.setWidth 32 ∧ (w = 64 → u.getV (n + 1) l = (g l).1.extractLsb' 32 32)) ∧
      (∀ m l, l < 64 → ¬(l ∈ e.lanes ∧ (m = n ∨ w = 64 ∧ m = n + 1)) → u.getV m l = e.t.getV m l) ∧
      u.s = e.t.s ∧ u.xs = e.t.xs ∧ u.p = e.t.p
  | .s _ | .xs _ =>
    u.getS (sIdx e.f.d) = (g e.low).1 ∧ (∀ m, m ≠ sIdx e.f.d → u.getS m = e.t.getS m) ∧
      u.v = e.t.v ∧ u.xv = e.t.xv ∧ u.p = e.t.p
  | .p n =>
    (∀ l, l < 64 →
      (u.getP n.toNat).getLsbD l =
        (if n = 15#4 then true else if l ∈ e.lanes then decide ((g l).1 ≠ 0) else (e.t.getP n.toNat).getLsbD l)) ∧
      (∀ m, m ≠ n.toNat → u.getP m = e.t.getP m) ∧ u.v = e.t.v ∧ u.xv = e.t.xv ∧ u.s = e.t.s ∧ u.xs = e.t.xs
  | _ => u.v = e.t.v ∧ u.xv = e.t.xv ∧ u.s = e.t.s ∧ u.xs = e.t.xs ∧ u.p = e.t.p

/-- The word answers a next state in which its agent's registers hold the results `g` of its lanes, its flags are raised, its pc
is past the word, and nothing else has changed; under a lookahead count the results are outstanding instead, and are those that
arrive (R23, R24), but for a replay, which ends with its results written (R163). -/
def LaneResult (s : State) (e : Env) (ports : Tab (List (List Word))) (w : Nat) (g : Nat → Dword × Flags)
    (o : Host.Outcome State Fault Refusal) : Prop :=
  ∃ u : Thread, LaneValues e u w g ∧ u.gst = e.t.gst ||| raised e g ∧ sameOutside e.t u ∧ (∀ b ∈ u.bad, b ∈ e.t.bad) ∧
    if e.f.la = 0 ∨ e.replay?.isSome then o = .next (regsAfter s e ports u.advance)
    else
      ∃ x : Outstanding, x.window = e.f.la.toNat ∧ x.pc = e.t.pc ∧ x.eccu = 0 ∧
        { (e.t.applyW { vw := x.vw, sw := x.sw, pw := x.pw, kw := x.kw }) with gst := e.t.gst ||| x.flags } = u ∧
        o = .next (regsAfter s e ports { e.t with outstanding := e.t.outstanding ++ [x] }.advance)

/-- A row of words of one shape: the constructor, its opcode, the width of its results, and the result and flags of a lane. -/
structure LaneRow where
  make : Fields → Instr
  opc : Nat
  width : Env → Nat
  val : Env → Nat → Dword × Flags

/-- Every word of the rows that issues normally, and raises no flag whose trap is enabled, completes with the results of its
row. -/
def RowsComplete (rows : List LaneRow) : Prop :=
  ∀ r ∈ rows, ∀ f s e ports, Runs r.opc f s e ports → NoFlagTrap e (r.val e) →
    LaneResult s e ports (r.width e) (r.val e) (exec (r.make f) s)

end Sys2Proof.Machine
end

