-- ==== Sys2Proof/Certificates/Slice0/Obligations.lean ====
section
/-!
DEFINITION. The obligations: the statements about this model that are to be proved, each with the sentence that says what it
states. A statement about the result of a word has the form: where the word issues normally (`Runs`, R31) and the conditions on
the state and the operands named hold, its execution answers this next state. The next state is written out from the state before,
so it is also the statement of everything that the word leaves as it was.
-/

open Sys2Proof Sys2Proof.Machine

namespace Sys2Proof.Machine

/-- The fields of a word with guard `?P` of that number, without hints. -/
def plain (gp : BitVec 4) (d a b : Opd) (mod : BitVec 6) (x : BitVec 32) : Fields :=
  { fn := 0, gn := false, gp := gp, la := 0, ka := false, yh := false, cc := 0, d := d, a := a, b := b, mod := mod, x := x }

/-- The guard of a word, with every other field as it may be. -/
def guardFields (w : BitVec 96) : Fields :=
  { plain (w.extractLsb' 79 4) .absent .absent .absent 0 0 with gn := w.getLsbD 83 }

/-- The reserved opcodes, as R30 lists them: first and last of each range. -/
def reservedRanges : List (Nat × Nat) :=
  [(0x35, 0x3F), (0x53, 0x5F), (0x78, 0x7F), (0x8B, 0x9F), (0xB4, 0xBF), (0xDE, 0xDF), (0xEA, 0xFF)]

/-- Scalar registers that an agent may name (R188, R209). -/
def scalarsOf : Agent → Nat
  | .group _ _ => 256
  | _ => 64

end Sys2Proof.Machine

/-! ### Encoding -/

/-- Every well-formed instruction row has a word, and decoding that word, or the twelve bytes of it as they stand in memory, gives
the instruction back, with every field at every value that the encoding admits. -/
def Obligations.DecodeOfEncode : Prop :=
  ∀ i : Instr, i.WellFormed → (instrForm i ≠ none ∨ ∃ w, i = .reservedOpcode w) →
    ∃ w, encode i = some w ∧ decodeWord w = .ok i ∧ decode (bytesOfWord w) = .ok i

/-- Where a word decodes to an instruction, that instruction is well formed and the word is its encoding: no two words decode to
one instruction. -/
def Obligations.EncodeOfDecode : Prop :=
  ∀ (w : BitVec 96) (i : Instr), decodeWord w = .ok i → i.WellFormed ∧ encode i = some w

/-- The words that the spec prints for `NOP` (R117), for `FMUL S11, S11, 0.0625` (R12), for `ST.CORE.REL [S6+0x10], V3` (R166), for
`MMA T4, T1, T2` (R197), for `PXFER.SPAD.MEM S10, S2, S9` (R230) and for `NSIG S20, S4, S6` (R390) decode to those instructions with
those operands. -/
def Obligations.SpecWordsDecode : Prop :=
  decodeWord 0x6007807FFFFFFFC000000000#96 =
      .ok (.nop (plain 15 .absent .absent .absent 0 0)) ∧
    decodeWord 0x22078040B817C0403D800000#96 =
      .ok (.fmul (plain 15 (.s 11) (.s 11) .immZ 0 0x3D800000)) ∧
    decodeWord 0xA1278000380DFFCA00000010#96 =
      .ok (.st { plain 15 (.v 3) (.s 6) .absent 0xA 0x10 with fn := 2 }) ∧
    decodeWord 0xC50780544A83508000000000#96 =
      .ok (.mma (plain 15 (.t 4) (.t 1) (.t 2) 0 0)) ∧
    decodeWord 0xD3178040A805024000000000#96 =
      .ok (.pxfer { plain 15 (.s 10) (.s 2) (.s 9) 0 0 with fn := 1 }) ∧
    decodeWord 0xE8078041480901800000000F#96 =
      .ok (.nsig (plain 15 (.s 20) (.s 4) (.s 6) 0 0xF))

/-- A word whose opcode lies in one of the ranges of R30 decodes to the row of the reserved opcode whatever its other fields, and
with an active lane it takes the trap `ILLOP` in all active lanes; so it does where no encoding is left to its fields. -/
def Obligations.ReservedOpcodesTrap : Prop :=
  ∀ (w : BitVec 96) (s : State) (t : Thread),
    (∃ r ∈ reservedRanges, r.1 ≤ opcodeOf w ∧ opcodeOf w ≤ r.2) → s.thread? s.cur = some t →
    activeLanes s.cur (s.lanes s.cur) t (guardFields w) ≠ 0 →
    decodeWord w = .ok (.reservedOpcode w) ∧
      exec (.reservedOpcode w) s =
        .next (takeTrap s s.cur w (Trap.all cILLOP 0 (activeLanes s.cur (s.lanes s.cur) t (guardFields w))))

/-! ### The issue of any word -/

/-- An instruction word of any row, whatever its fields, that has no active lane pops no port, accesses no memory, raises no flag
and traps not: the whole state is as before but for the pc of the issuing agent, past the word. `EXIT`, `SYSC` and `BKPT` first
write the outstanding results of the agent, which may change their guard; where one of these carries an uncorrectable error, the
three words trap `ECCU` whatever their guard. -/
def Obligations.IdleWordIsNoOp : Prop :=
  (∀ (i : Instr) (opc : Nat) (f : Fields) (s0 : State) (t : Thread), instrForm i = some (opc, f) → resultsGood opc s0 →
    let s := settledFor opc s0
    s.thread? s.cur = some t → activeLanes s.cur (s.lanes s.cur) t f = 0 →
    exec i s0 = .next (s.setThread s.cur t.advance)) ∧
  ∀ (i : Instr) (opc : Nat) (f : Fields) (s : State), instrForm i = some (opc, f) → ¬resultsGood opc s →
    exec i s = .next (takeTrap s s.cur (wordOf opc f) (Trap.all cECCU 0 0))

/-- A word of any row that has an active lane is checked in the order of R31: outside the profile of its stream, or with a field
that its entry refuses, or a wait barred below level 0 of views, it traps `ILLOP`; else, privileged and not allowed, `PROT`; else,
with an operand beyond the allocation, `REGRANGE`, whose detail is the code of the operand. The trap is taken from the state as it
stood, which for `EXIT`, `SYSC` and `BKPT` is that with the outstanding results of the agent written (R24). `SYSC`, `PHRS` and
`NSIG` check their runs in their bodies, once a lane calls. Whose code is reported where several operands reach beyond is the
model's choice (notes/assumptions/67.md). -/
def Obligations.ChecksInOrder : Prop :=
  ∀ (i : Instr) (opc : Nat) (f : Fields) (s0 : State) (t : Thread), instrForm i = some (opc, f) → resultsGood opc s0 →
    let s := settledFor opc s0
    s.thread? s.cur = some t → activeLanes s.cur (s.lanes s.cur) t f ≠ 0 →
    let act := activeLanes s.cur (s.lanes s.cur) t f
    let bad := inProfile opc (s.stream s.cur) = false ∨ legal opc f = false ∨ legalIn opc f (s.stream s.cur) = false ∨
      t.vdepth ≠ 0 ∧ barredBelow opc = true
    let past := beyond opc f t.nalloc (scalarsOf s.cur) (tilesOf s s.cur)
    (bad → exec i s0 = .next (takeTrap s s.cur (wordOf opc f) (Trap.all cILLOP 0 act))) ∧
      (¬bad → denied s s.cur t opc f = true → exec i s0 = .next (takeTrap s s.cur (wordOf opc f) (Trap.all cPROT 0 act))) ∧
      (¬bad → denied s s.cur t opc f = false → ∀ o, past = some o →
        exec i s0 = .next (takeTrap s s.cur (wordOf opc f) { Trap.all cREGRANGE 0 act with cdetail := (opdCode o).setWidth 64 }))

/-- For a word of any row that passes the checks of R31 and reads queue ports: where its block has no access program it traps
`QERR` with detail 9; where a port has fewer entries than the word reads, it traps `QERR` with detail 6 once the program has
ended, and else the agent parks at the word, nothing popped: that a word which reads several ports pops none of them while one is
short is the model's choice and no rule's (notes/assumptions/88.md). Where every port has the entries that the word reads of it, the
word runs, each operand in the order A, B, C takes the oldest entries that the operands before it have left, and the ports keep the
rest; so where it reads one entry of one port, it reads the oldest. -/
def Obligations.QueuePortReads : Prop :=
  ∀ (i : Instr) (opc : Nat) (f : Fields) (s0 : State) (t : Thread) (k : Block), instrForm i = some (opc, f) → resultsGood opc s0 →
    let s := settledFor opc s0
    s.thread? s.cur = some t → activeLanes s.cur (s.lanes s.cur) t f ≠ 0 →
    checkWord s s.cur t opc f (activeLanes s.cur (s.lanes s.cur) t f) = none → s.block? (s.blockNo s.cur) = some k →
    queueReads opc f ≠ [] →
    let act := activeLanes s.cur (s.lanes s.cur) t f
    (k.hasAp = false → exec i s0 = .next (takeTrap s s.cur (wordOf opc f) (Trap.all cQERR 9 act))) ∧
      (k.hasAp = true → ∀ p, takeEntries (queueReads opc f) [] k.ports = .empty p →
        exec i s0 =
          if k.apEnded then .next (takeTrap s s.cur (wordOf opc f) (Trap.all cQERR 6 act)) else .next (park s s.cur .queue p)) ∧
      (k.hasAp = true → ∀ n p x rest, queueReads opc f = [(n, p, 1)] → tget [] p k.ports = x :: rest →
        fabRelease opc f = false → badLanes t opc f (s.lanes s.cur) act = (0, 0) →
        ∃ e ports, Runs opc f s e ports ∧ ports = tput p rest k.ports ∧
          (n = 0 → e.qa = [x]) ∧ (n = 1 → e.qb = [x]) ∧ (n = 2 → e.qc = [x])) ∧
      (k.hasAp = true → fabRelease opc f = false → badLanes t opc f (s.lanes s.cur) act = (0, 0) →
        let rs := queueReads opc f
        let read (j : Nat) : Nat × Nat × Nat := rs.getD j (0, 0, 0)
        let taken (l : List (Nat × Nat × Nat)) (p : Nat) : Nat := ((l.filter fun r => r.2.1 = p).map fun r => r.2.2).foldl (· + ·) 0
        let earlier (j : Nat) : Nat := taken (rs.take j) (read j).2.1
        (∀ j, j < rs.length → earlier j + (read j).2.2 ≤ (tget [] (read j).2.1 k.ports).length) →
        ∃ e ports, Runs opc f s e ports ∧ (∀ p, tget [] p ports = (tget [] p k.ports).drop (taken rs p)) ∧
          ∀ j, j < rs.length →
            (match (read j).1 with
              | 0 => e.qa
              | 1 => e.qb
              | _ => e.qc) = ((tget [] (read j).2.1 k.ports).drop (earlier j)).take (read j).2.2)

/-! ### The step -/

/-- Where the next move is the issue of an agent that may issue, and the bytes fetched at its pc decode to an instruction, the step
is the execution of that instruction, with a phrase engine taken, the reuse latch and `YH` set as the word leaves them, and a
`YIELD` before it over, followed by what an issue leaves behind (the issue slot, the look-ahead windows, the latch, the energy, the
yields). For an agent that runs untranslated (notes/assumptions/7.md), the bytes fetched are those of memory at its pc, as it stands
when the word issues (notes/assumptions/6.md), and the fetch changes no register, no memory and no block: only caches and the core's
clock. The choice of the next move is the model's own (notes/assumptions/1.md). -/
def Obligations.StepRunsDecodedWord : Prop :=
  ∀ (s s1 : State) (a : Agent) (r : List Move) (t : Thread) (bs : List Byte) (i : Instr) (w : BitVec 96),
    s.agenda = .issue a :: r → canIssue s a = true → s.thread? a = some t → t.lateDue = false →
    (t.replay.bind fun x => if x.armed then some x.word else none) = none →
    let s0 := { s with agenda := r, cur := a }
    let begun (u : Thread) : Thread :=
      { u with latch := latchOf a (s1.lanes a) u w, yh := asideOf a (s1.lanes a) u w, yielding := false }
    let s2 := (takeEngine s1 a).modThread a begun
    (fetchBytes s0 a t.pc.toNat 3 = .ok (bs, s1) → wordOfBytes bs = some w → decode bs = .ok i →
      step s = onNext (exec i s2) fun s' => tidy (afterIssue s2 a w s') (some a)) ∧
    (∀ b, s2.thread? b = (s1.thread? b).map fun u => if b = a then begun u else u) ∧
    s2.mem = s1.mem ∧ s2.blocks = s1.blocks ∧ s2.dies = s1.dies ∧ s2.sys = s1.sys ∧
    (physicalOf s a = true → t.pc.toNat % 4 = 0 → t.pc.toNat + 12 ≤ 2 ^ 57 →
      (∀ k ∈ [0, 4, 8], physExists (t.pc.toNat + k) = true ∧ s.poisoned (t.pc.toNat + k) = false) →
      ∃ u, fetchBytes s0 a t.pc.toNat 3 = .ok (readBytes s.homeByte t.pc.toNat 12, u) ∧ u.threads = s.threads ∧ u.mem = s.mem ∧
        u.blocks = s.blocks)

/-- Whatever moves next, an instruction of any row, an event or a movement of cached data, a step from a state whose memory is in
canonical form (addresses strictly rising, no zero byte listed) leaves it in canonical form, so equal memories are equal data. -/
def Obligations.StepKeepsMemoryCanonical : Prop :=
  ∀ s s' : State, s.memWf → step s = .next s' → s'.memWf

/-- At reset the memory is canonical, no block is placed, boot has not run and cores do not run; `PROGWIN` of every core is 65536;
`PACFG`, `PASTAT`, `VIEWCFG`, the clock and the routed core of every die, the registers of every queue and `FABCFG`, `PEERTAB` and
`FABSTAT` have the values that the spec gives. -/
def Obligations.ResetState : Prop :=
  State.reset.memWf ∧ State.reset.blocks = [] ∧ State.reset.threads = [] ∧ State.reset.sys.booted = false ∧
    State.reset.sys.running = false ∧
    (∀ c, (State.reset.core c).progwin = 65536) ∧
    (∀ d, let x := State.reset.die d
      x.clk = 0 ∧ x.introute.toNat % 32 = 0 ∧ x.count = 0x100000 ∧ x.level = 0 ∧ x.heldcyc = 0 ∧ x.slewEvents = 0 ∧
        dbits x.pacfg 0 12 = 256 ∧ dbits x.pacfg 12 12 = 64 ∧ dbits x.pacfg 24 24 = 0x100000 ∧ dbits x.pacfg 48 16 = 12000 ∧
        [8, 24, 40].map (fun n => dbits x.viewcfg n 8) = [16, 16, 16] ∧
        [16, 32, 48].map (fun n => dbits x.viewcfg n 8) = [4, 4, 4]) ∧
    (∀ q, let x := State.reset.queue q
      x.qstate = 5 ∧ x.ecode = 0 ∧ x.hcode = 0 ∧ x.outst = 0 ∧ x.ridx = 0 ∧ x.qcfg = 4 ∧ x.qcache = 0) ∧
    dbits State.reset.sys.fabcfg 48 16 = 0xFFFF ∧ dbits State.reset.sys.fabcfg 32 16 = 0x88B5 ∧
    dbits State.reset.sys.fabcfg 0 5 = 16 ∧ State.reset.sys.retx = 0 ∧ State.reset.sys.flowfail = 0 ∧ State.reset.sys.flows = [] ∧
    State.reset.sys.peertab = 0

/-! ### Taking an exception, and returning from one -/

namespace Sys2Proof.Machine

/-- The registers that trap entry does not write are those of the group with its outstanding results written: the program's
registers, the codebooks, the lane masks `LIVE` and `HELP`, and the scratch registers `XS4` to `XS7` and `XV2` to `XV7` (R76). -/
def programKept (t u : Thread) : Prop :=
  u.v = t.v ∧ u.s = t.s ∧ u.p = t.p ∧ u.k = t.k ∧ u.live = t.live ∧ u.help = t.help ∧ u.origid = t.origid ∧
    u.nalloc = t.nalloc ∧ (∀ n, 4 ≤ n → u.getS (xsBase + n) = t.getS (xsBase + n)) ∧
    (∀ n l, 2 ≤ n → l < 64 → u.getV (xvBase + n) l = t.getV (xvBase + n) l)

/-- What `XS0` to `XS3`, `XV0`, `XV1`, `SUP`, the masks and the pc hold after entry to a handler of trap `i` at `base` (R74). -/
def entered (t u : Thread) (n : Nat) (i : Trap) (base : Dword) : Prop :=
  u.getS xsBase = BitVec.ofNat 64 i.cause ||| (i.detail.setWidth 64 <<< 32) ∧
    u.getS (xsBase + 1) = (if i.cause = cTRAPI then t.pc + 12 else t.pc) ∧
    u.getS (xsBase + 2) = (if n = 64 then t.exm else (i.lanes <<< 32) ||| (t.exm &&& 0xFFFFFFFF#64)) ∧
    u.getS (xsBase + 3) = i.cdetail ∧
    (∀ l, l < n → u.getV (xvBase + 1) l ++ u.getV xvBase l = tget 0 l i.addrs) ∧
    u.sup = true ∧ u.exm = i.lanes &&& t.live ∧ u.pc = base ∧ u.latch = none

/-- `AGENT` of an agent's fault record (R323). -/
def agentCode (s : State) : Agent → BitVec 8
  | .group b g => if s.coreNo (.group b g) = firmwareCore then 4 else 0
  | .mstream _ => 1
  | .phrase _ _ => 2

/-- The agent with registers `t` is parked on trap `i` at the pc `pc`, in `s'`: its record holds the trap, its registers are kept
with its outstanding results written, and it waits for the resident kernel (`SYSCALL`, `BKPT`), with nothing else changed; or it
waits on the fault, whose record, with the word `w`, is posted to the fault buffer of its die (R72, R77, R192, R209, R323). -/
def parksWith (s : State) (a : Agent) (w : BitVec 96) (i : Trap) (t : Thread) (pc : Dword) (s' : State) : Prop :=
  let kern := i.cause = cSYSCALL ∨ i.cause = cBKPT
  ∃ u, programKept t.drain u ∧ u.gst = t.drain.gst ∧ u.exm = t.exm ∧ u.msup = t.msup ∧ u.pc = pc ∧
    u.cause = BitVec.ofNat 8 i.cause ∧ u.detail = i.detail ∧ u.tlanes = i.lanes ∧ u.cdetail = i.cdetail ∧ u.gstate ≠ .active ∧
    u.latch = none ∧ u.wait = (if kern then .kern else .fault) ∧
    (kern → s' = s.setThread a u) ∧
    (¬kern → ∃ r, s' = postFault (s.setThread a u) (s.dieNo a) r ∧ r.cause = BitVec.ofNat 8 i.cause ∧ r.agent = agentCode s a ∧
      r.detail = i.detail ∧ r.cdetail = i.cdetail ∧ r.pc = pc ∧ r.word = w ∧ r.asid = s.asidOf a ∧ r.core = s.coreNo a ∧
      (∀ b g, a = .group b g → t.sup = true → r.xs = (List.range 4).map fun n => t.drain.getS (xsBase + n)) ∧
      ((∀ b g, a ≠ .group b g) → r.addr = tget 0 0 i.addrs))

/-- The state after the lanes `ex` of a group left it: out of `LIVE` and `HELP`, the mask `m`, the pc and the latch released; the
clauses of the lanes released and poisoned; and the group ended where no lane is live (R63, R121, R261). -/
def afterExit (s : State) (b g : Nat) (t : Thread) (ex m : Mask) (pc : Dword) : State :=
  let u := { t with live := t.live &&& ~~~ex, help := t.help &&& ~~~ex, exm := m, pc := pc, latch := none }
  let s := exitClauses (s.setThread (.group b g) u) b g ((lanesOf 64 ex).map fun l => tget 0 l t.origid)
  if u.live = 0 then endGroup s b g else s

end Sys2Proof.Machine

/-- A trap of a group is taken in the group's own lanes in two cases. On a compute core, or on the firmware core, where the process
has a vector base, routes the cause, and the cause is neither `SYSCALL` nor `BKPT` and the group runs no handler, it enters at the
base + 256 times the cause. On a system core every trap enters at `KVEC` + 256 times the cause, and in a handler at `KVEC` +
0x4000. Entry saves the cause with its detail code, the pc (of the next word for `TRAPI`), the trapping lanes with `EXM`, the cause
detail and the lanes' data addresses, sets `SUP`, leaves the trapping live lanes active, and keeps every other register and every
other bit of `GST`. Nothing but the group's registers changes. Where the handler's address is no multiple of 4 the group parks at
the word with the trap `MISALIGN` instead (notes/assumptions/68.md). -/
def Obligations.TrapEntersGroupHandler : Prop :=
  ∀ (s : State) (b g : Nat) (w : BitVec 96) (i : Trap) (t : Thread),
    let a := Agent.group b g
    let own := s.coreNo a < systemCore0 ∨ s.coreNo a = firmwareCore
    let tvb := s.ctxTvb (s.asidOf a) + BitVec.ofNat 64 (256 * i.cause)
    let kvec := if t.drain.sup then s.sys.kvec + 0x4000 else s.sys.kvec + BitVec.ofNat 64 (256 * i.cause)
    let enters (base : Dword) : Prop :=
      (base.toNat % 4 = 0 →
        ∃ u, takeTrap s a w i = s.setThread a u ∧ entered t u (s.lanes a) i base ∧ programKept t.drain u ∧
          u.gst = t.drain.gst ||| 0x80000000) ∧
        (base.toNat % 4 ≠ 0 →
          parksWith s a w { Trap.all cMISALIGN 0 i.lanes with cdetail := 3 } t t.pc (takeTrap s a w i))
    s.thread? a = some t → t.late? = none →
    (own → s.ctxTvb (s.asidOf a) ≠ 0 → (s.ctxTrm (s.asidOf a)).getLsbD i.cause = true → i.cause ≤ 0x15 → i.cause ≠ cSYSCALL →
      i.cause ≠ cBKPT → t.drain.sup = false → enters tvb) ∧
    (¬own → enters kvec)

/-- A trap of a group of a compute or firmware core that is not routed to the process, because the process has no vector base or
does not route the cause, because the cause is `SYSCALL` or `BKPT`, or because the group runs a handler, and every trap of a phrase
context, parks the agent at the trapped word (a group for `TRAPI` at the next), with the cause, the detail code, the lanes and the
cause detail in its record; its registers are kept. `SYSCALL` and `BKPT` wait for the resident kernel and change nothing else (a
`BKPT` in a handler too: notes/assumptions/81.md); every other cause waits on the fault and posts a record, with the cause, the word
and the pc, to the fault buffer of its die, which for a group in a handler carries `XS0` to `XS3` as they stood. -/
def Obligations.TrapParksAgent : Prop :=
  ∀ (s : State) (a : Agent) (w : BitVec 96) (i : Trap) (t : Thread),
    s.thread? a = some t → t.late? = none →
    (∀ b g, a = .group b g → s.coreNo a < systemCore0 ∨ s.coreNo a = firmwareCore →
      s.ctxTvb (s.asidOf a) = 0 ∨ (s.ctxTrm (s.asidOf a)).getLsbD i.cause = false ∨ i.cause = cSYSCALL ∨ i.cause = cBKPT ∨
        t.sup = true →
      parksWith s a w i t (if i.cause = cTRAPI then t.pc + 12 else t.pc) (takeTrap s a w i)) ∧
    (∀ c x, a = .phrase c x → parksWith s a w i t t.pc (takeTrap s a w i))

/-- A trap of a matrix stream whose process has a vector base and routes the cause, which is not `BKPT`, enters a handler in the
stream while it runs none: `S60` holds the cause and its detail code, `S61` the pc (of the next word for `TRAPI`), `S62` the detail
of a tile, rank, slot or block cause, else 0, `MSUP` is set and the pc is the base + 0x2000 + 256 times the cause; nothing else
changes. Else the stream parks at the word, for the kernel on `BKPT`, and on every other cause with a record of the stream posted to
the fault buffer of its die; so it does, with `MISALIGN`, where the handler's address is no multiple of 4 (notes/assumptions/68.md).
`ERET` in a handler returns to `S61` and clears `MSUP`; an `S61` that is no multiple of 4 traps `MISALIGN`. -/
def Obligations.StreamTrapsAndReturns : Prop :=
  (∀ (s : State) (b : Nat) (w : BitVec 96) (i : Trap) (t : Thread),
    let a := Agent.mstream b
    let base := s.ctxTvb (s.asidOf a) + 0x2000 + BitVec.ofNat 64 (256 * i.cause)
    let routed := s.ctxTvb (s.asidOf a) ≠ 0 ∧ (s.ctxTrm (s.asidOf a)).getLsbD i.cause = true ∧ i.cause ≤ 0x15 ∧ i.cause ≠ cBKPT ∧
      t.msup = false
    let tileCause := i.cause = cTILESTATE ∨ i.cause = cRANKOVF ∨ i.cause = cSLOTFULL ∨ i.cause = cBLKFMT
    s.thread? a = some t → t.late? = none →
    (routed → base.toNat % 4 = 0 → t.outstanding = [] → t.replay = none → t.gstate = .active → t.wait = .none → t.warg = 0 →
      t.latch = none → t.yh = false →
      takeTrap s a w i =
        s.setThread a
          { ((t.setS 60 (BitVec.ofNat 64 i.cause ||| (i.detail.setWidth 64 <<< 32))).setS 61
              (if i.cause = cTRAPI then t.pc + 12 else t.pc)).setS 62 (if tileCause then i.cdetail else 0) with
            msup := true, pc := base }) ∧
      (routed → base.toNat % 4 ≠ 0 →
        parksWith s a w { Trap.all cMISALIGN 0 i.lanes with cdetail := 3 } t t.pc (takeTrap s a w i)) ∧
      (¬routed → parksWith s a w i t t.pc (takeTrap s a w i))) ∧
  ∀ (f : Fields) (s : State) (e : Env) (ports : Tab (List (List Word))) (b : Nat),
    Runs 0x77 f s e ports → e.a = .mstream b →
    ((e.t.getS 61).toNat % 4 = 0 →
      exec (.eret f) s = .next (regsAfter s e ports { e.t with pc := e.t.getS 61, msup := false })) ∧
    ((e.t.getS 61).toNat % 4 ≠ 0 → NoLate e →
      exec (.eret f) s = .next (takeTrap s e.a (wordOf 0x77 f) { Trap.all cMISALIGN 0 e.act with cdetail := 3 }))

/-- In a handler of a group, `ERET` sets the pc to `XS1`, `EXM` to `XS2` AND `LIVE` (bits [31:0] but on the firmware core) and
`SUP` to 0, keeps a replay entry only if it is for that pc, which then issues next, and changes nothing else. A mask of 0 traps
`ILLOP`, and else an `XS1` that is no multiple of 4 traps `MISALIGN`, at the `ERET`, with cause detail 3 (notes/assumptions/27.md). -/
def Obligations.EretReturns : Prop :=
  ∀ (f : Fields) (s : State) (e : Env) (ports : Tab (List (List Word))) (b g : Nat),
    Runs 0x77 f s e ports → e.a = .group b g →
    let m := e.t.getS (xsBase + 2) &&& fullMask e.n &&& e.t.live
    let pc := e.t.getS (xsBase + 1)
    (m ≠ 0 → pc.toNat % 4 = 0 →
      ∃ u, exec (.eret f) s = .next (regsAfter s e ports u) ∧ u.pc = pc ∧
        u.exm = (if e.n = 64 then e.t.getS (xsBase + 2) else e.t.getS (xsBase + 2) &&& 0xFFFFFFFF) &&& e.t.live ∧ u.sup = false ∧
        u.gst &&& 0x7FFFFFFF = e.t.gst &&& 0x7FFFFFFF ∧ u.latch = none ∧ (∀ r, u.replay = some r → r.pc = pc ∧ r.armed = true) ∧
        { u with pc := e.t.pc, exm := e.t.exm, gst := e.t.gst, replay := e.t.replay, latch := e.t.latch } = e.t) ∧
    (m = 0 → NoLate e → exec (.eret f) s = .next (takeTrap s e.a (wordOf 0x77 f) (Trap.all cILLOP 0 e.act))) ∧
    (m ≠ 0 → pc.toNat % 4 ≠ 0 → NoLate e →
      exec (.eret f) s = .next (takeTrap s e.a (wordOf 0x77 f) { Trap.all cMISALIGN 0 e.act with cdetail := 3 }))

/-- `TRAP n` takes the trap `TRAPI` and `BKPT n` the trap `BKPT` with detail code n, in any stream. `SYSC` in a handler traps
`PROT`; where no active lane that is not a helper has the predicate of `FN` set it has no effect; else, where the eight registers of
its arguments or the two of its result reach beyond the allocation, it traps `REGRANGE` with the code of the first such operand, and
else takes the trap `SYSCALL` with detail code n, once the stores of the core are released to package scope (which operand is
reported: notes/assumptions/67.md). `BKPT` and `SYSC` issue in the state `s` with the outstanding results of their agent written,
so that their guard, the predicate of `FN` and `GST` are read after them (R24). -/
def Obligations.TrapWordsRaiseTheirCauses : Prop :=
  ∀ (f : Fields) (s : State) (e : Env) (ports : Tab (List (List Word))),
    let n := BitVec.ofNat 32 (f.x.toNat % 65536)
    (Runs 0x74 f s e ports → NoLate e →
      exec (.trap f) s = .next (takeTrap s e.a (wordOf 0x74 f) (Trap.all cTRAPI n e.act))) ∧
    (∀ s0, resultsGood 0x76 s0 → s = settledFor 0x76 s0 → Runs 0x76 f s e ports →
      exec (.bkpt f) s0 = .next (takeTrap s e.a (wordOf 0x76 f) (Trap.all cBKPT n e.act))) ∧
    (∀ s0, resultsGood 0x75 s0 → s = settledFor 0x75 s0 → Runs 0x75 f s e ports →
      let calling := e.act &&& e.t.getP f.fn.toNat &&& ~~~e.t.help
      let fits (o : Opd) (k : Nat) : Prop := o.num + k ≤ e.t.nalloc
      let past (o : Opd) := { Trap.all cREGRANGE 0 e.act with cdetail := (opdCode o).setWidth 64 }
      (e.t.sup = true → exec (.sysc f) s0 = .next (takeTrap s e.a (wordOf 0x75 f) (Trap.all cPROT 0 e.act))) ∧
      (e.t.sup = false → calling = 0 → exec (.sysc f) s0 = .next (regsAfter s e ports e.t.advance)) ∧
      (e.t.sup = false → calling ≠ 0 →
        (¬fits f.a 8 → exec (.sysc f) s0 = .next (takeTrap s e.a (wordOf 0x75 f) (past f.a))) ∧
        (fits f.a 8 → ¬fits f.d 2 → exec (.sysc f) s0 = .next (takeTrap s e.a (wordOf 0x75 f) (past f.d))) ∧
        (fits f.a 8 → fits f.d 2 →
          exec (.sysc f) s0 =
            .next (takeTrap (s.release (s.coreNo e.a) .pkg) e.a (wordOf 0x75 f) (Trap.all cSYSCALL n e.act)))))

/-- A fault posted to a die's buffer that holds fewer than 4096 records, none being held, becomes its newest record, and raises the
fault interrupt where the buffer was empty. Else it is held behind those held before, `OVF` is set, and the overflow interrupt is
raised where `OVF` was clear. No other fault is lost or moved, and no other die changes. A write of 0 to bit 63 of `FBSTAT` clears
`OVF`, a write of 1 to a bit of `INTPEND` clears it, `INTROUTE` keeps its core number alone (notes/assumptions/20.md), `ERRCNT`
takes the value, `FTRING` a value whose ring size is legal, with its reserved bits 0; a write at an offset that names no word
changes nothing (notes/assumptions/62.md), as does one to a die above 16. -/
def Obligations.FaultBufferHoldsWhenFull : Prop :=
  ∀ (s : State) (d : Nat) (r : FaultRec),
    let x := s.die d
    let y := (postFault s d r).die d
    (x.fbuf.length ≠ 4096 → x.held = [] →
      y.fbuf = x.fbuf ++ [r] ∧ y.held = [] ∧ y.fbovf = x.fbovf ∧ (x.fbuf = [] → y.intpend.getLsbD 1 = true)) ∧
    (x.fbuf.length = 4096 ∨ x.held ≠ [] →
      y.fbuf = x.fbuf ∧ y.held = x.held ++ [r] ∧ y.fbovf = true ∧ (x.fbovf = false → y.intpend.getLsbD 2 = true)) ∧
    (∀ e, e ≠ d → (postFault s d r).die e = s.die e) ∧ (postFault s d r).mem = s.mem ∧
    (postFault s d r).threads = s.threads ∧
    ∀ v : Dword,
      (16 < d → exec (.intpendWrite d v) s = .next s ∧ exec (.fbstatWrite d v) s = .next s ∧ exec (.ftringWrite d v) s = .next s ∧
        ∀ o, exec (.registerWrite d o v) s = .next s) ∧
      (d ≤ 16 →
        exec (.intpendWrite d v) s = .next (s.setDie d { x with intpend := x.intpend &&& ~~~v }) ∧
        exec (.fbstatWrite d v) s = .next (s.setDie d { x with fbovf := x.fbovf && v.getLsbD 63 }) ∧
        (v.toNat % 16 ≤ 10 → exec (.ftringWrite d v) s = .next (s.setDie d { x with ftring := v &&& 0x000FFFFFFFFFF00F#64 })) ∧
        (10 < v.toNat % 16 → exec (.ftringWrite d v) s = .next s) ∧
        exec (.registerWrite d 0x00 v) s = exec (.fbstatWrite d v) s ∧
        exec (.registerWrite d 0x10 v) s = exec (.ftringWrite d v) s ∧
        exec (.registerWrite d 0x20 v) s = exec (.viewcfgWrite d v) s ∧
        exec (.registerWrite d 0x40 v) s = exec (.pacfgWrite d v) s ∧
        exec (.registerWrite d 0x58 v) s = exec (.intpendWrite d v) s ∧
        exec (.registerWrite d 0x60 v) s = .next (s.setDie d { x with introute := v &&& 0x1F#64 }) ∧
        exec (.registerWrite d 0x08 v) s = .next (s.setDie d { x with errcnt := v }) ∧
        ∀ o, devRead s d o = none → exec (.registerWrite d o v) s = .next s)

/-! ### The execution mask, predicates and control -/

/-- `SPLIT` saves `EXM` and keeps the lanes with the predicate, or where there is none jumps with `EXM` as it was. `FLIP` makes the
mask the saved lanes that were not active and are live, or where there is none the live saved lanes, with a jump, and where these
are none traps `ILLOP`. `MERGE` makes the mask the live saved lanes, or traps `ILLOP` where there are none. A jump to a target that
is no multiple of 4 traps `MISALIGN` and changes nothing; that its cause detail is 3 is the model's reading and no rule's
(notes/assumptions/27.md). With any guard but `?P15`, each traps `ILLOP` under an active lane. Nothing else changes. -/
def Obligations.MaskWordsSetMasks : Prop :=
  ∀ (f : Fields) (s : State) (e : Env) (ports : Tab (List (List Word))),
    let dest := e.t.pc + 12 + f.x.signExtend 64
    let mis (opc : Nat) := Host.Outcome.next (takeTrap s e.a (wordOf opc f) { Trap.all cMISALIGN 0 e.act with cdetail := 3 })
    let ill (opc : Nat) := Host.Outcome.next (takeTrap s e.a (wordOf opc f) (Trap.all cILLOP 0 e.act))
    (Runs 0x68 f s e ports →
      let m := e.t.exm &&& e.t.getP f.a.num
      let u := e.t.setS (sIdx f.d) e.t.exm
      (m ≠ 0 → exec (.split f) s = .next (regsAfter s e ports ({ u with exm := m } : Thread).advance)) ∧
      (m = 0 → dest.toNat % 4 = 0 → exec (.split f) s = .next (regsAfter s e ports { u with pc := dest, latch := none })) ∧
      (m = 0 → dest.toNat % 4 ≠ 0 → NoLate e → exec (.split f) s = mis 0x68)) ∧
    (Runs 0x69 f s e ports →
      let v := e.t.getS (sIdx f.a) &&& fullMask e.n
      let m := v &&& ~~~e.t.exm &&& e.t.live
      (m ≠ 0 → exec (.flip f) s = .next (regsAfter s e ports ({ e.t with exm := m } : Thread).advance)) ∧
      (m = 0 → v &&& e.t.live = 0 → NoLate e → exec (.flip f) s = ill 0x69) ∧
      (m = 0 → v &&& e.t.live ≠ 0 → dest.toNat % 4 = 0 →
        exec (.flip f) s = .next (regsAfter s e ports { e.t with exm := v &&& e.t.live, pc := dest, latch := none })) ∧
      (m = 0 → v &&& e.t.live ≠ 0 → dest.toNat % 4 ≠ 0 → NoLate e → exec (.flip f) s = mis 0x69)) ∧
    (Runs 0x6A f s e ports →
      let m := e.t.getS (sIdx f.a) &&& fullMask e.n &&& e.t.live
      (m ≠ 0 → exec (.merge f) s = .next (regsAfter s e ports ({ e.t with exm := m } : Thread).advance)) ∧
      (m = 0 → NoLate e → exec (.merge f) s = ill 0x6A)) ∧
    (∀ t i opc, (i, opc) ∈ [(Instr.split f, 0x68), (.flip f, 0x69), (.merge f, 0x6A)] → s.thread? s.cur = some t →
      f.gn = true ∨ f.gp ≠ 15 → activeLanes s.cur (s.lanes s.cur) t f ≠ 0 →
      exec i s = .next (takeTrap s s.cur (wordOf opc f) (Trap.all cILLOP 0 (activeLanes s.cur (s.lanes s.cur) t f))))

/-- From a state in which every group has `HELP` and `EXM` within `LIVE`, a `SPLIT`, `FLIP`, `MERGE`, `SETSR`, `ERET` or `EXIT`, in
whatever way it ends, leaves every group so; and where besides no group with a live lane has `EXM` 0, no group has after it, provided
that the lanes of a replay that the issuing agent is at are live (R163), no uncorrectable load result is due, and at an `EXIT` no
group waits at `CLENT`, which the exit could trap. Trap entry keeps the
latter, whatever the trap, where some trapping lane is live. -/
def Obligations.MaskWritersKeepMasks : Prop :=
  (∀ (f : Fields) (s s' : State) (i : Instr),
    i ∈ [.split f, .flip f, .merge f, .setsr f, .eret f, .exit f] → s.masksKept → exec i s = .next s' →
    s'.masksKept ∧
      (s.lanesKept → (i = .exit f → ∀ x ∈ s.threads, x.2.clause = none) →
        (∀ t, s.thread? s.cur = some t → t.late? = none ∧ ∀ r, t.replay = some r → r.armed = true → r.lanes &&& ~~~t.live = 0) →
        s'.lanesKept)) ∧
  ∀ (s : State) (a : Agent) (w : BitVec 96) (i : Trap),
    s.lanesKept → (∀ t, s.thread? a = some t → t.late? = none ∧ i.lanes &&& t.live ≠ 0) → (takeTrap s a w i).lanesKept

/-- `EXIT` issues in the state `s` with the outstanding results of its agent written, so that its guard and `Sa` are read after them
(R24). Outside a handler it takes a group's active lanes from `LIVE` and `HELP`. Where
lanes stay active it goes on with them at the next word; where only inactive lanes stay, it needs a saved mask, which gives the new
mask, and jumps, and without one, or with none of those lanes in it, traps `ILLOP`; where no lane stays the group ends. What the
exiting lanes held of clauses is released and poisoned (R261). In a matrix stream outside a handler `EXIT` ends the stream, and in
a phrase context the program, with the status bits 0. A jump to a target that is no multiple of 4 traps `MISALIGN` with cause detail
3 (notes/assumptions/27.md). -/
def Obligations.ExitLeavesLanes : Prop :=
  ∀ (f : Fields) (s0 s : State) (e : Env) (ports : Tab (List (List Word))),
    resultsGood 0x67 s0 → s = settledFor 0x67 s0 → Runs 0x67 f s e ports →
    (∀ b g, e.a = .group b g → e.t.sup = true →
      exec (.exit f) s0 = .next (takeTrap s e.a (wordOf 0x67 f) (Trap.all cPROT 0 e.act))) ∧
    (∀ b g, e.a = .group b g → e.t.sup = false →
      let rest := e.t.live &&& ~~~e.act
      let stay := e.t.exm &&& ~~~e.act
      let m := e.va 64 e.low &&& rest
      let dest := e.t.pc + 12 + f.x.signExtend 64
      (rest = 0 ∨ stay ≠ 0 →
        exec (.exit f) s0 = .next (wordStays (afterExit s b g e.t e.act stay (e.t.pc + 12)) e ports)) ∧
      (rest ≠ 0 → stay = 0 → f.fn.getLsbD 0 = true → m ≠ 0 → dest.toNat % 4 = 0 →
        exec (.exit f) s0 = .next (wordStays (afterExit s b g e.t e.act m dest) e ports)) ∧
      (rest ≠ 0 → stay = 0 → f.fn.getLsbD 0 = true → m ≠ 0 → dest.toNat % 4 ≠ 0 →
        exec (.exit f) s0 = .next (takeTrap s e.a (wordOf 0x67 f) { Trap.all cMISALIGN 0 e.act with cdetail := 3 })) ∧
      (rest ≠ 0 → stay = 0 → f.fn.getLsbD 0 = false ∨ m = 0 →
        exec (.exit f) s0 = .next (takeTrap s e.a (wordOf 0x67 f) (Trap.all cILLOP 0 e.act)))) ∧
    (∀ b, e.a = .mstream b → e.t.msup = false → exec (.exit f) s0 = .next (wordStays (endStream s b) e ports)) ∧
    (∀ c x, e.a = .phrase c x → busySlots s e.a = 0 → exec (.exit f) s0 = .next (wordStays (endProgram s e.a 0) e ports))

/-- A taken branch sets the pc to its target, releases the latch, writes the link register of `CALL` or the counter of `LOOP`, and
changes nothing else; a target that is no multiple of 4 traps `MISALIGN` at the branch instead, with cause detail 3
(notes/assumptions/27.md). `BRZ` is taken when no active lane
has the (inverted) predicate, or when the scalar is 0; `LOOP` when its counter less one is not 0, and else it goes on with the
counter written. `NOP` only goes on. -/
def Obligations.BranchWordsMoveThePc : Prop :=
  ∀ (f : Fields) (s : State) (e : Env) (ports : Tab (List (List Word))),
    let next := e.t.pc + 12
    let target := next + f.x.signExtend 64
    let reg := e.t.getS (sIdx f.a)
    let lands (opc : Nat) (i : Instr) (dest : Dword) (u : Thread) : Prop :=
      (dest.toNat % 4 = 0 → exec i s = .next (regsAfter s e ports { u with pc := dest, latch := none })) ∧
        (dest.toNat % 4 ≠ 0 → NoLate e →
          exec i s = .next (takeTrap s e.a (wordOf opc f) { Trap.all cMISALIGN 0 e.act with cdetail := 3 }))
    (Runs 0x60 f s e ports → exec (.nop f) s = .next (regsAfter s e ports e.t.advance)) ∧
    (Runs 0x61 f s e ports → lands 0x61 (.bra f) target e.t) ∧
    (Runs 0x62 f s e ports → lands 0x62 (.brx f) (reg + f.x.signExtend 64) e.t) ∧
    (Runs 0x63 f s e ports →
      let empty := (∃ n, f.a = .p n ∧ ∀ l, e.act.getLsbD l = true → (e.t.getP n.toNat).getLsbD l = f.fn.getLsbD 0) ∨ f.a.isS = true ∧ reg = 0
      (empty → lands 0x63 (.brz f) target e.t) ∧
      (¬empty → exec (.brz f) s = .next (regsAfter s e ports e.t.advance))) ∧
    (Runs 0x64 f s e ports →
      lands 0x64 (.call f) (if f.fn.getLsbD 0 then reg + f.x.signExtend 64 else target) (e.t.setS (sIdx f.d) next)) ∧
    (Runs 0x65 f s e ports → lands 0x65 (.ret f) reg e.t) ∧
    (Runs 0x66 f s e ports →
      let c := e.t.getS (sIdx f.d) - 1
      (c ≠ 0 → lands 0x66 (.loop f) target (e.t.setS (sIdx f.d) c)) ∧
      (c = 0 → exec (.loop f) s = .next (regsAfter s e ports (e.t.setS (sIdx f.d) 0).advance)))

/-- `PAND`, `POR` and `PXOR` write, in each active lane, the combination of their sources, each inverted where `FN` says so; `PSET`
writes bit l of its operand; a destination `P15` keeps reading as ones. `PMOV` writes the mask of the live lanes that have the
predicate, active or not. Nothing else changes. -/
def Obligations.PredicateWords : Prop :=
  ∀ (f : Fields) (s : State) (e : Env) (ports : Tab (List (List Word))),
    let pa (l : Nat) : Bool := (e.t.getP f.a.num).getLsbD l ^^ f.fn.getLsbD 0
    let pb (l : Nat) : Bool := (e.t.getP f.b.num).getLsbD l ^^ f.fn.getLsbD 1
    let writes (i : Instr) (g : Nat → Bool) : Prop :=
      ∃ m : Mask, exec i s = .next (regsAfter s e ports (e.t.setP f.d.num e.act m).advance) ∧
        (∀ l ∈ e.lanes, m.getLsbD l = g l) ∧
        ∀ l, l < 64 → ((e.t.setP f.d.num e.act m).getP f.d.num).getLsbD l =
          if f.d.num = 15 then true else if e.act.getLsbD l then m.getLsbD l else (e.t.getP f.d.num).getLsbD l
    (Runs 0x6B f s e ports → writes (.pand f) fun l => pa l && pb l) ∧
    (Runs 0x6C f s e ports → writes (.por f) fun l => pa l || pb l) ∧
    (Runs 0x6D f s e ports → writes (.pxor f) fun l => pa l ^^ pb l) ∧
    (Runs 0x6E f s e ports → writes (.pset f) fun l => (e.va 64 e.low).getLsbD l) ∧
    (Runs 0x6F f s e ports →
      exec (.pmov f) s =
        .next (regsAfter s e ports (e.t.setS (sIdx f.d) (e.t.getP f.a.num &&& e.t.live &&& fullMask e.n)).advance))

/-- In every state of a group's registers `P15` reads 1 in every lane, live or not, and a write to it leaves the registers as they
were. A compare that names it, as any word that writes a predicate there, completes with no trap and no flag of its own and changes
no register. -/
def Obligations.PredicateFifteenIsHardWired : Prop :=
  (∀ (t : Thread) (l : Nat), l < 64 → (t.getP 15).getLsbD l = true) ∧
    (∀ (t : Thread) (lanes v : Mask), t.setP 15 lanes v = t) ∧
    (∀ (f : Fields) (s : State) (e : Env) (ports : Tab (List (List Word))),
      Runs 0x1A f s e ports → f.d = .p 15 → exec (.icmp f) s = .next (regsAfter s e ports e.t.advance)) ∧
    (∀ (f : Fields) (s : State) (e : Env) (ports : Tab (List (List Word))),
      Runs 0x6E f s e ports → f.d = .p 15 → exec (.pset f) s = .next (regsAfter s e ports e.t.advance))

/-- `YIELD` goes on to the next word, which waits for the groups of the slice that were ready and stands aside (that it gives its place
to a waiting group once is the model's reading: notes/assumptions/69.md). `SLEEP` of a count goes on to the
next word, parked for the count clamped to 1,048,576; a count of 0 has no effect. Neither changes a register, a flag or memory.
`GETSR` writes the value of the special register in each active lane, or once into a scalar register. `SETSR` writes `TOL`, `VC`
(above 32 as 32), the fields of `TCTL`, `EXM` (AND `LIVE`, and a result of 0 traps `ILLOP`), the flags and enables of `GST` with `SUP`
kept, the `ASID` of the block, and `PROGWIN` of the core. Nothing else changes. -/
def Obligations.WaitAndSpecialRegisterWords : Prop :=
  ∀ (f : Fields) (s : State) (e : Env) (ports : Tab (List (List Word))),
    (Runs 0x70 f s e ports →
      exec (.yield f) s = .next (regsAfter s e ports ({ e.t with yieldTo := readyPeers s e.a, yielding := true, yh := true } : Thread).advance)) ∧
    (Runs 0x71 f s e ports →
      let c := (e.va 64 e.low).toNat % 2 ^ 32
      (c = 0 → exec (.sleep f) s = .next (regsAfter s e ports e.t.advance)) ∧
      (c ≠ 0 →
        exec (.sleep f) s =
          .next (regsAfter s e ports
            ({ e.t with gstate := parkedState e.t.gstate, waited := 0, wait := .sleep, warg := 0, ready := readyCount e.a e.t,
                        sleep := if c ≤ 1048576 then c else 1048576 } : Thread).advance))) ∧
    (Runs 0x72 f s e ports → ∀ n, f.a = .sr n → srWidth n e.n = 32 ∨ f.d.pairOk = true →
      LaneResult s e ports (srWidth n e.n) (fun l => (readSr e s n l, 0)) (exec (.getsr f) s)) ∧
    (Runs 0x72 f s e ports → NoLate e → ∀ n, f.a = .sr n → srWidth n e.n = 64 → f.d.pairOk = false →
      exec (.getsr f) s = .next (takeTrap s e.a (wordOf 0x72 f) (Trap.all cILLOP 0 e.act))) ∧
    (Runs 0x73 f s e ports →
      let v := e.va 64 e.low
      let w := v.setWidth 32
      let m := v &&& fullMask e.n &&& e.t.live
      (∀ k, s.block? (s.blockNo e.a) = some k →
        (f.d = .sr 0x08 →
          exec (.setsr f) s =
            .next (wordEnd (s.setBlock (s.blockNo e.a) { k with asid := v.setWidth 16, asidHi := v.extractLsb' 16 16 }) e ports)) ∧
        (f.d = .sr 0x0A → exec (.setsr f) s = .next (wordEnd (s.setBlock (s.blockNo e.a) { k with tol := w }) e ports)) ∧
        (f.d = .sr 0x0B →
          exec (.setsr f) s =
            .next (wordEnd (s.setBlock (s.blockNo e.a) { k with vc := if w.toNat ≤ 32 then w else 32 }) e ports)) ∧
        (f.d = .sr 0x0C →
          exec (.setsr f) s = .next (wordEnd (s.setBlock (s.blockNo e.a) { k with tctl := w &&& 0x00001F05 }) e ports))) ∧
      (f.d = .sr 0x09 →
        exec (.setsr f) s = .next (wordEnd (s.setCore (s.coreNo e.a) { s.core (s.coreNo e.a) with progwin := w }) e ports)) ∧
      (f.d = .sr 0x10 → m ≠ 0 → exec (.setsr f) s = .next (regsAfter s e ports ({ e.t with exm := m } : Thread).advance)) ∧
      (f.d = .sr 0x10 → m = 0 → NoLate e →
        exec (.setsr f) s = .next (takeTrap s e.a (wordOf 0x73 f) (Trap.all cILLOP 0 e.act))) ∧
      (f.d = .sr 0x13 →
        exec (.setsr f) s =
          .next (regsAfter s e ports
            ({ e.t with gst := (w &&& 0x001F01FF) ||| (e.t.gst &&& 0x80000000) } : Thread).advance)))

/-! ### Integer and logic words -/

namespace Sys2Proof.Machine

/-- A word whose lanes fit an exact integer to the word's type (R84). -/
def intRow (make : Fields → Instr) (opc : Nat) (x : Env → Nat → Int) : LaneRow :=
  { make := make, opc := opc, width := Env.iw, val := fun e l => e.f.ity.fit e.f.sat (x e l) }

/-- The number below 2^`n` whose bit `i` is `g i`. -/
def bitsTo (n : Nat) (g : Nat → Bool) : Nat := (List.range n).foldl (fun x i => if g i then x + 2 ^ i else x) 0

/-- A word whose lanes give a pattern of the type's width, bit by bit, from the patterns `a`, `b`, `c` of the operands. -/
def bitRow (make : Fields → Instr) (opc : Nat) (g : (n a b c : Nat) → Nat → Bool) : LaneRow :=
  intRow make opc fun e l => (bitsTo e.iw (g e.iw (e.pa l) (e.pb l) (e.pc l)) : Nat)

/-- The arithmetic rows of R83. -/
def arithmeticRows : List LaneRow :=
  [intRow .iadd 0x00 fun e l => e.ia l + e.ib l,
   intRow .isub 0x01 fun e l => e.ia l - e.ib l,
   intRow .imul 0x02 fun e l => e.ia l * e.ib l,
   intRow .imulh 0x03 fun e l => e.ia l * e.ib l / 2 ^ e.iw,
   intRow .imad 0x04 fun e l => e.ia l * e.ib l + e.ic l,
   { make := .imadw, opc := 0x05, width := fun _ => 64,
     val := fun e l =>
       let t := if e.f.ity.signed then IntTy.i64 else IntTy.n64
       t.fit false (e.ia l * e.ib l + t.value (e.vc 64 l)) },
   intRow .iabs 0x06 fun e l => if e.ia l < 0 then -e.ia l else e.ia l,
   intRow .ineg 0x07 fun e l => -e.ia l,
   intRow .imin 0x08 fun e l => if e.ib l < e.ia l then e.ib l else e.ia l,
   intRow .imax 0x09 fun e l => if e.ia l < e.ib l then e.ib l else e.ia l,
   intRow .isad 0x0A fun e l => (if e.ia l < e.ib l then e.ib l - e.ia l else e.ia l - e.ib l) + e.ic l,
   intRow .iclmp 0x1F fun e l =>
     let m := if e.ia l < e.ib l then e.ib l else e.ia l
     if e.ic l < m then e.ic l else m]

/-- The logic and bit-count rows of R83. -/
def logicRows : List LaneRow :=
  [bitRow .and 0x0B fun _ a b _ i => a.testBit i && b.testBit i,
   bitRow .or 0x0C fun _ a b _ i => a.testBit i || b.testBit i,
   bitRow .xor 0x0D fun _ a b _ i => a.testBit i ^^ b.testBit i,
   bitRow .andn 0x0E fun _ a b _ i => a.testBit i && !b.testBit i,
   intRow .popc 0x15 fun e l => ((List.range e.iw).countP fun i => (e.pa l).testBit i : Nat),
   intRow .clz 0x16 fun e l => (((List.range e.iw).takeWhile fun i => !(e.pa l).testBit (e.iw - 1 - i)).length : Nat),
   intRow .ctz 0x17 fun e l => (((List.range e.iw).takeWhile fun i => !(e.pa l).testBit i).length : Nat),
   bitRow .brev 0x18 fun n a _ _ i => a.testBit (n - 1 - i)]

/-- The rows of R86, by the count `k`. -/
def shiftRows : List LaneRow :=
  [bitRow .shl 0x0F fun _ a k _ i => decide (k ≤ i) && a.testBit (i - k),
   bitRow .shr 0x10 fun _ a k _ i => a.testBit (i + k),
   bitRow .sar 0x11 fun n a k _ i => a.testBit (min (i + k) (n - 1)),
   bitRow .rot 0x12 fun n a k _ i => a.testBit ((i + (n - k % n)) % n)]

/-- The rows of R87 and R88: bit fields, with b read as `N32`, and the byte permutation. -/
def fieldRows : List LaneRow :=
  [intRow .bfx 0x13 fun e l =>
     let b := (e.vb 32 l).toNat % 2 ^ 32
     let w := min (b / 256 % 256) e.iw
     let bit (j : Nat) : Bool :=
       let p := b % 256 + j
       if p < e.iw then (e.pa l).testBit p else e.f.ity.signed && (e.pa l).testBit (e.iw - 1)
     let v : Int := (bitsTo w bit : Nat)
     if e.f.ity.signed && decide (0 < w) && bit (w - 1) then v - 2 ^ w else v,
   intRow .bfi 0x14 fun e l =>
     let b := (e.vb 32 l).toNat % 2 ^ 32
     let o := b % 256
     let w := min (b / 256 % 256) e.iw
     (bitsTo e.iw fun i => if o ≤ i ∧ i < o + w then (e.pa l).testBit (i - o) else (e.pc l).testBit i : Nat),
   bitRow .prmb 0x19 fun _ a b c i =>
     let ctl (j : Nat) : Bool := c.testBit (i / 8 * 8 + j)
     let sel := (if ctl 0 then 1 else 0) + (if ctl 1 then 2 else 0) + (if ctl 2 then 4 else 0)
     let src (j : Nat) : Bool := (if sel < 4 then a else b).testBit (sel % 4 * 8 + j)
     match ctl 5, ctl 4, ctl 3 with
     | false, false, false => src (i % 8)
     | false, true, false => true
     | false, true, true => !src (i % 8)
     | true, false, false => src (7 - i % 8)
     | true, false, true => src 7
     | _, _, _ => false]

/-- The rows that move values: R83, R90, R91. -/
def moveRows : List LaneRow :=
  [intRow .sel 0x1B fun e l => if e.vc 32 l = 1 then e.ia l else e.ib l,
   { make := .mov, opc := 0x1C, width := fun e => if e.f.d.isP then 32 else e.iw,
     val := fun e l =>
       match e.f.d, e.f.a with
       | .p _, .p n => (if (e.t.getP n.toNat).getLsbD l then 1 else 0, 0)
       | .p _, _ => (if e.pa l = 0 then 0 else 1, 0)
       | _, .p n => e.f.ity.fit e.f.sat (if (e.t.getP n.toNat).getLsbD l then 1 else 0)
       | _, _ => e.f.ity.fit e.f.sat (e.ia l) },
   { make := .movi, opc := 0x1D, width := fun e => if e.iw = 64 then 64 else 32,
     val := fun e l =>
       if e.iw = 64 then
         (if e.f.fn = 0 then (e.vd 64 l).extractLsb' 32 32 ++ e.f.x else e.f.x ++ (e.vd 64 l).extractLsb' 0 32, 0)
       else e.f.ity.fit false e.f.x.toNat },
   { make := .lea, opc := 0x1E, width := fun _ => 64, val := fun e l => (e.ea l, 0) }]

end Sys2Proof.Machine

/-- `IADD`, `ISUB`, `IMUL`, `IMULH`, `IMAD`, `IMADW`, `IABS`, `INEG`, `IMIN`, `IMAX`, `ISAD` and `ICLMP` that issue normally answer a
next state in which each active lane of the destination, or the one scalar destination, holds the exact result of R83 fitted to the
type (R84; 64 bits for `IMADW`), `SATF` is raised where it saturated, and every other register, lane, flag, special register and
byte of memory is as before. -/
def Obligations.ArithmeticWordsComplete : Prop := RowsComplete arithmeticRows

/-- Bit i of the n-bit result of `SHL` is bit i − k of a, or 0 where k is above i; of `SHR` bit i + k of a, 0 at n and beyond; of `SAR`
bit min(i + k, n − 1); of `ROT` bit i − k modulo n; k is b read as an unsigned n-bit value, whatever the signedness of the type. -/
def Obligations.ShiftWordsComplete : Prop := RowsComplete shiftRows

/-- `AND`, `OR`, `XOR`, `ANDN`, `POPC`, `CLZ`, `CTZ` and `BREV` complete, bit by bit as R83 gives, and change nothing but the
destination. `BFX` takes the field of width min(b[15:8], n) at offset b[7:0], with positions from n on read as a[n − 1] for signed
types and 0 for others, extended from its width; `BFI` puts the low bits of a there in c; `PRMB` gives each result byte from the
source byte and the way that its control byte selects. `SEL` gives a where the predicate is set, else b; `MOV` a value, a predicate
as 0 or 1, or a predicate from a value or a predicate; `MOVI` its immediate in the low or the high half, keeping the other half of a
64-bit destination (with a 32-bit type, a scalar destination takes the value extended to 64 bits: notes/assumptions/19.md); `LEA`
the effective address of its memory operand, with no check. -/
def Obligations.BitAndMoveWordsComplete : Prop := RowsComplete (logicRows ++ fieldRows ++ moveRows)

/-- Without `.SAT`, fitting an integer to a type gives the value of the type congruent to it modulo 2^n, and raises no flag; with
`.SAT` it gives the nearest value of the type, and raises `SATF` exactly where that is another value. The register holds the value
extended to 64 bits, by the sign for the signed types. -/
def Obligations.FitWrapsOrSaturates : Prop :=
  ∀ (t : IntTy) (x : Int),
    let r := t.fit false x
    let q := t.fit true x
    t.min ≤ t.value r.1 ∧ t.value r.1 ≤ t.max ∧ (2 ^ t.width : Int) ∣ x - t.value r.1 ∧ r.2 = 0 ∧
      r.1 = BitVec.ofInt 64 (t.value r.1) ∧
      t.value q.1 = max t.min (min x t.max) ∧ (q.2 = if t.value q.1 = x then 0 else fSATF) ∧ q.1 = BitVec.ofInt 64 (t.value q.1)

/-- `ICMP` completes with its predicate 1 in the active lanes where the condition of `FN` holds in the signedness of the type, 0 in the
others of them, and as it was in inactive lanes (`P15` stays as it is). With `FN` from 6 on, or a destination that is no predicate, it
traps `ILLOP`, and so does a `SEL` whose C is no predicate. -/
def Obligations.CompareWordsComplete : Prop :=
  ∀ (f : Fields) (s : State) (e : Env) (ports : Tab (List (List Word))) (t : Thread),
    (Runs 0x1A f s e ports →
      LaneResult s e ports 32
        (fun l =>
          let a := e.ia l
          let b := e.ib l
          (if (f.fn = 0 ∧ a = b) ∨ (f.fn = 1 ∧ a ≠ b) ∨ (f.fn = 2 ∧ a < b) ∨ (f.fn = 3 ∧ a ≤ b) ∨ (f.fn = 4 ∧ b < a) ∨
              (f.fn = 5 ∧ b ≤ a) then 1 else 0, 0))
        (exec (.icmp f) s)) ∧
    (s.thread? s.cur = some t → activeLanes s.cur (s.lanes s.cur) t f ≠ 0 →
      (6 ≤ f.fn.toNat ∨ f.d.isP = false →
        exec (.icmp f) s =
          .next (takeTrap s s.cur (wordOf 0x1A f) (Trap.all cILLOP 0 (activeLanes s.cur (s.lanes s.cur) t f)))) ∧
      (f.c.isP = false →
        exec (.sel f) s =
          .next (takeTrap s s.cur (wordOf 0x1B f) (Trap.all cILLOP 0 (activeLanes s.cur (s.lanes s.cur) t f)))))

/-! ### Rounding, as R40 and R41 give it -/

namespace Sys2Proof.Machine

/-- A real that is not negative, known by the numbers m × 2^e that it is not below, and those that it equals. -/
structure Mag where
  atLeast : Nat → Int → Prop
  isAt : Nat → Int → Prop

/-- The number m × 2^e. -/
def dy (m : Nat) (e : Int) : Ex := { neg := false, m := m, e := e, sticky := false }

/-- |x| ≤ |y|, and |x| = |y|. -/
def leMag (x y : Ex) : Prop := (x.scaled (min x.e y.e)).natAbs ≤ (y.scaled (min x.e y.e)).natAbs
def eqMag (x y : Ex) : Prop := (x.scaled (min x.e y.e)).natAbs = (y.scaled (min x.e y.e)).natAbs

/-- |x|, |x| / |y| and the root of |x|. -/
def magOf (x : Ex) : Mag := { atLeast := fun m e => leMag (dy m e) x, isAt := fun m e => eqMag (dy m e) x }
def quotMag (x y : Ex) : Mag :=
  { atLeast := fun m e => leMag (dy (m * y.m) (e + y.e)) x, isAt := fun m e => eqMag (dy (m * y.m) (e + y.e)) x }
def rootMag (x : Ex) : Mag :=
  { atLeast := fun m e => leMag (dy (m * m) (2 * e)) x, isAt := fun m e => eqMag (dy (m * m) (2 * e)) x }

/-- One over the root of |x|. -/
def rsqMag (x : Ex) : Mag :=
  { atLeast := fun m e => leMag ((dy (m * m) (2 * e)).mul x) (dy 1 0), isAt := fun m e => eqMag ((dy (m * m) (2 * e)).mul x) (dy 1 0) }

/-- `n` × 2^q is the multiple of 2^q that a mode chooses for a real of that sign and magnitude (R40): of the multiple at or below it and
the next, the nearer, the one even in `n` at a tie, under `.RN`; the one not greater in magnitude, not less, or not greater. -/
def Mag.chooses (X : Mag) (mode : RMode) (neg : Bool) (q : Int) (n : Nat) : Prop :=
  ∃ k, X.atLeast k q ∧ ¬X.atLeast (k + 1) q ∧
    let up : Prop :=
      match mode with
      | .rn => X.atLeast (2 * k + 1) (q - 1) ∧ (X.isAt (2 * k + 1) (q - 1) → k % 2 = 1)
      | .rz => False
      | .rp => neg = false ∧ ¬X.isAt k q
      | .rm => neg = true ∧ ¬X.isAt k q
    (up → n = k + 1) ∧ (¬up → n = k)

/-- `r` is the encoding and the flags of `Round` of a nonzero real of that sign and magnitude (R41): the multiple chosen of the spacing
at it, `IX` where that is another number and `UF` where it is tiny as well; above the largest finite number `OF` and `IX` with infinity
or that number, by mode and sign; and under `.FZ` zero for a subnormal result, with `UF` and `IX`. -/
def roundsTo (t : FFmt) (mode : RMode) (fz neg : Bool) (X : Mag) (r : Nat × Flags) : Prop :=
  ∃ (e : Int) (n : Nat) (fl : Flags),
    t.emin ≤ e ∧ (X.atLeast 1 e ∨ e = t.emin) ∧ ¬X.atLeast 1 (e + 1) ∧ X.chooses mode neg (e - t.frac) n ∧
      (X.isAt n (e - t.frac) → fl = 0) ∧ (¬X.isAt n (e - t.frac) → X.atLeast 1 t.emin → fl = fIX) ∧
      (¬X.isAt n (e - t.frac) → ¬X.atLeast 1 t.emin → fl = fIX ||| fUF) ∧
      let big : Prop := (2 ^ (t.frac + 1) - 1) * 2 ^ (t.emax - t.emin).toNat < n * 2 ^ (e - t.emin).toNat
      let sub : Prop := n ≠ 0 ∧ n * 2 ^ (e - t.emin).toNat < 2 ^ t.frac
      let toInf : Prop := t ≠ .f8p ∧ (mode = .rn ∨ mode = .rp ∧ neg = false ∨ mode = .rm ∧ neg = true)
      (big → r.2 = fl ||| fOF ||| fIX ∧ (toInf → r.1 = t.infEnc neg) ∧ (¬toInf → r.1 = t.maxEnc neg)) ∧
        (¬big → fz = true → sub → r = (t.zeroEnc neg, fl ||| fUF ||| fIX)) ∧
        (¬big → fz = false ∨ ¬sub → r.2 = fl ∧ (n = 0 → r.1 = t.zeroEnc neg) ∧
          (n ≠ 0 → r.1 < 2 ^ t.bits ∧ ∃ v, widen t r.1 = .fin v ∧ v.neg = neg ∧ eqMag v (dy n (e - t.frac))))

/-- The place of an encoding of a number or an infinity among those of its format, −0 below +0. -/
def rank (t : FFmt) (b : Nat) : Int := if 2 ^ (t.bits - 1) ≤ b then 2 ^ (t.bits - 1) - (b : Int) - 1 else b

/-- The class of an encoding of `s`, `E` and `f`, each of its field (R96). -/
def classOfFields (t : FFmt) (s E f : Nat) : Nat :=
  if t = .f8p ∧ s = 1 ∧ E = 0 ∧ f = 0 then 9
  else if t ≠ .f8p ∧ E = 2 ^ (t.bits - 1 - t.frac) - 1 then
    if f = 0 then (if s = 1 then 0 else 7) else if f < 2 ^ (t.frac - 1) then 8 else 9
  else if E = 0 then if f = 0 then (if s = 1 then 3 else 4) else if s = 1 then 2 else 5
  else if s = 1 then 1 else 6

end Sys2Proof.Machine

/-! ### Floating-point words -/

namespace Sys2Proof.Machine

/-- A word whose lanes give an encoding, with zero bits above it, and flags (R82). -/
def fltRow (make : Fields → Instr) (opc : Nat) (g : Env → Nat → Nat × Flags) : LaneRow :=
  { make := make, opc := opc, width := fun _ => 32, val := fun e l => (BitVec.ofNat 64 (g e l).1, (g e l).2) }

/-- The rounding of a value in the type and mode of the word, with the flags `fl` besides its own. -/
def rounded (e : Env) (v : Val) (fl : Flags) : Nat × Flags :=
  let r := roundVal e.f.fty e.f.mode e.f.fz v
  (r.1, fl ||| r.2)

/-- The flag of signalling operands, with that of an operation. -/
def flagged (vs : List Val) (fl : Flags) : Flags := (if vs.any Val.isSig then fIV else 0) ||| fl

/-- The rows of R93 to R96. -/
def floatRows : List LaneRow :=
  [fltRow .fadd 0x20 fun e l =>
     let r := vadd e.f.mode (e.fa l) (e.fb l)
     rounded e r.1 (flagged [e.fa l, e.fb l] r.2),
   fltRow .fsub 0x21 fun e l =>
     let r := vadd e.f.mode (e.fa l) (e.fb l).negate
     rounded e r.1 (flagged [e.fa l, e.fb l] r.2),
   fltRow .fmul 0x22 fun e l =>
     let r := vmul (e.fa l) (e.fb l)
     rounded e r.1 (flagged [e.fa l, e.fb l] r.2),
   fltRow .ffma 0x23 fun e l =>
     let p := vmul (e.fa l) (e.fb l)
     let r := vadd e.f.mode p.1 (e.fc l)
     rounded e r.1 (flagged [e.fa l, e.fb l, e.fc l] (p.2 ||| r.2)),
   fltRow .fmin 0x24 fun e l => fMinMax e.f.fty e.f.fz false (encOf e.f.fty (e.va 32 l)) (encOf e.f.fty (e.vb 32 l)),
   fltRow .fmax 0x25 fun e l => fMinMax e.f.fty e.f.fz true (encOf e.f.fty (e.va 32 l)) (encOf e.f.fty (e.vb 32 l)),
   { make := .fcmp, opc := 0x26, width := fun _ => 32,
     val := fun e l =>
       let un := (e.fa l).isNan || (e.fb l).isNan
       let r := (vcmp (e.fa l) (e.fb l)).getD (false, false)
       let holds := [r.2, !r.2, r.1, r.1 || r.2, !un && !r.1 && !r.2, !un && !r.1, un, !un].getD e.f.fnn false
       (if holds then 1 else 0, if (e.fa l).isSig || (e.fb l).isSig then fIV else 0) },
   fltRow .fclass 0x27 fun e l => (fClass e.f.fty (encOf e.f.fty (e.va 32 l)), 0),
   fltRow .fdiv 0x28 fun e l => fDiv e.f.fty e.f.mode e.f.fz (e.fa l) (e.fb l),
   fltRow .fsqrt 0x29 fun e l => fSqrt e.f.fty e.f.mode e.f.fz (e.fa l)]

/-- The rows of R97 to R100: the functions, the conversions and `FDOT2`. -/
def functionRows : List LaneRow :=
  [fltRow .frcp 0x2A fun e l => fTrans e.f.fty e.f.fz 0 (e.fa l),
   fltRow .frsq 0x2B fun e l => fTrans e.f.fty e.f.fz 1 (e.fa l),
   fltRow .fexp2 0x2C fun e l => fTrans e.f.fty e.f.fz 2 (e.fa l),
   fltRow .flog2 0x2D fun e l => fTrans e.f.fty e.f.fz 3 (e.fa l),
   fltRow .fsin 0x2E fun e l => fTrans e.f.fty e.f.fz 4 (e.fa l),
   fltRow .fcos 0x2F fun e l => fTrans e.f.fty e.f.fz 5 (e.fa l),
   fltRow .frnd 0x30 fun e l => fRnd e.f.fty e.f.mode e.f.fz (e.fa l),
   fltRow .cvt 0x31 fun e l =>
     let v := widenFz (fFmt e.f.fnn) e.f.fz (encOf (fFmt e.f.fnn) (e.va 32 l))
     rounded e v (flagged [v] 0),
   { make := .cvtfi, opc := 0x32, width := fun e => (intTy e.f.fnn).width,
     val := fun e l => toInt (intTy e.f.fnn) e.f.mode (e.fa l) },
   fltRow .cvtif 0x33 fun e l =>
     let t := intTy e.f.fnn
     rounded e (.fin (Ex.ofInt (t.value (e.va t.width l)))) 0,
   fltRow .fdot2 0x34 fun e l =>
     let a := e.va 32 l
     let b := e.vb 32 l
     let c := widenFz .f32 e.f.fz (encOf .f32 (e.vc 32 l))
     let p := vmul (half e a false) (half e b false)
     let q := vmul (half e a true) (half e b true)
     let u := vadd e.f.mode p.1 q.1
     let r := vadd e.f.mode u.1 c
     let o := roundVal .f32 e.f.mode e.f.fz r.1
     let both : Flags := if .inf true ∈ [p.1, q.1, c] ∧ .inf false ∈ [p.1, q.1, c] then fIV else 0
     (o.1, flagged [half e a false, half e a true, half e b false, half e b true, c] (p.2 ||| q.2 ||| u.2 ||| r.2 ||| both) ||| o.2)]

/-- x = i × 2^q. -/
def isMult (x : Ex) (i q : Int) : Prop := x.scaled (min x.e q) = i * 2 ^ (q - min x.e q).toNat

/-- The values of the six functions as the table of R97 gives them: `FRCP` 0, `FRSQ` 1, `FEXP2` 2, `FLOG2` 3, `FSIN` 4, `FCOS` 5. -/
def functionValues (t : FFmt) (fz : Bool) (x : Ex) : Prop :=
  let fn (k : Nat) (v : Val) : Nat × Flags := fTrans t fz k v
  let nan : Nat × Flags := (t.cnan, fIV)
  let zero (n : Bool) : Nat × Flags := (t.zeroEnc n, 0)
  let inf (n : Bool) (fl : Flags) : Nat × Flags := (t.infEnc n, fl)
  let one (n : Bool) : Nat × Flags := (t.signed n (t.bias * 2 ^ t.frac), 0)
  (∀ k s, fn k (.nan s) = (t.cnan, if s then fIV else 0)) ∧
  (∀ n : Bool,
    fn 0 (.inf n) = zero n ∧ fn 1 (.inf n) = (if n then nan else zero false) ∧
      fn 2 (.inf n) = (if n then zero false else inf false 0) ∧ fn 3 (.inf n) = (if n then nan else inf false 0) ∧
      fn 4 (.inf n) = nan ∧ fn 5 (.inf n) = nan) ∧
  (x.m = 0 → fn 0 (.fin x) = inf x.neg fDZ ∧ fn 1 (.fin x) = inf x.neg fDZ ∧ fn 3 (.fin x) = inf true fDZ) ∧
  (x.m ≠ 0 →
    roundsTo t .rn fz x.neg (quotMag (dy 1 0) x) (fn 0 (.fin x)) ∧
      (x.neg = true → fn 1 (.fin x) = nan ∧ fn 3 (.fin x) = nan) ∧
      (x.neg = false →
        roundsTo t .rn fz false (rsqMag x) (fn 1 (.fin x)) ∧
          (∀ l : Nat, x.m = 2 ^ l → fn 3 (.fin x) = roundVal t .rn fz (.fin (Ex.ofInt (x.e + l)))) ∧
          ((∀ l : Nat, x.m ≠ 2 ^ l) → (fn 3 (.fin x)).2 &&& fIX ≠ 0))) ∧
  (∀ i, isMult x i 0 → roundsTo t .rn fz false (magOf (dy 1 i)) (fn 2 (.fin x))) ∧
  ((∀ i, ¬isMult x i 0) → (fn 2 (.fin x)).2 &&& fIX ≠ 0) ∧
  (∀ i, isMult x i (-1) →
    fn 4 (.fin x) = (if i % 2 = 0 then zero x.neg else one (decide (i % 4 = 3))) ∧
      fn 5 (.fin x) = (if i % 2 = 0 then one (decide (i % 4 = 2)) else zero false)) ∧
  ((∀ i, ¬isMult x i (-1)) → (fn 4 (.fin x)).2 &&& fIX ≠ 0 ∧ (fn 5 (.fin x)).2 &&& fIX ≠ 0)

/-- A packed word: its low and its high half, with the flags of both (R82, R101, R102). -/
def packRow (make : Fields → Instr) (opc : Nat) (g : Env → Nat → Bool → Nat × Flags) : LaneRow :=
  { make := make, opc := opc, width := fun _ => 32,
    val := fun e l =>
      (BitVec.ofNat 64 ((g e l false).1 % 65536 + 65536 * ((g e l true).1 % 65536)), (g e l false).2 ||| (g e l true).2) }

/-- A packed integer word on the halves of a and b, those of b crossed where `FN`[1] says so, fitted at 16 bits (R102). -/
def packIntRow (make : Fields → Instr) (opc : Nat) (g : Int → Int → Int) : LaneRow :=
  packRow make opc fun e l h =>
    let t := packTy e.f
    let r := t.fit (e.f.fn.getLsbD 0) (g (ihalf t (e.va 32 l) h) (ihalf t (e.vb 32 l) (h ^^ e.f.fn.getLsbD 1)))
    (r.1.toNat, r.2)

/-- The rows of R101, R102 and R104. -/
def packedRows : List LaneRow :=
  [packRow .hadd2 0x40 fun e l h => fAdd e.f.fty e.f.mode e.f.fz (half e (e.va 32 l) h) (half e (e.vb 32 l) h),
   packRow .hsub2 0x41 fun e l h => fSub e.f.fty e.f.mode e.f.fz (half e (e.va 32 l) h) (half e (e.vb 32 l) h),
   packRow .hmul2 0x42 fun e l h => fMul e.f.fty e.f.mode e.f.fz (half e (e.va 32 l) h) (half e (e.vb 32 l) h),
   packRow .hfma2 0x43 fun e l h =>
     fFma e.f.fty e.f.mode e.f.fz (half e (e.va 32 l) h) (half e (e.vb 32 l) h) (half e (e.vc 32 l) h),
   packRow .hmin2 0x44 fun e l h => fMinMax e.f.fty e.f.fz false (hpart (e.va 32 l) h) (hpart (e.vb 32 l) h),
   packRow .hmax2 0x45 fun e l h => fMinMax e.f.fty e.f.fz true (hpart (e.va 32 l) h) (hpart (e.vb 32 l) h),
   packIntRow .iadd2 0x46 fun a b => a + b,
   packIntRow .isub2 0x47 fun a b => a - b,
   packIntRow .imin2 0x48 fun a b => if b < a then b else a,
   packIntRow .imax2 0x49 fun a b => if a < b then b else a,
   packRow .pack2 0x4B fun e l h =>
     let v := if h then e.vb 32 l else e.va 32 l
     if e.f.ty = 5 ∨ e.f.ty = 6 then
       let r := (packTy e.f).fit true (IntTy.i32.value v)
       (r.1.toNat, r.2)
     else
       let x := widenFz .f32 e.f.fz (encOf .f32 v)
       rounded e x (flagged [x] 0),
   { make := .unpk2, opc := 0x4C, width := fun _ => 32,
     val := fun e l =>
       let h := e.f.fn.getLsbD 0
       if e.f.ty = 5 ∨ e.f.ty = 6 then (BitVec.ofInt 64 (ihalf (packTy e.f) (e.va 32 l) h), 0)
       else
         let x := half e (e.va 32 l) h
         let r := roundVal .f32 .rn e.f.fz x
         (BitVec.ofNat 64 r.1, flagged [x] 0 ||| r.2) }]

/-- Where some active lane of results `g` would raise a flag whose trap is enabled, outcome `o` of the word is the trap `FPEXC` in
exactly those lanes, with every flag that the active lanes would raise as its cause detail (R70, R75). -/
def FlagTrap (opc : Nat) (s : State) (e : Env) (g : Nat → Dword × Flags) (o : Host.Outcome State Fault Refusal) : Prop :=
  let hit (l : Nat) : Prop := l ∈ e.lanes ∧ (g (laneFor e l)).2 &&& ((e.t.gst >>> 16) &&& 0x1F#32) ≠ 0
  NoLate e → (∃ l, hit l) →
    ∃ m : Mask, (∀ l, l < 64 → (m.getLsbD l = true ↔ hit l)) ∧
      o = .next (takeTrap s e.a (wordOf opc e.f) { Trap.all cFPEXC 0 m with cdetail := (raised e g).setWidth 64 })

/-- A word of the rows that would raise a flag whose trap is enabled traps instead (R70). -/
def RowsTrapFlags (rows : List LaneRow) : Prop :=
  ∀ r ∈ rows, ∀ f s e ports, Runs r.opc f s e ports → FlagTrap r.opc s e (r.val e) (exec (r.make f) s)

end Sys2Proof.Machine

/-- `FADD`, `FSUB`, `FMUL` and `FFMA` that issue normally and raise no enabled flag complete with the rounding of the exact sum,
difference, product or product and sum, and the flags of R93; `FMIN`, `FMAX`, `FCLASS`, `FDIV` and `FSQRT` with the model's functions
of the operands' encodings (O30 and O31 say what those give), and `FCMP` with its predicate 1 where the condition of `FN` holds.
`FRCP`, `FRSQ`, `FEXP2`, `FLOG2`, `FSIN`, `FCOS` and `FRND` complete with the model's functions of the operand's value (for `FRND`
see O31); `CVT` with one rounding of the source's value, `CVTFI` with its value in the integer type, `CVTIF` with the rounding of
the integer, and `FDOT2` with one rounding to `F32` of the exact sum of both products and c. Nothing but the destination and the
flags changes. The functions give the results and flags of R97 for NaNs, infinities, zeros and negative operands; `FRCP` and `FRSQ`
are the correct rounding of 1 / a and 1 / √a; `FEXP2` of an integer, `FLOG2` of a power of two and `FSIN` and `FCOS` of a multiple of
1/2 round the exact value; any other operand sets `IX` (which number these four then give, the statement does not say). How a
saturating conversion, `FDOT2` and the functions treat what their rules leave open is the model's reading: notes/assumptions/15.md,
16.md and 17.md. -/
def Obligations.FloatWordsComplete : Prop :=
  RowsComplete (floatRows ++ functionRows) ∧
  ∀ (t : FFmt) (fz : Bool) (x : Ex), t = .f32 ∨ t = .bf16 ∨ t = .f16 → x.sticky = false → functionValues t fz x

/-- In each arithmetic type and mode: ∞ − ∞, 0 × ∞ (in `FFMA` even with a quiet NaN c), 0 / 0, ∞ / ∞ and the root of a negative
number give the canonical NaN with `IV`; a NaN operand gives the canonical NaN, with `IV` exactly where it signals; a finite nonzero
number by zero gives ∞ of the product's sign with `DZ`; x − x gives +0, under `.RM` −0; the sum of two zeros of one sign is that
zero; the root of a zero is that zero; `FRND` keeps infinities. `FMIN` and `FMAX` give, of two operands that are no NaN, the lower
or the higher in the order of their encodings by sign and magnitude, −0 below +0; of one NaN and another operand the other; of two
NaNs the canonical one; `IV` where one signals; and under `.FZ` they take a subnormal as the zero of its sign. `FCLASS` gives the
bit of the class that the fields of the encoding have. The limits of the formats are those of R36, their canonical NaNs those of
R38. -/
def Obligations.FloatSpecialCases : Prop :=
  [FFmt.f32, .bf16, .f16, .f8e, .f8p].map (fun t => (t.maxEnc false, t.cnan)) =
      [(0x7F7FFFFF, 0x7FC00000), (0x7F7F, 0x7FC0), (0x7BFF, 0x7E00), (0x7B, 0x7E), (0x7F, 0x80)] ∧
  [FFmt.f32, .bf16, .f16, .f8e].map (fun t => (t.infEnc false, t.infEnc true)) =
      [(0x7F800000, 0xFF800000), (0x7F80, 0xFF80), (0x7C00, 0xFC00), (0x7C, 0xFC)] ∧
  (∀ (t : FFmt) (b : Nat), b < 2 ^ t.bits →
    fClass t b = 2 ^ classOfFields t (b / 2 ^ (t.bits - 1)) (b % 2 ^ (t.bits - 1) / 2 ^ t.frac) (b % 2 ^ t.frac)) ∧
  (∀ (t : FFmt) (a b : Nat), t = .f32 ∨ t = .bf16 ∨ t = .f16 → a < 2 ^ t.bits → b < 2 ^ t.bits →
    let va := widen t a
    let vb := widen t b
    let fl : Flags := if va.isSig = true ∨ vb.isSig = true then fIV else 0
    let z (x : Nat) : Nat := if isSubnormal t x then t.zeroEnc (decide (2 ^ (t.bits - 1) ≤ x)) else x
    (va.isNan = false → vb.isNan = false →
      fMinMax t false false a b = (if rank t a ≤ rank t b then a else b, 0) ∧
        fMinMax t false true a b = (if rank t a ≤ rank t b then b else a, 0)) ∧
      ∀ k, (va.isNan = true → vb.isNan = false → fMinMax t false k a b = (b, fl)) ∧
        (va.isNan = false → vb.isNan = true → fMinMax t false k a b = (a, fl)) ∧
        (va.isNan = true → vb.isNan = true → fMinMax t false k a b = (t.cnan, fl)) ∧
        fMinMax t true k a b = fMinMax t false k (z a) (z b)) ∧
  ∀ (t : FFmt) (m : RMode) (fz n : Bool) (x y z : Ex) (c v : Val),
    t = .f32 ∨ t = .bf16 ∨ t = .f16 → z.isZero = true → x.isZero = false → y.isZero = true → x.sticky = false →
    fAdd t m fz (.inf n) (.inf !n) = (t.cnan, fIV) ∧ fSub t m fz (.inf n) (.inf n) = (t.cnan, fIV) ∧
      fMul t m fz (.inf n) (.fin z) = (t.cnan, fIV) ∧ fMul t m fz (.fin z) (.inf n) = (t.cnan, fIV) ∧
      (c.isNan = true → fFma t m fz (.inf n) (.fin z) c = (t.cnan, fIV)) ∧
      fDiv t m fz (.fin y) (.fin z) = (t.cnan, fIV) ∧ (∀ k, fDiv t m fz (.inf n) (.inf k) = (t.cnan, fIV)) ∧
      fDiv t m fz (.fin x) (.fin z) = (t.infEnc (x.neg != z.neg), fDZ) ∧
      (x.neg = true → fSqrt t m fz (.fin x) = (t.cnan, fIV)) ∧ fSqrt t m fz (.inf true) = (t.cnan, fIV) ∧
      fSqrt t m fz (.fin z) = (t.zeroEnc z.neg, 0) ∧
      fSub t m fz (.fin x) (.fin x) = (t.zeroEnc (m = .rm), 0) ∧
      (z.neg = y.neg → fAdd t m fz (.fin z) (.fin y) = (t.zeroEnc z.neg, 0)) ∧
      (∀ s, v.isSig = false → fAdd t m fz (.nan s) v = (t.cnan, if s then fIV else 0) ∧
        fMul t m fz v (.nan s) = (t.cnan, if s then fIV else 0) ∧ fDiv t m fz (.nan s) v = (t.cnan, if s then fIV else 0) ∧
        fRnd t m fz (.nan s) = (t.cnan, if s then fIV else 0)) ∧
      fRnd t m fz (.inf n) = (t.infEnc n, 0)

/-- The sum and the product of two exact numbers have, at every exponent below theirs, the sum and the product of their integer
multiples, and so has the exact sum of any number of products. In every format, mode and under `.FZ`, a nonzero exact number rounds to
what R40 and R41 choose, with their flags: nearest, ties to even, or directed; infinity or the largest number on overflow; `UF` for a
tiny inexact result. So do the quotient of `FDIV` and the root of `FSQRT`, which are rounded once from their exact values. The value of
an encoding rounds to that encoding without a flag. `FRND` gives the integer that R40 chooses with spacing 1, a zero of the operand's
sign, and no flag; a conversion to an integer gives that integer, with `IX` where it is another number, or the nearer end of the type
with `IV` alone, and 0 with `IV` for a NaN. -/
def Obligations.ExactArithmeticThenRounding : Prop :=
  (∀ (x y : Ex) (z : Bool) (k : Int), x.sticky = false → y.sticky = false → k ≤ x.e → k ≤ y.e → k ≤ 0 →
    (x.addZ y z).scaled k = x.scaled k + y.scaled k ∧ (x.addZ y z).sticky = false) ∧
  (∀ (x y : Ex) (j k : Int), j ≤ x.e → k ≤ y.e → (x.mul y).scaled (j + k) = x.scaled j * y.scaled k) ∧
  (∀ (l : List (Ex × Ex)), (∀ p ∈ l, p.1.sticky = false ∧ p.2.sticky = false) →
    ∃ z : Ex, sumProds (l.map fun p => (Val.fin p.1, Val.fin p.2)) = (.fin z, 0) ∧ z.sticky = false ∧
      ∀ k : Int, (∀ p ∈ l, k ≤ p.1.e + p.2.e) →
        z.scaled k = (l.map fun p => (p.1.mul p.2).scaled k).foldl (fun a b => a + b) 0) ∧
  (∀ (t : FFmt) (m : RMode) (b : Nat) (x : Ex), b < 2 ^ t.bits → widen t b = .fin x → roundVal t m false (.fin x) = (b, 0)) ∧
  (∀ (t : FFmt) (m : RMode) (fz : Bool) (x y : Ex), x.sticky = false → y.sticky = false → x.m ≠ 0 →
    roundsTo t m fz x.neg (magOf x) (roundVal t m fz (.fin x)) ∧
      (y.m ≠ 0 → roundsTo t m fz (x.neg != y.neg) (quotMag x y) (fDiv t m fz (.fin x) (.fin y))) ∧
      (x.neg = false → roundsTo t m fz false (rootMag x) (fSqrt t m fz (.fin x))) ∧
      (∀ z : Ex, z.isZero = true → roundVal t m fz (.fin z) = (t.zeroEnc z.neg, 0)) ∧
      (∀ s, roundVal t m fz (.nan s) = (t.cnan, 0)) ∧
      ∀ n, roundVal t m fz (.inf n) = if t = .f8p then (0x80, fIV) else (t.infEnc n, 0)) ∧
  (∀ (t : FFmt) (m : RMode) (fz : Bool) (b : Nat) (x : Ex), t = .f32 ∨ t = .bf16 ∨ t = .f16 → widenFz t fz b = .fin x →
    ∃ n, (magOf x).chooses m x.neg 0 n ∧ (fRnd t m fz (.fin x)).2 = 0 ∧
      (n = 0 → (fRnd t m fz (.fin x)).1 = t.zeroEnc x.neg) ∧
      (n ≠ 0 → ∃ v, widen t (fRnd t m fz (.fin x)).1 = .fin v ∧ v.neg = x.neg ∧ eqMag v (dy n 0))) ∧
  (∀ (t : IntTy) (m : RMode) (x : Ex), x.sticky = false →
    ∃ n, (magOf x).chooses m x.neg 0 n ∧
      let i : Int := if x.neg then -(n : Int) else n
      (i < t.min → toInt t m (.fin x) = (BitVec.ofInt 64 t.min, fIV)) ∧
        (t.max < i → toInt t m (.fin x) = (BitVec.ofInt 64 t.max, fIV)) ∧
        (t.min ≤ i → i ≤ t.max → ((magOf x).isAt n 0 → toInt t m (.fin x) = (BitVec.ofInt 64 i, 0)) ∧
          (¬(magOf x).isAt n 0 → toInt t m (.fin x) = (BitVec.ofInt 64 i, fIX)))) ∧
  (∀ (t : IntTy) (m : RMode) (s n : Bool),
    toInt t m (.nan s) = (0, fIV) ∧ toInt t m (.inf n) = (BitVec.ofInt 64 (if n then t.min else t.max), fIV)) ∧
  ∀ i : Int, (Ex.ofInt i).sticky = false ∧ (Ex.ofInt i).scaled 0 = i

/-- For every floating-point, function, conversion and packed word: where some active lane would raise a flag whose enable is set, the
word traps `FPEXC` in exactly those lanes (all active lanes for a scalar destination), writes no result and sets no flag, and the cause
detail holds the flags that all active lanes would have raised (notes/assumptions/18.md). The block words say the same in O34, the
cross-lane words in O35, and `TLD` and `TST` in O47. -/
def Obligations.EnabledFlagsTrap : Prop := RowsTrapFlags (floatRows ++ functionRows ++ packedRows)

/-- The packed words that issue normally complete with both halves of each active lane's result, fitted or rounded as their entries
give, and raise the flags of both. `VACS2` writes in each active lane, for each half, the smaller of the saturated sums a + c and
b + the other half of c, the first at a tie, and the decisions of the low and the high half in `Pn` and `Pn+1`; it changes nothing
else but `SATF`. -/
def Obligations.PackedWordsComplete : Prop :=
  RowsComplete packedRows ∧
  ∀ (f : Fields) (s : State) (e : Env) (ports : Tab (List (List Word))), Runs 0x4A f s e ports →
    let t := packTy f
    let cand (l : Nat) (h : Bool) : Int :=
      max t.min (min t.max (ihalf t (e.va 32 l) h + ihalf t (e.vc 32 l) h))
    let rival (l : Nat) (h : Bool) : Int :=
      max t.min (min t.max (ihalf t (e.vb 32 l) h + ihalf t (e.vc 32 l) !h))
    let wins (l : Nat) (h : Bool) : Bool := decide (rival l h < cand l h)
    let out (l : Nat) (h : Bool) : Nat := ((if wins l h then rival l h else cand l h) % 65536).toNat
    ∃ u : Thread, exec (.vacs2 f) s = .next (regsAfter s e ports u.advance) ∧
      (∀ m l, l < 64 →
        (u.getV m l).toNat = if l ∈ e.lanes ∧ m = vIdx f.d then out l false + 65536 * out l true else (e.t.getV m l).toNat) ∧
      (∀ m l, l < 64 → m < 15 →
        (u.getP m).getLsbD l =
          if l ∈ e.lanes ∧ m = f.fn.toNat then wins l false
          else if l ∈ e.lanes ∧ m = f.fn.toNat + 1 then wins l true else (e.t.getP m).getLsbD l) ∧
      u.gst ||| fSATF = e.t.gst ||| fSATF ∧ u.s = e.t.s ∧ u.xs = e.t.xs ∧ sameOutside e.t u

/-! ### Blocks, as R46 to R54 give them -/

namespace Sys2Proof.Machine

/-- The elements that a block of a format can hold (R51). -/
def capOf (fmt : Nat) : Nat := if fmt = 1 ∨ fmt = 2 then 30 else if fmt = 3 ∨ fmt = 4 ∨ fmt = 6 then 60 else 120

/-- The code of element `i` in payload bytes `p` (R51). -/
def codeAt (fmt : Nat) (p : Nat → Nat) (i : Nat) : Nat :=
  if fmt = 1 ∨ fmt = 2 then p (2 * i) + 256 * p (2 * i + 1)
  else if fmt = 3 ∨ fmt = 4 ∨ fmt = 6 then p i
  else if i % 2 = 0 then p (i / 2) % 16 else p (i / 2) / 16 % 16

/-- The floating-point format of a block format. -/
def fltOf (fmt : Nat) : FFmt := if fmt = 1 then .bf16 else if fmt = 2 then .f16 else if fmt = 3 then .f8e else .f8p

/-- v(i) of a code, with zero point or codebook `z` (R37, R39, R46, R48). -/
def plainVal (fmt z : Nat) (cb : Nat → List Nat) (fz : Bool) (c : Nat) : Val :=
  if fmt = 5 then widen .bf16 ((cb z).getD c 0)
  else if fmt = 6 ∨ fmt = 7 then .fin (Ex.ofInt ((c : Int) - z))
  else widenFz (fltOf fmt) fz c

/-- A block is read as R50 to R52 say: which blocks are well formed, and the value of each element. -/
def blockReads (b : Blk) (cb : Nat → List Nat) : Prop :=
  let c := b.byte 0
  let z := b.byte 2
  let n := if b.byte 3 = 0 then capOf c else b.byte 3
  (b.ok = true ↔ c = 0 ∨ c = 0xFF ∨
    c ≤ 7 ∧ b.byte 1 ≠ 0 ∧ b.byte 1 ≠ 255 ∧ b.byte 3 ≤ capOf c ∧ (c = 5 → z ≤ 7) ∧ (c = 7 → z ≤ 15) ∧ (c ≤ 4 → z = 0)) ∧
  (c = 0 → ∀ i, b.elem cb i = (.fin (Ex.zero false), 0)) ∧ (c = 0xFF → ∀ i, b.elem cb i = (.nan false, fBLKERR)) ∧
  (b.ok = true → c ≠ 0 → c ≠ 0xFF → ∀ i,
    (n ≤ i → b.elem cb i = (.fin (Ex.zero false), 0)) ∧
    (i < n → b.elem cb i =
      ((plainVal c z cb false (codeAt c (fun q => b.byte (4 + q)) i)).scale2 ((b.byte 1 : Int) - 127), 0)))

/-- The target magnitude of a format under a codebook is that of the table of R53. -/
def targetsAre (cb : List Nat) : Prop :=
  (∀ p ∈ [(1, 1), (2, 1), (3, 57344), (4, 240), (6, 127), (7, 7)], eqMag (targetOf p.1 cb) (dy p.2 0)) ∧
    let T := targetOf 5 cb
    (∀ j x, j < 16 → widen .bf16 (cb.getD j 0) = .fin x → leMag x T) ∧
      (T.m ≠ 0 → ∃ j x, j < 16 ∧ widen .bf16 (cb.getD j 0) = .fin x ∧ eqMag x T)

/-- The scale code of values is the one of R53: of a nonzero largest magnitude `a`, the least s with a ≤ T × 2^(s − 127), clamped. -/
def scaleIs (fmt : Nat) (cb : List Nat) (xs : List Val) : Prop :=
  let T := targetOf fmt cb
  ((∀ v ∈ xs, ∃ x : Ex, v = .fin x ∧ x.m = 0) → scaleCode fmt cb xs = (none, 0)) ∧
    ((∀ x, Val.fin x ∈ xs → x.m = 0) → (∃ v ∈ xs, ∀ x, v ≠ .fin x) → scaleCode fmt cb xs = (some 127, 0)) ∧
    ∀ a, Val.fin a ∈ xs → a.m ≠ 0 → (∀ x, Val.fin x ∈ xs → leMag x a) →
      (T.m = 0 → scaleCode fmt cb xs = (some 127, 0)) ∧
      (T.m ≠ 0 → ∃ k : Int, leMag a (T.scale2 k) ∧ ¬leMag a (T.scale2 (k - 1)) ∧
        scaleCode fmt cb xs =
          if k + 127 < 1 then (some 1, fSCUF) else if 254 < k + 127 then (some 254, 0) else (some (k + 127).toNat, 0))

/-- A `BF16` encoding as a number, infinities beyond all others, and both zeros equal. -/
def numKey (b : Nat) : Int := if b % 2 ^ 16 / 2 ^ 15 = 1 then -((b % 2 ^ 15 : Nat) : Int) else (b % 2 ^ 15 : Nat)

/-- A value is encoded into `C4` as R47 says: the nearest number of the codebook, the lower code at equal distance, the extreme one for
an infinity, a NaN entry for a NaN. -/
def codebookCode (cb : List Nat) (v : Val) (r : Nat × Flags) : Prop :=
  let ent (j : Nat) : Val := widen .bf16 (cb.getD j 0)
  let real (j : Nat) : Prop := j < 16 ∧ (ent j).isNan = false
  ((∀ j, ¬real j) → r = (0, fIV)) ∧
    ((∃ j, real j) →
      (∀ x, v = .fin x → (∃ j y, j < 16 ∧ ent j = .fin y) →
        ∃ j y, j < 16 ∧ ent j = .fin y ∧ r = (j, if (x.addZ y.negate false).m = 0 then 0 else fIX) ∧
          ∀ k w, k < 16 → ent k = .fin w →
            leMag (x.addZ y.negate false) (x.addZ w.negate false) ∧
              (k < j → ¬leMag (x.addZ w.negate false) (x.addZ y.negate false))) ∧
      (∀ n, v = .inf n →
        ∃ j, real j ∧ r = (j, if ent j = .inf n then 0 else fIX) ∧
          ∀ k, real k →
            let beyond : Int := if n then numKey (cb.getD j 0) - numKey (cb.getD k 0) else numKey (cb.getD k 0) - numKey (cb.getD j 0)
            beyond ≤ 0 ∧ (k < j → beyond ≠ 0)) ∧
      ∀ s, v = .nan s →
        ((∀ j, j < 16 → (ent j).isNan = false) → r = (0, fIV)) ∧
          ∀ j, j < 16 → (ent j).isNan = true → (∀ k, k < j → (ent k).isNan = false) → r = (j, if s then fIV else 0))

/-- A value is encoded into `n` bits about zero point `z` as R49 says. -/
def offsetCode (n z : Nat) (mode : RMode) (v : Val) (r : Nat × Flags) : Prop :=
  (∀ s, v = .nan s → r = (z, fIV)) ∧ (∀ k, v = .inf k → r = (if k then 0 else 2 ^ n - 1, fSATF ||| fIV)) ∧
    ∀ x, v = .fin x → ∃ m fl, (magOf x).chooses mode x.neg 0 m ∧ ((magOf x).isAt m 0 → fl = 0) ∧ (¬(magOf x).isAt m 0 → fl = fIX) ∧
      let q : Int := (if x.neg then -(m : Int) else m) + z
      (q < 0 → r = (0, fSATF ||| fl)) ∧ (2 ^ n ≤ q → r = (2 ^ n - 1, fSATF ||| fl)) ∧ (0 ≤ q → q < 2 ^ n → r = (q.toNat, fl))

/-- A block holds `es`, codes with their flags, in the layout of R50 and R51, and +0 codes beyond them. -/
def holdsCodes (b : Blk) (fmt s z cnt : Nat) (es : List (Nat × Flags)) : Prop :=
  b.length = 64 ∧ b.byte 0 = fmt ∧ b.byte 1 = s ∧ b.byte 2 = z ∧ b.byte 3 = cnt ∧
    ∀ i, i < capOf fmt → codeAt fmt (fun q => b.byte (4 + q)) i = (es.getD i (0, 0)).1

/-- The flags of a list of codes. -/
def flagsOf (es : List (Nat × Flags)) : Flags := es.foldl (fun m x => m ||| x.2) 0

/-- Blocks are encoded and re-encoded as R53 and R54 say. -/
def blocksWritten (fmt z cnt : Nat) (mode : RMode) (fz : Bool) : Prop :=
  (∀ v : Val, (∀ x, v = .fin x → x.sticky = false) → ∀ cb,
    let r := encodeElem fmt z cb mode fz v
    (fmt ≤ 4 → r = ((roundVal (fltOf fmt) mode fz v).1, (roundVal (fltOf fmt) mode fz v).2 ||| if v.isSig then fIV else 0)) ∧
      (fmt = 5 → codebookCode cb v r) ∧ (fmt = 6 → offsetCode 8 z mode v r) ∧ (fmt = 7 → offsetCode 4 z mode v r)) ∧
  (∀ (cb : List Nat) (xs : List Val), xs.length ≤ capOf fmt → (∀ x, Val.fin x ∈ xs → x.sticky = false) →
    scaleIs fmt cb xs ∧
    (∀ fl, scaleCode fmt cb xs = (none, fl) → encodeBlock fmt z cnt cb mode fz xs = (List.replicate 64 0, 0)) ∧
    ∀ s fl, scaleCode fmt cb xs = (some s, fl) →
      let es := xs.map fun v => encodeElem fmt z cb mode fz (v.scale2 (127 - (s : Int)))
      holdsCodes (encodeBlock fmt z cnt cb mode fz xs).1 fmt s z cnt es ∧ (encodeBlock fmt z cnt cb mode fz xs).2 = flagsOf es ||| fl) ∧
  ∀ (b : Blk) (cb : Nat → List Nat) (s : Nat), b.ok = true → b.byte 0 = fmt → b.byte 2 = z → b.byte 3 = cnt →
    let es := (List.range (if cnt = 0 then capOf fmt else cnt)).map fun i =>
      encodeElem fmt z (cb z) mode fz
        ((plainVal fmt z cb fz (codeAt fmt (fun q => b.byte (4 + q)) i)).scale2 ((b.byte 1 : Int) - s))
    holdsCodes (requant b cb mode fz s).1 fmt s z cnt es ∧ (requant b cb mode fz s).2 = flagsOf es

/-- The trap of a block word that reads a malformed block: `FPEXC` where a lane whose block is well formed meets an enabled flag, in those
lanes, since the lowest cause wins (R73); else `BLKFMT` in all active lanes. -/
def malformedTrap (e : Env) (opc : Nat) (ok : Nat → Bool) (g : Nat → Dword × Flags) (s : State)
    (o : Host.Outcome State Fault Refusal) : Prop :=
  let hit (l : Nat) : Prop := l ∈ e.lanes ∧ ok (laneFor e l) = true ∧ (g (laneFor e l)).2 &&& ((e.t.gst >>> 16) &&& 0x1F#32) ≠ 0
  ((∀ l, ¬hit l) → o = .next (takeTrap s e.a (wordOf opc e.f) (Trap.all cBLKFMT 0 e.act))) ∧
    ((∃ l, hit l) → ∃ i, o = .next (takeTrap s e.a (wordOf opc e.f) i) ∧ i.cause = cFPEXC ∧
      ∀ l, l < 64 → (i.lanes.getLsbD l = true ↔ hit l))

end Sys2Proof.Machine

/-- Where the blocks that it reads are well formed, `BDEC` gives each active lane the rounding of its element's value; `BENC` each
active lane its word of the block encoded from its half's values, `AMAX` the scale code of that block or 0; `REQB` its word of the
block re-encoded at the new scale code. A malformed block traps `BLKFMT`, but for a lower `FPEXC` of a lane with a well-formed
block; a scale code outside 1 to 254 traps `BLKFMT`, and a `C4` block under a mode other than `.RN` in `REQB` traps `ILLOP`. `CBLD`
loads the sixteen entries of its codebook register from lanes 0 to 7, and `SCL` rounds a × 2^b once. A flag of `BDEC`, `BENC`,
`REQB` or `SCL` whose trap is enabled traps `FPEXC` as in O32. What a block holds is as R50 to R54 say, from its bytes: which blocks
are well formed, where each element stands, its value, the scale code of a block's values, the code of a value in each format, and
the layout written; the worked block of R53 is one case. Whom a block's flags trap, what stands beyond a count, and that `REQB`
under `.FZ` reads a subnormal element as zero before it rescales it, is the model's reading (notes/assumptions/18.md, 70.md, 72.md,
89.md). -/
def Obligations.BlockWordsComplete : Prop :=
  (∀ (b : Blk) (cb : Nat → List Nat), blockReads b cb) ∧ (∀ cb, targetsAre cb) ∧
  (∀ (fmt z cnt : Nat) (mode : RMode) (fz : Bool), 1 ≤ fmt → fmt ≤ 7 → (fmt = 6 → z ≤ 255) → (fmt = 7 → z ≤ 15) →
    blocksWritten fmt z cnt mode fz) ∧
  (∀ (b : Blk) (cb : Nat → List Nat) (mode : RMode) (fz : Bool) (s : Nat),
    (b.byte 0 = 0 → requant b cb mode fz s = (b, 0)) ∧ (b.byte 0 = 0xFF → requant b cb mode fz s = (b, fBLKERR))) ∧
  encodeBlock 4 0 4 [] .rn false ([0x40400000, 0xBF400000, 0x42C80000, 0x3DCCCCCD].map (widen .f32)) =
    ([4, 0x7E, 0, 4, 0x54, 0xC4, 0x7C, 0x2D] ++ List.replicate 56 0, fIX) ∧
  ∀ (f : Fields) (s : State) (e : Env) (ports : Tab (List (List Word))),
    let blk (l : Nat) : Blk := regBlock e (vIdx f.a) (l / 16)
    let allOk : Prop := ∀ l ∈ e.lanes, (blk l).ok = true
    let fmtTrap (opc : Nat) := Host.Outcome.next (takeTrap s e.a (wordOf opc f) (Trap.all cBLKFMT 0 e.act))
    let cb := groupCb e.t
    (Runs 0x4D f s e ports →
      let g (l : Nat) : Dword × Flags :=
        let x := (blk l).elem cb ((e.vb 32 l).toNat % 2 ^ 32)
        let r := rounded e x.1 (flagged [x.1] x.2)
        (BitVec.ofNat 64 r.1, r.2)
      (¬allOk → NoLate e → malformedTrap e 0x4D (fun l => (blk l).ok) g s (exec (.bdec f) s)) ∧
      (allOk → FlagTrap 0x4D s e g (exec (.bdec f) s)) ∧
      (allOk → NoFlagTrap e g → LaneResult s e ports 32 g (exec (.bdec f) s))) ∧
    (Runs 0x4E f s e ports →
      let g (l : Nat) : Dword × Flags :=
        let r := encodeBlock f.ty (f.xb 8 8) (f.xb 0 8) (cb (f.xb 8 8 % 8)) f.mode f.fz (encValues e (l / 16))
        (r.1.word (l % 16), r.2)
      FlagTrap 0x4E s e g (exec (.benc f) s) ∧ (NoFlagTrap e g → LaneResult s e ports 32 g (exec (.benc f) s))) ∧
    (Runs 0x51 f s e ports →
      let g (l : Nat) : Dword × Flags :=
        let r := scaleCode f.ty (cb (f.xb 8 8 % 8)) (encValues e (l / 16))
        (BitVec.ofNat 64 (r.1.getD 0), r.2)
      (NoFlagTrap e g → LaneResult s e ports 32 g (exec (.amax f) s))) ∧
    (Runs 0x4F f s e ports →
      let sc := (e.vb 64 e.low).toNat
      let c4 : Prop := f.mode ≠ .rn ∧ ∃ l ∈ e.lanes, (blk l).byte 0 = 5
      let g (l : Nat) : Dword × Flags :=
        let r := requant (blk l) cb f.mode f.fz sc
        (r.1.word (l % 16), r.2)
      (c4 → NoLate e → exec (.reqb f) s = .next (takeTrap s e.a (wordOf 0x4F f) (Trap.all cILLOP 0 e.act))) ∧
      (¬c4 → sc < 1 ∨ 254 < sc → NoLate e → exec (.reqb f) s = fmtTrap 0x4F) ∧
      (¬c4 → 1 ≤ sc → sc ≤ 254 → ¬allOk → NoLate e → malformedTrap e 0x4F (fun l => (blk l).ok) g s (exec (.reqb f) s)) ∧
      (¬c4 → 1 ≤ sc → sc ≤ 254 → allOk → FlagTrap 0x4F s e g (exec (.reqb f) s)) ∧
      (¬c4 → 1 ≤ sc → sc ≤ 254 → allOk → NoFlagTrap e g → LaneResult s e ports 32 g (exec (.reqb f) s))) ∧
    (Runs 0x50 f s e ports → ∃ u : Thread, exec (.cbld f) s = .next (regsAfter s e ports u.advance) ∧
      (∀ j, j < 16 →
        u.getK f.d.num j =
          if j / 2 < e.n ∧ e.t.live.getLsbD (j / 2) = true then
            (e.t.getV (vIdx f.a) (j / 2)).extractLsb' (16 * (j % 2)) 16
          else 0) ∧
      (∀ n j, n ≠ f.d.num → j < 16 → u.getK n j = e.t.getK n j) ∧ { u with k := e.t.k } = e.t) ∧
    (Runs 0x52 f s e ports →
      let g (l : Nat) : Dword × Flags :=
        let v := e.fa l
        let r := rounded e (v.scale2 (IntTy.i32.value (e.vb 32 l))) (flagged [v] 0)
        (BitVec.ofNat 64 r.1, r.2)
      FlagTrap 0x52 s e g (exec (.scl f) s) ∧ (NoFlagTrap e g → LaneResult s e ports 32 g (exec (.scl f) s)))

/-! ### Cross-lane words -/

namespace Sys2Proof.Machine

/-- What lane `l` reads from lane `j` of the vector register `A`: its own value, or that of a live lane, else zero (R64, R129). -/
def laneRead (e : Env) (j l : Nat) : Word :=
  if j ≠ l ∧ (e.n ≤ j ∨ e.t.live.getLsbD j = false) then 0 else e.t.getV (vIdx e.f.a) j

/-- A mask of lanes as a destination takes it: whole in a scalar register, else its low or high half by `FN`[0]. -/
def maskResult (e : Env) (m : Mask) : Dword :=
  if e.f.d.isS then m else if e.f.fn.getLsbD 0 then m >>> 32 else m &&& 0xFFFFFFFF

/-- The fold of R132 over lanes `ls`: the accumulated value. -/
def redFold (e : Env) : List Nat → Dword
  | [] => 0
  | l :: r => r.foldl (fun x j => (redStep e x j).1) (redFirst e l).1

/-- The flags that the step of the `k`-th active lane raises. -/
def redFlags (e : Env) (k l : Nat) : Flags :=
  if k = 0 then (redFirst e l).2 else (redStep e (redFold e (e.lanes.take k)) l).2

/-- The difference along one direction of a quad: `step` 1 in a row, 2 in a column (R134). -/
def quadDiff (step : Nat) (e : Env) (l : Nat) : Dword × Flags :=
  let v (j : Nat) : Val := widenFz e.f.fty e.f.fz ((e.t.getV (vIdx e.f.a) j).toNat % 2 ^ e.f.fty.bits)
  if e.t.live.getLsbD (l ^^^ step) then
    let r := fSub e.f.fty e.f.mode e.f.fz (v (l ||| step)) (v ((l ||| step) ^^^ step))
    (BitVec.ofNat 64 r.1, r.2)
  else (0, fQDERR)

/-- The rows of R130 to R134. -/
def crossRows : List LaneRow :=
  [{ make := .shfl, opc := 0x80, width := fun _ => 32,
     val := fun e l =>
       let b := (e.vb 64 l).toNat % 2 ^ 32
       let j := match e.f.fnn with
         | 0 => b % e.n
         | 1 => if b ≤ l then l - b else l
         | 2 => if l + b < e.n then l + b else l
         | _ => l ^^^ (b % e.n)
       ((laneRead e j l).setWidth 64, 0) },
   { make := .bcast, opc := 0x81, width := fun _ => 32,
     val := fun e l =>
       let j := (e.vb 64 l).toNat % 2 ^ 32 % e.n
       let own := e.f.d.isS = false ∧ j = l
       ((if own ∨ e.t.live.getLsbD j = true then e.t.getV (vIdx e.f.a) j else 0).setWidth 64, 0) },
   { make := .vote, opc := 0x82, width := fun _ => 32,
     val := fun e l =>
       let t := e.lanes.length
       let c := e.lanes.countP fun j => (e.t.getP e.f.a.num).getLsbD j
       let b := (e.vb 64 l).toNat % 2 ^ 32
       let holds : Bool := match e.f.fnn with
         | 0 => c = t
         | 1 => 1 ≤ c
         | 2 => c = 0 ∨ c = t
         | 3 => t < 2 * c
         | 4 => c % 2 = 1
         | _ => b ≤ c
       (if holds then 1 else 0, 0) },
   { make := .ballot, opc := 0x83, width := fun _ => 32,
     val := fun e _ => (maskResult e (e.act &&& e.t.getP e.f.a.num), 0) },
   { make := .matchLanes, opc := 0x84, width := fun _ => 32,
     val := fun e l =>
       (maskResult e (maskOf 64 fun j => decide (j ∈ e.lanes) && e.va e.f.ity.width j == e.va e.f.ity.width l), 0) },
   { make := .gred, opc := 0x85, width := fun e => redWidth e.f,
     val := fun e _ =>
       (redFold e e.lanes, (List.range e.lanes.length).foldl (fun m k => m ||| redFlags e k (e.lanes.getD k 0)) 0) },
   { make := .gscan, opc := 0x86, width := fun e => redWidth e.f,
     val := fun e l =>
       let k := e.lanes.findIdx fun j => j = l
       (if e.f.x.getLsbD 0 then if k = 0 then redIdentity e.f else redFold e (e.lanes.take k)
        else redFold e (e.lanes.take (k + 1)), redFlags e k l) },
   { make := .qxch, opc := 0x87, width := fun _ => 32,
     val := fun e l => ((laneRead e (if e.f.fnn ≤ 2 then l ^^^ (e.f.fnn + 1) else l / 4 * 4 + (e.f.fnn - 4)) l).setWidth 64, 0) },
   { make := .ddx, opc := 0x88, width := fun _ => 32, val := quadDiff 1 },
   { make := .ddy, opc := 0x89, width := fun _ => 32, val := quadDiff 2 }]

end Sys2Proof.Machine

/-- `SHFL`, `BCAST` and `QXCH` give each active lane the value of the lane selected, zero from another lane that is not live;
`VOTE`, `BALLOT` and `MATCH` count and mark the active lanes; `GRED` folds the active lanes in rising order, and `GSCAN` gives each
the fold up to it, or before it with the identity first; `DDX` and `DDY` give the difference to the neighbour in the quad, or 0 with
`QDERR` where it is not live. Nothing but the destination and the flags changes; a flag whose trap is enabled traps `FPEXC` as in
O32. A fold begins with the first operand (of the floating-point operations a NaN as the canonical one, with `IV` where it signals,
and under `.FZ` a subnormal as the zero of its sign), and its steps are the fitted sum, the lower, the higher, the bitwise
combination, the rounded sum of `FADD`, and the minimum or maximum of `FMIN` or `FMAX`; the identities are those of R132. -/
def Obligations.CrossLaneWordsComplete : Prop :=
  RowsComplete crossRows ∧ RowsTrapFlags crossRows ∧
  ∀ (e : Env) (x : Dword) (l : Nat),
    let n := e.f.fnn
    let t := e.f.ity
    let y := e.va (redWidth e.f) l
    let r := redStep e x l
    let first := redFirst e l
    let ft := e.f.fty
    let enc (v : Dword) : Nat := v.toNat % 2 ^ ft.bits
    let val (v : Dword) : Val := widenFz ft e.f.fz (enc v)
    let b := enc (e.va 32 l)
    let bits (g : Bool → Bool → Bool) : Prop :=
      r.2 = 0 ∧ r.1 = BitVec.ofInt 64 (t.value r.1) ∧ ∀ i, i < t.width → r.1.getLsbD i = g (x.getLsbD i) (y.getLsbD i)
    let identity (v : Dword) : Prop := redIdentity e.f = v
    (n ≤ 5 → first = (BitVec.ofInt 64 (t.value y), 0)) ∧
      (6 ≤ n → (val (e.va 32 l)).isNan = true →
        first = (BitVec.ofNat 64 ft.cnan, if (val (e.va 32 l)).isSig then fIV else 0)) ∧
      (6 ≤ n → (val (e.va 32 l)).isNan = false →
        first = (BitVec.ofNat 64 (if e.f.fz ∧ isSubnormal ft b then ft.zeroEnc (decide (2 ^ (ft.bits - 1) ≤ b)) else b), 0)) ∧
      (n = 0 → r = t.fit e.f.sat (t.value x + t.value y) ∧ identity 0) ∧
      (n = 1 → r = (BitVec.ofInt 64 (min (t.value x) (t.value y)), 0) ∧ identity (BitVec.ofInt 64 t.max)) ∧
      (n = 2 → r = (BitVec.ofInt 64 (max (t.value x) (t.value y)), 0) ∧ identity (BitVec.ofInt 64 t.min)) ∧
      (n = 3 → bits (fun p q => p && q) ∧ ∀ i, i < t.width → (redIdentity e.f).getLsbD i = true) ∧
      (n = 4 → bits (fun p q => p || q) ∧ identity 0) ∧
      (n = 5 → bits (fun p q => p ^^ q) ∧ identity 0) ∧
      (n = 6 →
        let u := vadd e.f.mode (val x) (val (e.va 32 l))
        let z := rounded e u.1 (flagged [val x, val (e.va 32 l)] u.2)
        r = (BitVec.ofNat 64 z.1, z.2) ∧ identity (BitVec.ofNat 64 (ft.zeroEnc true))) ∧
      (n = 7 →
        r = (BitVec.ofNat 64 (fMinMax ft e.f.fz false (enc x) b).1, (fMinMax ft e.f.fz false (enc x) b).2) ∧
          identity (BitVec.ofNat 64 (ft.infEnc false))) ∧
      (n = 8 →
        r = (BitVec.ofNat 64 (fMinMax ft e.f.fz true (enc x) b).1, (fMinMax ft e.f.fz true (enc x) b).2) ∧
          identity (BitVec.ofNat 64 (ft.infEnc true)))

/-- Where no uncorrectable result is outstanding, `REGRP` moves each active lane's registers, predicates, `ORIGID` and `HELP` so
that the active positions hold the active lanes in rising order of their key, equal keys in lane order; the destination holds the
lane that each position came from; inactive lanes, their `ORIGID` too, and everything else are as before, the group's outstanding
results written first. The register tables are taken in rising order, which every register write keeps. -/
def Obligations.RegroupSortsLanes : Prop :=
  (∀ (f : Fields) (s : State) (e : Env) (ports : Tab (List (List Word))), Runs 0x8A f s e ports → NoLate e →
    let t := e.t.drain
    let key (l : Nat) : Int := f.ity.value ((t.getV (vIdx f.a) l).setWidth 64)
    let d := vIdx f.d
    ∃ (u : Thread) (order : List Nat), exec (.regrp f) s = .next (regsAfter s e ports u.advance) ∧ order.Perm e.lanes ∧
      order.Pairwise (fun x y => key x < key y ∨ key x = key y ∧ x < y) ∧
      (∀ k p q : Nat, e.lanes[k]? = some p → order[k]? = some q →
        u.getV d p = BitVec.ofNat 32 q ∧ u.help.getLsbD p = t.help.getLsbD q ∧
          (trising t.v = true → trising t.xv = true → ∀ m, m ≠ d → u.getV m p = t.getV m q) ∧
          (∀ m, m < 15 → (u.getP m).getLsbD p = (t.getP m).getLsbD q) ∧
          (trising t.origid = true → (∀ x ∈ t.origid, x.1 < 64) → tget 0 p u.origid = tget 0 q t.origid)) ∧
      (∀ l, l < 64 → l ∉ e.lanes →
        u.help.getLsbD l = t.help.getLsbD l ∧ (trising t.v = true → trising t.xv = true → ∀ m, u.getV m l = t.getV m l) ∧
          (∀ m, m < 15 → (u.getP m).getLsbD l = (t.getP m).getLsbD l) ∧
          (trising t.origid = true → (∀ x ∈ t.origid, x.1 < 64) → tget 0 l u.origid = tget 0 l t.origid)) ∧
      { u with v := t.v, xv := t.xv, p := t.p, help := t.help, origid := t.origid, bad := t.bad } = t) ∧
  ∀ (t : Thread) (n l : Nat) (v : Word), trising t.v = true → trising t.xv = true →
    trising (t.setV n l v).v = true ∧ trising (t.setV n l v).xv = true

/-! ### Memory words -/

namespace Sys2Proof.Machine

/-- The byte at a physical address as the stores of a core's die stand: the core's own store that its L1 still holds, else that of
its die's remote-data cache, else the byte at its home (R151, R296, R297). Copies that no store made play no part. -/
def State.ownByte (s : State) (core q : Nat) : Byte :=
  let below : Byte :=
    match (rdcDie (dieOfCore core) q).bind fun d => tlook q (s.die d).rdc with
    | some c => if c.dirty then c.val else s.homeByte q
    | none => s.homeByte q
  match tlook q (s.core core).l1 with
  | some c => if c.dirty then c.val else below
  | none => below

/-- What a read at L1 or at the remote-data cache of a core's die may give for a byte: what the stores of its die leave it, or a copy that
the L1 or that cache holds, which no acquire has invalidated (R151, R298). -/
def State.mayRead (s : State) (core q : Nat) (b : Byte) : Prop :=
  b = s.ownByte core q ∨ (∃ c, tlook q (s.core core).l1 = some c ∧ c.val = b) ∨
    ∃ d c, rdcDie (dieOfCore core) q = some d ∧ tlook q (s.die d).rdc = some c ∧ c.val = b

/-- The bytes of lanes `ok`, `n` each, as a core may read them at a place: at the home slice those that the stores of its die leave. -/
def readsOf (s : State) (core : Nat) (pl : Place) (n : Nat) (ok : List (Nat × Nat)) (bytes : Nat → List Byte) : Prop :=
  ∀ x ∈ ok, (bytes x.1).length = n ∧ ∀ i, i < n →
    s.mayRead core (x.2 + i) ((bytes x.1).getD i 0) ∧ (pl = .home → (bytes x.1).getD i 0 = s.ownByte core (x.2 + i))

/-- The L1 tables and the remote-data caches list their bytes in rising order. -/
def State.cachesRising (s : State) : Prop :=
  (∀ c, trising (s.core c).l1 = true) ∧ ∀ d, trising (s.die d).rdc = true

/-- The physical address is one of memory: no control block and no window of the storage port. -/
def plainMem (p : Nat) : Prop := devPlace p = none ∧ pcieSpace p = false

/-- Every lane of a memory word passes the checks of R154 and R319, and each is of memory. -/
def AllPass (m : MemOp) (e : Env) (s : State) : Prop := (m.check e s).bad = [] ∧ ∀ x ∈ (m.check e s).ok, plainMem x.2

/-- The results of a list of lanes, in their order. -/
def writesOf (l : List Writes) : Writes := l.foldl Writes.append Writes.none

/-- The state in which the lanes of a memory word are performed: translations cached, and what precedes an ordering done. -/
def startOf (m : MemOp) (pl : Place) (e : Env) (s : State) : State :=
  let r := m.check e s
  ordered r.st e.a (s.coreNo e.a) (e.f.fnn % 4) (scopeOf e.f.ty) pl r.ok

/-- The state in which the lanes of a scratchpad word on the block's own core are performed: what precedes an ordering done, and the
core's own earlier stores to those bytes that other cores accepted performed (R164, R247). -/
def scratchStart (m : MemOp) (e : Env) (s : State) (ok : List (Nat × Nat × Nat)) : State :=
  (if ok.isEmpty then s else s.before (s.coreNo e.a) (e.f.fnn % 4) (scopeOf e.f.ty) [] []).performPosted fun x =>
    x.core = s.coreNo e.a && ok.any fun y => y.2.1 = x.block && decide (y.2.2 < x.off + x.bytes.length) && decide (x.off < y.2.2 + m.size)

end Sys2Proof.Machine

/-- Where every lane passes its checks and is of memory, `LD` completes with each lane's destination holding the bytes at its
physical address, extended by zeros or the sign, and `LDK` with the sixteen entries of its codebook register from 32 bytes: at the
home slice the bytes that the stores of the core's die leave, and nearer those or a copy that the L1 or the remote-data cache holds.
Neither changes what the core and its die have stored. `LDS` whose lanes are all within windows of the block's own core completes
with the bytes of the windows. Under a lookahead count the results are outstanding instead. -/
def Obligations.LoadWordsComplete : Prop :=
  ∀ (f : Fields) (s : State) (e : Env) (ports : Tab (List (List Word))),
    let core := s.coreNo e.a
    let sc := scopeOf f.ty
    let pl := placeOf core sc
    (Runs 0xA0 f s e ports → AllPass (ldShape e) e s → (startOf (ldShape e) pl e s).cachesRising →
      let r := (ldShape e).check e s
      let u := startOf (ldShape e) pl e s
      ∃ (v : State) (bytes : Nat → List Byte), readsOf u core pl (2 ^ f.size) r.ok bytes ∧
        (∀ q, v.ownByte core q = u.ownByte core q) ∧ v.threads = u.threads ∧ v.blocks = u.blocks ∧
        exec (.ld f) s =
          .next (wordEnd
            (complete e (if r.ok.isEmpty then v else v.after core (f.fnn % 4) sc)
              (writesOf (r.ok.map fun x => loadWrites f x.1 (bytes x.1))) 0 0 0 []) e ports)) ∧
    (Runs 0xA4 f s e ports →
      let m : MemOp := { who := e.act, once := true, off24 := false, acc := .read, size := 32, data := true }
      AllPass m e s → s.cachesRising →
      let r := m.check e s
      ∃ (v : State) (bytes : Nat → List Byte), readsOf r.st core pl 32 r.ok bytes ∧
        (∀ q, v.ownByte core q = r.st.ownByte core q) ∧ v.threads = s.threads ∧ v.blocks = s.blocks ∧
        exec (.ldk f) s =
          .next (wordEnd (complete e v (writesOf (r.ok.map fun x => kWrites f.d.num (bytes x.1))) 0 0 0 []) e ports)) ∧
    (Runs 0xA2 f s e ports → (scratchFates (scratchShape e) e s).2 = [] →
      (∀ l ∈ (scratchShape e).lanes e, isRemote s e.a ((scratchShape e).addr e l) = false) →
      let r := scratchFates (scratchShape e) e s
      let u := scratchStart (scratchShape e) e s r.1
      exec (.lds f) s =
        .next (wordEnd
          (complete e (orderedEnd u core (f.fnn % 4) sc (!r.1.isEmpty))
            (writesOf (r.1.map fun x => loadWrites f x.1 (spadRead u x.2.1 x.2.2 (2 ^ f.size)))) 0 0 0 []) e ports))

/-- Where every lane passes its checks and is of memory, `ST` completes: each byte that its lanes store, at the physical address that
the checks give, has the value that the last lane to store it stores, and every other byte reads, by the core's die's own stores and
memory, as it did once the addresses were translated and what an ordering puts before the word was done; an untranslated word changes
nothing by its translation, and only what precedes an SC word (the SC accesses of others at its places) changes a byte. Only the pc
of the registers changes. `STS` whose lanes are all within windows of the block's own core completes with its bytes written there. -/
def Obligations.StoreWordsComplete : Prop :=
  ∀ (f : Fields) (s : State) (e : Env) (ports : Tab (List (List Word))),
    let core := s.coreNo e.a
    let sc := scopeOf f.ty
    let pl := placeOf core sc
    let o := f.fnn % 4
    (Runs 0xA1 f s e ports → AllPass (stShape e) e s → (startOf (stShape e) pl e s).cachesRising →
      let r := (stShape e).check e s
      let u := startOf (stShape e) pl e s
      let n := 2 ^ f.size
      ∃ t : State, exec (.st f) s = .next t ∧
        (∀ q, (∀ x ∈ r.ok, q < x.2 ∨ x.2 + n ≤ q) → t.ownByte core q = u.ownByte core q) ∧
        (∀ (front back : List (Nat × Nat)) (l p i : Nat), r.ok = front ++ (l, p) :: back → i < n →
          (∀ x ∈ back, p + i < x.2 ∨ x.2 + n ≤ p + i) → t.ownByte core (p + i) = (storeData e n l).getD i 0) ∧
        t.threads = (u.setThread e.a e.t.advance).threads ∧ t.cachesRising ∧
        (physicalOf s e.a = true → r.st = s ∧ (o ≠ 3 → ∀ q, u.ownByte core q = s.ownByte core q)) ∧
        (o ≠ 3 → u.threads = s.threads)) ∧
    (Runs 0xA3 f s e ports → (scratchFates (scratchShape e) e s).2 = [] →
      (∀ l ∈ (scratchShape e).lanes e, isRemote s e.a ((scratchShape e).addr e l) = false) →
      let r := (scratchFates (scratchShape e) e s).1
      exec (.sts f) s =
        .next (wordEnd
          (orderedEnd
            (r.foldl (fun u x => spadWrite u x.2.1 x.2.2 (storeData e (2 ^ f.size) x.1)) (scratchStart (scratchShape e) e s r))
            core o sc (!r.isEmpty)) e ports))

/-- For every place where accesses are performed, the L1, the die's remote-data cache or the home slice: the bytes that a core
stores are the bytes that it then loads there, whatever the classes of both accesses and whichever lines give way, and a store
changes no other byte as the core's die's own stores and memory give it; nor does a load change any. Stores, loads, releases and
acquires keep the caches' tables in rising order. -/
def Obligations.StoreThenLoadReturnsBytes : Prop :=
  ∀ (s : State) (core p : Nat) (pl : Place) (c k : Cls) (bs : List Byte), s.cachesRising →
    let t := s.storeBytes core pl c p bs
    (t.loadBytes core pl k p bs.length).1 = bs ∧
      (∀ q, q < p ∨ p + bs.length ≤ q → t.ownByte core q = s.ownByte core q) ∧
      (∀ i, i < bs.length → t.ownByte core (p + i) = bs.getD i 0) ∧
      (∀ n q, (s.loadBytes core pl k p n).2.ownByte core q = s.ownByte core q) ∧
      t.cachesRising ∧ (∀ n, (s.loadBytes core pl k p n).2.cachesRising) ∧
      ∀ sc q, (s.release core sc).ownByte core q = s.ownByte core q ∧ (s.acquire core sc).ownByte core q = s.ownByte core q ∧
        (s.release core sc).cachesRising ∧ (s.acquire core sc).cachesRising

/-- Where lanes of an `ST` fail their checks, the other lanes store, and the word takes the trap of the lowest cause among them, in the
lanes that met that cause, with the kind of access as cause detail, and with the lanes' addresses; the agent keeps a replay entry
with the word and exactly the lanes that met a cause, at their addresses. A word of scalar data is performed once, and its one cause
stands for every lane that it is performed for, at the performing lane's address. An `LD` does the same for lanes that are not helpers,
with the passing lanes' results written; a helper lane that fails receives 0 and traps not. Under a lookahead count it traps at once
too, but where every such lane met uncorrectable data of memory, outside a replay: then it completes, and its outstanding results note
those lanes with their addresses. -/
def Obligations.FailingLanesTrapAndReplay : Prop :=
  ∀ (f : Fields) (s : State) (e : Env) (ports : Tab (List (List Word))),
    let core := s.coreNo e.a
    let sc := scopeOf f.ty
    let pl := placeOf core sc
    let o := f.fnn % 4
    let met (m : MemOp) (bad : List (Nat × Cause)) (l : Nat) : Prop :=
      if f.d.isS then m.who.getLsbD l = true else ∃ x ∈ bad, x.1 = l
    let place (m : MemOp) (bad : List (Nat × Cause)) (l : Nat) : Dword :=
      m.addr e (if f.d.isS then (bad.map Prod.fst).headD l else l)
    let failed (opc : Nat) (m : MemOp) (bad : List (Nat × Cause)) (c : Nat) (i : Trap) (u : Replay) : Prop :=
      i.cause = c ∧ i.cdetail = BitVec.ofNat 64 m.acc.kind ∧
        (∀ l, l < 64 → (i.lanes.getLsbD l = true ↔ met m (bad.filter fun x => x.2.code = c) l)) ∧
        (∀ l ∈ e.lanes, tget 0 l i.addrs = place m bad l) ∧
        u.pc = e.t.pc ∧ u.armed = false ∧ u.word = wordOf opc f ∧ (∀ l, l < 64 → (u.lanes.getLsbD l = true ↔ met m bad l)) ∧
        ∀ l ∈ lanesOf e.n u.lanes, tget 0 l u.addrs = place m bad l
    (Acc.kind .read = 0 ∧ Acc.kind .write = 1) ∧
    (Runs 0xA1 f s e ports → NoLate e → ∀ c, (((stShape e).check e s).bad.map fun x => x.2.code).min? = some c →
      let m := stShape e
      let r := m.check e s
      let any := !r.ok.isEmpty
      ∃ i u, exec (.st f) s =
          .next (takeTrap (((orderedEnd (storeLanes (startOf m pl e s) core pl (e.cls s) (storeData e m.size) r.ok)
            core o sc any)).modThread e.a fun t => { t with replay := some u }) e.a (wordOf 0xA1 f) i) ∧
        failed 0xA1 m r.bad c i u) ∧
    (Runs 0xA0 f s e ports →
      let m := ldShape e
      let r := m.check e s
      let bad := r.bad.filter fun x => !e.t.help.getLsbD x.1
      let any := !r.ok.isEmpty
      let x := loadLanes (startOf m pl e s) core pl (e.cls s) m.size (loadWrites f) r.ok
      let w := writesOf ([x.1] ++ (r.bad.filter fun x => e.t.help.getLsbD x.1).map fun y => loadWrites f y.1 (List.replicate m.size 0))
      let late : Prop := f.la ≠ 0 ∧ e.bad = 0 ∧ e.replay? = none ∧ ∀ x ∈ bad, x.2 = ⟨cECCU, 1⟩
      (∀ c, (bad.map fun x => x.2.code).min? = some c → NoLate e → ¬late →
        ∃ i u, exec (.ld f) s =
            .next (takeTrap ((writeNow e (orderedEnd x.2 core o sc any) w).modThread e.a fun t => { t with replay := some u }) e.a
              (wordOf 0xA0 f) i) ∧
          failed 0xA0 m bad c i u) ∧
      (late → bad ≠ [] →
        ∃ lanes addrs, exec (.ld f) s = .next (wordEnd (complete e (orderedEnd x.2 core o sc any) w 0 lanes 1 addrs) e ports) ∧
          (∀ l, l < 64 → (lanes.getLsbD l = true ↔ met m bad l)) ∧ ∀ l ∈ lanesOf e.n lanes, tget 0 l addrs = place m bad l))

/-- Where every lane passes its checks, `ATOM` and `RED` perform, lane by lane in rising order, the read of the old value and the
write of the value that their operation gives on it (R157), at the place of their scope; `ATOM` writes the old values, and 0 in a
helper lane. `ATOM2` merges the lanes of one address into one request, the sum of whose halves is added once. A slice first ends the
request of another agent's `ATOM2` whose low half it has performed at those words: it performs its high half. What precedes and
follows an ordering is done once for the word. The operations are those of the table of R157, signed and unsigned, and `FADD` the
nearest `F32` to the exact sum; each half of a sum of `ATOM2` is the nearest value of its format to the exact sum of the halves,
subnormals kept. -/
def Obligations.AtomicWordsComplete : Prop :=
  ∀ (f : Fields) (s : State) (e : Env) (ports : Tab (List (List Word))),
    let core := s.coreNo e.a
    let sc := scopeOf f.ty
    let o := f.fnn % 4
    let done (acc : Acc) : State × List (Nat × Nat) :=
      let m := atomShape e acc
      let r := m.check e s
      let u := startOf m (placeAtom core sc) e s
      let x := atomLanes e (if placeAtom core sc = .home then u.endAll e.a m.size r.ok else u) core (placeAtom core sc) m.size r.ok
      (if r.ok.isEmpty then x.2 else x.2.after core o sc, x.1)
    let old (w : Nat) (l : List (Nat × Nat)) : Writes := writesOf (l.map fun y => laneWrite f.d w y.1 (BitVec.ofNat 64 y.2))
    let zero : List (Nat × Nat) := (lanesOf e.n (e.act &&& e.t.help)).map fun l => (l, 0)
    (Runs 0xA5 f s e ports → ((atomShape e .atomic).check e s).bad = [] →
      exec (.atom f) s =
        .next (wordEnd (complete e (done .atomic).1 (old (8 * 2 ^ f.size) ((done .atomic).2 ++ zero)) 0 0 0 []) e ports)) ∧
    (Runs 0xA6 f s e ports → ((atomShape e .red).check e s).bad = [] →
      exec (.red f) s = .next (wordEnd (complete e (done .red).1 Writes.none 0 0 0 []) e ports)) ∧
    (Runs 0xA7 f s e ports →
      let m := atom2Shape e
      let r := m.check e s
      let x := atom2Groups (if f.xb 24 5 = 0 then .bf16 else .f16) core (e.cls s)
        ((startOf m .home e s).endAll e.a 4 r.ok) (atom2Reqs e r.ok)
      r.bad = [] →
      exec (.atom2 f) s =
        .next (wordEnd
          (complete e (if r.ok.isEmpty then x.2 else x.2.after core o sc) (old 32 (x.1 ++ zero)) 0 0 0 []) e ports)) ∧
    (∀ (a : Agent) (p n : Nat),
      let none? (y : Agent × Thread) : Prop := y.1 = a ∨ ∀ j, y.2.job = some j → j.openHalf p n = none
      ((∀ y ∈ s.threads, none? y) → s.endRequests a p n = s) ∧
      (∀ front back b t j x, s.threads = front ++ (b, t) :: back → (∀ y ∈ front, none? y) → (∀ y ∈ back, none? y) → b ≠ a →
        t.job = some j → j.openHalf p n = some x →
        (j.opc = 0xA7 ∧ x ∈ j.parts ∧ x.off = 2 ∧ (∀ y ∈ j.parts, y.off = 0 → y.lane ≠ x.lane) ∧ x.phys < p + n + 2 ∧
          p < x.phys + 2) ∧
        let r := atom2Half s (s.coreNo b) (classOf s b j.f.cc) (atom2Fmt j.f) x.phys x.b
        s.endRequests a p n = r.2.modThread b fun t => { t with job := some (j.done x (leBytes 2 r.1)) })) ∧
    (∀ w m b d, atomNew 0x0 w m b d = (m + b) % 2 ^ w ∧ atomNew 0x9 w m b d = (if m = d then b else m) ∧
      atomNew 0x8 w m b d = b ∧ atomNew 0xA w m b d = (if m ≥ b then 0 else m + 1) ∧
      atomNew 0x3 w m b d = min m b ∧ atomNew 0x4 w m b d = max m b ∧ atomNew 0x5 w m b d = m &&& b ∧
      atomNew 0x6 w m b d = m ||| b ∧ atomNew 0x7 w m b d = m ^^^ b ∧
      (0 < w → m < 2 ^ w → b < 2 ^ w →
        let sg (x : Nat) : Int := if 2 ^ (w - 1) ≤ x then (x : Int) - 2 ^ w else x
        atomNew 0x1 w m b d = (if sg b < sg m then b else m) ∧ atomNew 0x2 w m b d = (if sg m < sg b then b else m)) ∧
      atomNew 0xB w m b d = (roundVal .f32 .rn false (vadd .rn (widen .f32 m) (widen .f32 b)).1).1) ∧
    (∀ t x y, t = FFmt.bf16 ∨ t = .f16 →
      let sum (p q : Nat) : Nat := (roundVal t .rn false (vadd .rn (widen t (p % 65536)) (widen t (q % 65536))).1).1
      add16x2 t x y % 65536 = sum x y ∧ add16x2 t x y / 65536 = sum (x / 65536) (y / 65536)) ∧
    [add16 .bf16 0x3B80 0x3B80, add16 .bf16 0x3F80 0x3C00, add16 .bf16 0x3F80 0x3B80, add16 .bf16 0 1, add16 .bf16 0x7F80 0xFF80] =
      [0x3C00, 0x3F81, 0x3F80, 1, 0x7FC0]

/-- `FENCE` releases and acquires as its suffix says, with a tick of the core's clock for a sequentially consistent one. `LOCK` pins the
line of each passing lane, or not, with the status in its destination; `UNLOCK` removes the pins of the context; `PRF` brings the lines
of the passing lanes into the L1 or the remote-data cache; `RDCI` over a range of at most 2^30 bytes writes back, invalidates, or both,
the range's lines in the remote-data cache of the die, and of a greater length traps `ILLOP`. Which status of `LOCK` comes first, and
which lines count, is a reading of the rules (notes/assumptions/33.md). -/
def Obligations.FencesPinsAndPrefetches : Prop :=
  ∀ (f : Fields) (s : State) (e : Env) (ports : Tab (List (List Word))),
    let core := s.coreNo e.a
    (Runs 0xA8 f s e ports →
      let o := f.fnn % 4
      let sc := scopeOf f.ty
      let s1 := if o = 3 then s.scTick core [] [] else s
      let s2 := if o = 1 then s1 else s1.release core sc
      exec (.fence f) s = .next (wordEnd (if o = 2 then s2 else s2.acquire core sc) e ports)) ∧
    (Runs 0xA9 f s e ports → ((lineShape e .read).check e s).bad = [] →
      let r := (lineShape e .read).check e s
      let x := lockLanes r.st (f.fn.getLsbD 2) core (s.asidOf e.a) (e.cls s) r.ok []
      exec (.lock f) s =
        .next (wordEnd (writeNow e x.2 (writesOf (x.1.map fun y => laneWrite f.d 32 y.1 (BitVec.ofNat 64 y.2)))) e ports)) ∧
    (Runs 0xAA f s e ports → ((lineShape e .unlock).check e s).bad = [] →
      let r := (lineShape e .unlock).check e s
      exec (.unlock f) s =
        .next (wordEnd (r.ok.foldl (fun u x =>
          setPins u (f.fn.getLsbD 2) core (x.2 / 128)
            ((pinsAt u (f.fn.getLsbD 2) core (x.2 / 128)).filter fun y => y ≠ (x.2 / 128, s.asidOf e.a))) r.st) e ports)) ∧
    (Runs 0xAB f s e ports →
      let r := (lineShape e .prefetch).check e s
      exec (.prf f) s =
        .next (wordEnd (r.ok.foldl (fun u x =>
          if f.cc = 3 ∧ f.fn.getLsbD 2 = false then u else fillLine u core (x.2 / 128) (f.fn.getLsbD 2) (e.cls s)) r.st) e ports)) ∧
    (Runs 0xAF f s e ports →
      let lo := (e.va 64 e.low).toNat
      let len := (e.vb 64 e.low).toNat
      let r := rangePages e s lo ((lo + len - 1) / 4096 - lo / 4096 + 1)
      let z := inRange r.1 lo (lo + len)
      let s1 := if f.fn = 1 then r.2 else r.2.releaseIn core .pkg z
      (2 ^ 30 < len → NoLate e → exec (.rdci f) s = .next (takeTrap s e.a (wordOf 0xAF f) (Trap.all cILLOP 0 e.act))) ∧
      (len = 0 → exec (.rdci f) s = .next (wordEnd s e ports)) ∧
      (0 < len → len ≤ 2 ^ 30 →
        exec (.rdci f) s = .next (wordEnd (if f.fn = 0 then s1 else s1.acquireIn core .pkg z) e ports)))

/-! ### Barriers and clauses -/

namespace Sys2Proof.Machine

/-- A barrier after an arrival of agent `i` with count `k`, as R168 lists it. -/
def arrived (b : Barrier) (i k : Nat) : Barrier :=
  let full := b.exp ≤ b.cnt + k
  { exp := b.exp, cnt := if full then b.cnt + k - b.exp else b.cnt + k, ph := if full then !b.ph else b.ph,
    arr := if full then 0 else withBit b.arr i true, tv := withBit b.tv i true, tp := withBit b.tp i b.ph }

/-- A barrier with a token of agent `i`, made of its phase where the agent has none. -/
def tokened (b : Barrier) (i : Nat) : Barrier :=
  if b.tv.getLsbD i then b else { b with tv := withBit b.tv i true, tp := withBit b.tp i b.ph }

/-- The word of an agent whose block has barrier `b` at `n` as it waits there: it goes on with its token cleared and an acquire
where the phase is another than its token's, and parks else. -/
def waitOn (s : State) (e : Env) (ports : Tab (List (List Word))) (k : Block) (n : Nat) (b : Barrier) : State :=
  let i := agentIndex e.a
  let t := tokened b i
  if t.ph = t.tp.getLsbD i then
    wordStays (park (s.setBlock (s.blockNo e.a) (k.setBar n t)) e.a .bar n) e ports
  else
    wordEnd ((s.setBlock (s.blockNo e.a) (k.setBar n { t with tv := withBit t.tv i false })).acquire (s.coreNo e.a) .core) e ports

/-- Group `g` of block `b` waits evicted on barrier `n`, as its record says, and the barrier's phase is another than its token's, a
completion that its record does not have yet. -/
def endsEvicted (s : State) (b n : Nat) (k : Block) (g : Nat) : Prop :=
  g < k.ngrp ∧ (∃ t, s.thread? (.group b g) = some t ∧ t.gstate = .evicted ∧ t.wait = .bar ∧ t.warg.toNat = n) ∧
    k.barDone.getLsbD g = false ∧ (k.bar n).ph ≠ (k.bar n).tp.getLsbD g

/-- A key with no cycles counted for its waiters. -/
def recounted (y : KeyEnt) : KeyEnt := { y with waiters := y.waiters.map fun w => { w with cycles := 0 } }

/-- The lane's key on its home die is held by the lane at the lane's sequence, unpoisoned. -/
def holdsKey (s : State) (e : Env) (t : State) (l : Nat) : Prop :=
  ∃ x : KeyEnt, t.findKey (keyHome (s.dieNo e.a) (e.va 64 l)) (s.asidOf e.a) (e.va 64 l) = some x ∧
    x.holder = some (holderOf e.bg.1 e.bg.2 e.t l) ∧ x.nseq = (e.vb 32 l).setWidth 32 ∧ x.poison = false

/-- The trap of a word some of whose requests failed: the lowest cause among them, with the detail of the first lane that met it, in
all active lanes, or for `CLPOISON` in the lanes that met it, and with the keys of the calling lanes (R73, R255). -/
def entryTrap (e : Env) (r : Requests) (i : Trap) : Prop :=
  (∃ x ∈ r.fails, x.2.1 = i.cause) ∧ (∀ x ∈ r.fails, i.cause ≤ x.2.1) ∧
    ((r.fails.find? fun x => x.2.1 = i.cause).map fun x => x.2.2) = some i.detail ∧
    (i.cause ≠ cCLPOISON → i.lanes = e.act) ∧
    (i.cause = cCLPOISON → ∀ l, l < 64 → (i.lanes.getLsbD l = true ↔ ∃ x ∈ r.fails, x.1 = l ∧ x.2.1 = cCLPOISON)) ∧
    ∀ l ∈ lanesOf e.n e.calling, tget 0 l i.addrs = e.va 64 l

/-- What becomes of the entries that the requests made: where a lane met `CLDEAD` or `QUOTA` the group holds none of their keys, whose
sequences stay as they were; where every failure is `CLPOISON` nothing is given back (R255). -/
def entriesBack (asid : BitVec 16) (e : Env) (r : Requests) (u : State) : Prop :=
  ((∀ x ∈ r.fails, x.2.1 = cCLPOISON) → u = r.st) ∧
    ((∃ x ∈ r.fails, x.2.1 ≠ cCLPOISON) → ∀ x ∈ r.made, ∀ y, u.findKey x.1 asid x.2 = some y →
      (∀ h, y.holder = some h → ¬(h.block = e.bg.1 ∧ h.grp = e.bg.2)) ∧
        ∀ z, r.st.findKey x.1 asid x.2 = some z → y.nseq = z.nseq ∧ y.poison = z.poison)

/-- The edges that a depth-first walk from the edges `es` visits, where it ends within depth `d` and does not come back to group `g` of
block `b`. -/
def walkSize (s : State) (b g : Nat) : Nat → List Edge → Option Nat
  | 0, _ => none
  | d + 1, es =>
    es.foldr
      (fun y acc =>
        if y.hold.block = b ∧ y.hold.grp = g then none
        else
          match walkSize s b g d (edgesOf s y.hold.block y.hold.grp), acc with
          | some i, some j => some (i + j + 1)
          | _, _ => none) (some 0)

/-- The path is the first cycle through group `g` of block `b` in depth-first order from the edges `es`, and at most `n` edges are
visited up to its end: what precedes an edge of the path at its group is visited without coming back (R257). -/
def cycleFirst (s : State) (b g : Nat) : Nat → List Edge → List Edge → Prop
  | _, _, [] => False
  | n, es, x :: r =>
    ∃ before rest i, es = before ++ x :: rest ∧ walkSize s b g 65 before = some i ∧ i + 1 ≤ n ∧
      if x.hold.block = b ∧ x.hold.grp = g then r = []
      else cycleFirst s b g (n - i - 1) (edgesOf s x.hold.block x.hold.grp) r

end Sys2Proof.Machine

/-- `BARI` gives its barrier an expected count of 1 to 65,535 with no arrival, and keeps phase and tokens; it traps `ILLOP` for another
count. `BARA` is a release at `CORE`, and adds its count; a count that reaches the expected count changes the phase and empties the
arrival set; a count of 0 or above the expected count traps. (A matrix stream whose unit still works at its tiles is left out: it waits
first, R193.) `BARW`, and `BARA.W` after its arrival, go on where the phase is another
than the agent's token, made now where there is none, with the token cleared and an acquire at `CORE`, and else park. A parked agent
whose phase has changed goes on after its word, and no other does. A completion ends the waits of evicted groups in their records, with
their tokens cleared (R171), and changes nothing else of the block. -/
def Obligations.BarrierWordsComplete : Prop :=
  ∀ (f : Fields) (s : State) (e : Env) (ports : Tab (List (List Word))) (k : Block), e.blk s = some k →
    let n := f.fnn
    let i := agentIndex e.a
    let core := s.coreNo e.a
    let b := k.bar n
    let at' (u : State) (x : Barrier) : State := u.setBlock (s.blockNo e.a) (k.setBar n x)
    let kk := endEvicted (s.release core .core) (s.blockNo e.a) n (k.setBar n (arrived b i e.count))
    let after := (s.release core .core).setBlock (s.blockNo e.a) kk
    (Runs 0xAC f s e ports → 0 < e.count → e.count ≤ 65535 →
      exec (.bari f) s = .next (wordEnd (at' s { b with exp := e.count, cnt := 0, arr := 0 }) e ports)) ∧
    (Runs 0xAC f s e ports → NoLate e → e.count = 0 ∨ 65535 < e.count →
      exec (.bari f) s = .next (takeTrap s e.a (wordOf 0xAC f) (Trap.all cILLOP 0 e.act))) ∧
    (Runs 0xAD f s e ports → 0 < e.count → e.count ≤ b.exp → matrixBusy s e.a = false → f.mod.getLsbD 0 = false →
      exec (.bara f) s = .next (wordEnd after e ports)) ∧
    (Runs 0xAD f s e ports → 0 < e.count → e.count ≤ b.exp → matrixBusy s e.a = false → f.mod.getLsbD 0 = true →
      exec (.bara f) s = .next (waitOn after e ports kk n (kk.bar n))) ∧
    (Runs 0xAD f s e ports → NoLate e → e.count = 0 ∨ b.exp < e.count →
      exec (.bara f) s = .next (takeTrap s e.a (wordOf 0xAD f) (Trap.all cILLOP 0 e.act))) ∧
    (Runs 0xAE f s e ports → exec (.barw f) s = .next (waitOn s e ports k n b)) ∧
    (∀ (a : Agent) (t : Thread) (k' : Block), s.thread? a = some t → s.block? (s.blockNo a) = some k' → t.wait = .bar →
      t.gstate ≠ .evicted →
      let b' := k'.bar t.warg.toNat
      exec (.barrierRelease a) s =
        .next (if b'.ph = b'.tp.getLsbD (agentIndex a) then s
          else ((wake (s.setBlock (s.blockNo a)
            (k'.setBar t.warg.toNat { b' with tv := withBit b'.tv (agentIndex a) false })) a).modThread a Thread.advance).acquire
              (s.coreNo a) .core)) ∧
    (∀ (a : Agent) (t : Thread), s.thread? a = some t → t.wait ≠ .bar ∨ t.gstate = .evicted →
      exec (.barrierRelease a) s = .next s) ∧
    ∀ (u : State) (d m : Nat) (k' : Block), m < k'.bars.length →
      let q := endEvicted u d m k'
      { q with bars := k'.bars, barDone := k'.barDone } = k' ∧ (∀ j, j ≠ m → q.bar j = k'.bar j) ∧
        { q.bar m with tv := (k'.bar m).tv } = k'.bar m ∧
        ∀ g, g < 64 →
          (endsEvicted u d m k' g → q.barDone.getLsbD g = true ∧ (q.bar m).tv.getLsbD g = false) ∧
            (¬endsEvicted u d m k' g → q.barDone.getLsbD g = k'.barDone.getLsbD g ∧ (q.bar m).tv.getLsbD g = (k'.bar m).tv.getLsbD g)

/-- A request is answered as the table of R254 says, in its order, with at most eight clauses a lane. A `CLENT` all of whose
requests are entered goes on, after an acquire for each key, with every calling lane's key held by that lane at the lane's sequence;
one with a request not answered parks, and its requests stay with it. `CLTRY` none of whose requests failed goes on with the mask of
the lanes that entered as its result, and the keys of exactly those lanes are held by them as their result says. A word some of
whose requests failed, with none left waiting, traps the lowest cause, and where a lane met `CLDEAD` or `QUOTA` gives back the
entries that it made. A word whose access to a spill area faults posts the fault, keeps its entries and the lanes that failed, and
waits to issue again; the detail of a trap is that of the first lane that met its cause (the model's choices,
notes/assumptions/82.md and 76.md). A word without a calling lane changes nothing but the pc. -/
def Obligations.ClauseEntryWordsComplete : Prop :=
  (∀ (s : State) (x : KeyEnt) (h : Holder) (q : Word),
    let d := (q - x.nseq).toNat
    (x.poison = true → evaluate s x h q = .failed cCLPOISON 1) ∧
    (x.poison = false → x.holder = some h → d = 0 → evaluate s x h q = .entered false) ∧
    (x.poison = false → x.holder = none → d = 0 →
      evaluate s x h q = if heldBy s h < 8 then .entered true else .failed cQUOTA 1) ∧
    (x.poison = false → 2 ^ 31 ≤ d → evaluate s x h q = .failed cCLDEAD 2) ∧
    (x.poison = false → x.holder ≠ some h → x.holder ≠ none → d < 2 ^ 31 → evaluate s x h q = .waits) ∧
    (x.poison = false → 0 < d → d < 2 ^ 31 → evaluate s x h q = .waits)) ∧
  ∀ (f : Fields) (s : State) (e : Env) (ports : Tab (List (List Word))),
    let r := requests e s true
    let y := requests e s false
    let again (opc : Nat) (q : Requests) : State :=
      (q.faults.foldl (spillFault e) q.st).modThread e.a fun t =>
        { t with clause := some { word := wordOf opc f, act := e.act, made := q.made, fails := q.fails, keys := e.keyTab, redo := true } }
    (Runs 0xB0 f s e ports → e.calling ≠ 0 → r.faults ≠ [] → exec (.clent f) s = .next (wordStays (again 0xB0 r) e ports)) ∧
    (Runs 0xB1 f s e ports → e.calling ≠ 0 → y.faults ≠ [] → exec (.cltry f) s = .next (wordStays (again 0xB1 y) e ports)) ∧
    (Runs 0xB0 f s e ports → e.calling = 0 → exec (.clent f) s = .next (wordEnd s e ports)) ∧
    (Runs 0xB1 f s e ports → e.calling = 0 → exec (.cltry f) s = .next (wordEnd s e ports)) ∧
    (Runs 0xB0 f s e ports → e.calling ≠ 0 → r.faults = [] → r.waits = false → r.fails = [] →
      exec (.clent f) s = .next (wordEnd (acquireKeys r.st (s.coreNo e.a) (e.keyTab.map Prod.snd)) e ports) ∧
        ∀ l ∈ lanesOf e.n e.calling, holdsKey s e (acquireKeys r.st (s.coreNo e.a) (e.keyTab.map Prod.snd)) l) ∧
    (Runs 0xB0 f s e ports → e.calling ≠ 0 → r.faults = [] → r.waits = true →
      exec (.clent f) s =
        .next (wordStays ((park r.st e.a .clause 0).modThread e.a fun t =>
          { t with clause := some { word := wordOf 0xB0 f, act := e.act, made := r.made, fails := r.fails, keys := e.keyTab,
                                    redo := false } }) e ports)) ∧
    (Runs 0xB1 f s e ports → e.calling ≠ 0 → y.faults = [] → y.fails = [] →
      let u := acquireKeys y.st (s.coreNo e.a) ((e.keyTab.filter fun x => y.entered.getLsbD x.1).map Prod.snd)
      let w : Writes :=
        if f.d.isS then { Writes.none with sw := [(sIdx f.d, y.entered)] }
        else { Writes.none with pw := [(f.d.num, e.calling, y.entered)] }
      exec (.cltry f) s = .next (wordEnd (complete e u w 0 0 0 []) e ports) ∧
        (∀ l ∈ lanesOf e.n e.calling, y.entered.getLsbD l = true → holdsKey s e u l) ∧
        ∀ l, y.entered.getLsbD l = true → l ∈ lanesOf e.n e.calling) ∧
    (Runs 0xB0 f s e ports → NoLate e → e.calling ≠ 0 → r.faults = [] → r.waits = false → r.fails ≠ [] →
      ∃ i u, exec (.clent f) s = .next (takeTrap u e.a (wordOf 0xB0 f) i) ∧ entryTrap e r i ∧ entriesBack (s.asidOf e.a) e r u) ∧
    (Runs 0xB1 f s e ports → NoLate e → e.calling ≠ 0 → y.faults = [] → y.fails ≠ [] →
      ∃ i u, exec (.cltry f) s = .next (takeTrap u e.a (wordOf 0xB1 f) i) ∧ entryTrap e y i ∧ entriesBack (s.asidOf e.a) e y u)

/-- A `CLLV` or `CLABT` all of whose lanes hold their keys goes on, with the keys' waiters evaluated again. For one lane whose key
has no waiter, the key's sequence is one more, it has no holder, and `CLABT` has poisoned it, after a release at the key's scope; a
lane that does not hold its key traps `CLPOISON` 3. `CLABT.RST` gives the key the lane's sequence, no holder and no poison, and
traps `QUOTA` 2 where an entry that it needs cannot be had. Where one group waits on the key with one lane, at the next sequence,
and on no other key, `CLLV` leaves that lane the holder, and its group goes on after its `CLENT`. -/
def Obligations.ClauseLeaveWordsComplete : Prop :=
  ∀ (f : Fields) (s : State) (e : Env) (ports : Tab (List (List Word))),
    let core := s.coreNo e.a
    let asid := s.asidOf e.a
    (∀ (abort : Bool) (i : Instr), Runs (if abort then 0xB3 else 0xB2) f s e ports → i = (if abort then .clabt f else .cllv f) →
      ((leaveLanes e abort s).2.2 = [] →
        exec i s = .next (wordEnd (settleKeys settleFuel (leaveLanes e abort s).1 (leaveLanes e abort s).2.1) e ports)) ∧
      ∀ l, lanesOf e.n e.calling = [l] →
        let k := e.va 64 l
        let d := keyHome (s.dieNo e.a) k
        (∀ x : KeyEnt, s.findKey d asid k = some x → x.holder = some (holderOf e.bg.1 e.bg.2 e.t l) → x.waiters = [] →
          exec i s =
            .next (wordEnd ((s.release core (keyScope k)).putKey d
              { x with nseq := x.nseq + 1, holder := none, poison := x.poison || abort }) e ports)) ∧
        (NoLate e → (∀ x : KeyEnt, s.findKey d asid k = some x → x.holder ≠ some (holderOf e.bg.1 e.bg.2 e.t l)) →
          ∃ j, exec i s = .next (takeTrap s e.a (wordOf (if abort then 0xB3 else 0xB2) f) j) ∧ j.cause = cCLPOISON ∧ j.detail = 3 ∧
            j.lanes = bitMask l ∧ tget 0 l j.addrs = k)) ∧
    (Runs 0xB3 f s e ports → ∀ l, lanesOf e.n e.calling = [l] →
      let k := e.va 64 l
      let d := keyHome (s.dieNo e.a) k
      ∀ x : KeyEnt, s.findKey d asid k = some x → x.waiters = [] →
        exec (.clabtRst f) s =
          .next (wordEnd ((s.release core (keyScope k)).putKey d
            { x with nseq := (e.vb 32 l).setWidth 32, poison := false, holder := none }) e ports)) ∧
    (Runs 0xB3 f s e ports → ∀ u v, resetEntries e s = .ok (some u) → resetSpilled e u = .ok v →
      ∃ t, exec (.clabtRst f) s = .next (wordEnd t e ports)) ∧
    (Runs 0xB3 f s e ports → NoLate e → resetEntries e s = .ok none →
      ∃ j, exec (.clabtRst f) s = .next (takeTrap s e.a (wordOf 0xB3 f) j) ∧ j.cause = cQUOTA ∧ j.detail = 2 ∧ j.lanes = e.act ∧
        ∀ l ∈ lanesOf e.n e.calling, tget 0 l j.addrs = e.va 64 l) ∧
    (Runs 0xB2 f s e ports → ∀ l, lanesOf e.n e.calling = [l] →
      let k := e.va 64 l
      let d := keyHome (s.dieNo e.a) k
      ∀ (x : KeyEnt) (w : Waiter) (u : Thread) (c : ClauseWait),
        s.findKey d asid k = some x → x.holder = some (holderOf e.bg.1 e.bg.2 e.t l) → x.poison = false → x.waiters = [w] →
        w.seq = x.nseq + 1 → d < 17 → Agent.group w.block w.grp ≠ e.a → s.thread? (.group w.block w.grp) = some u →
        u.clause = some c → c.fails = [] → c.redo = false →
        heldBy s { block := w.block, grp := w.grp, origid := w.origid } < 8 →
        (∀ d', d' < 17 → ∀ y ∈ (s.die d').keys, ¬(d' = d ∧ y.key = x.key ∧ y.asid = x.asid) →
          ∀ z ∈ y.waiters, ¬(z.block = w.block ∧ z.grp = w.grp)) →
        ∃ t, exec (.cllv f) s = .next t ∧
          t.findKey d asid k =
            some { x with nseq := x.nseq + 1, waiters := [], holder := some { block := w.block, grp := w.grp, origid := w.origid } } ∧
          ∃ v : Thread, t.thread? (.group w.block w.grp) = some v ∧ v.pc = u.advance.pc ∧ v.wait = .none ∧ v.clause = none ∧
            v.gstate = readyState u.gstate)

/-- `CLAUSE_REQUEST` changes nothing where the group does not wait in `CLENT`, or no waiter of the lane's keys can be answered; a word
whose spill access faulted is ready again. Where the group's one waiter can be answered, it is: at the sequence of a key with no
holder and no poison, where the lane holds fewer than 8 clauses, the lane becomes the holder and the group goes on after its `CLENT`;
where the table of R254 fails it, the group traps with that cause. `DEADLOCK_WALK` changes nothing where the lane has not waited 65,536
cycles on a key. Else the waits of the lane are counted anew, and a walk of at most 64 edges that comes back to the group traps it
`CLDEAD` 1, with the number of edges as cause detail; a walk that does not come back changes nothing more. The path of a walk that
comes back is a cycle: each edge is of a lane waiting on a key that the table holds, and its holder is the group of the next edge. And
the first cycle through the group in depth-first order, if at most 64 edges are visited up to its end, is found: each key on which a
lane of a group waits and that has a holder gives an edge, in rising order of the lowest such lane. How a faulted spill access
waits is a reading (notes/assumptions/12.md). -/
def Obligations.ClauseEventsComplete : Prop :=
  ∀ (s : State) (b g lane : Nat),
    let a := Agent.group b g
    let due (w : Waiter) : Prop := w.block = b ∧ w.grp = g ∧ w.lane = lane ∧ 65536 ≤ w.cycles
    let mine (w : Waiter) : Prop := w.block = b ∧ w.grp = g ∧ w.lane = lane
    (∀ t : Thread, s.thread? a = some t →
      (t.wait ≠ .clause ∨ t.gstate = .evicted → exec (.clauseRequest a lane) s = .next s) ∧
      (t.wait = .clause → t.gstate ≠ .evicted → t.clause.all ClauseWait.redo = true →
        exec (.clauseRequest a lane) s = .next (wake s a)) ∧
      (∀ c, t.clause = some c → c.redo = false →
        (∀ d y, y ∈ (s.die d).keys → (∃ w ∈ y.waiters, mine w) → ∀ x, s.findKey d y.asid y.key = some x → ∀ w ∈ x.waiters,
          evaluate s x { block := w.block, grp := w.grp, origid := w.origid } w.seq = .waits) →
        exec (.clauseRequest a lane) s = .next s) ∧
      (∀ (c : ClauseWait) (d : Nat) (x : KeyEnt) (w : Waiter), t.wait = .clause → t.gstate ≠ .evicted → t.clause = some c →
        c.redo = false → c.fails = [] → d < 17 → x ∈ (s.die d).keys → s.findKey d x.asid x.key = some x → x.waiters = [w] → mine w →
        (∀ d', d' < 17 → ∀ y ∈ (s.die d').keys, ¬(d' = d ∧ y.key = x.key ∧ y.asid = x.asid) →
          ∀ z ∈ y.waiters, ¬(z.block = b ∧ z.grp = g)) →
        let h : Holder := { block := b, grp := g, origid := w.origid }
        (x.holder = none → x.poison = false → w.seq = x.nseq → heldBy s h < 8 →
          ∃ v, exec (.clauseRequest a lane) s = .next v ∧
            v.findKey d x.asid x.key = some { x with waiters := [], holder := some h } ∧
            ∃ u : Thread, v.thread? a = some u ∧ u.pc = t.advance.pc ∧ u.wait = .none ∧ u.clause = none ∧
              u.gstate = readyState t.gstate) ∧
        ∀ cause detail, evaluate s x h w.seq = .failed cause detail →
          ∃ (v : State) (i : Trap) (n : Nat) (more : List (Nat × BitVec 16 × Dword)),
            exec (.clauseRequest a lane) s = .next (settleKeys n (takeTrap v a c.word i) more) ∧ (c.made = [] → more = []) ∧
            i.cause = cause ∧ i.detail = detail ∧ i.lanes = (if cause = cCLPOISON then bitMask lane else c.act) ∧ i.addrs = c.keys)) ∧
    (∀ x, ∃ t, exec (.clauseRequest x lane) s = .next t) ∧ (∀ x, ∃ t, exec (.deadlockWalk x lane) s = .next t) ∧
    ((∀ d, d < 17 → ∀ y ∈ (s.die d).keys, ∀ w ∈ y.waiters, ¬due w) → exec (.deadlockWalk a lane) s = .next s) ∧
    ((∃ d, d < 17 ∧ ∃ y ∈ (s.die d).keys, ∃ w ∈ y.waiters, due w) →
      ∃ u : State,
        (∀ d, (u.die d).keys.map recounted = (s.die d).keys.map recounted) ∧
        u.threads = s.threads ∧
        (walkCycle u b g 64 ((edgesOf u b g).map fun y => ([], y)) = none → exec (.deadlockWalk a lane) s = .next u) ∧
        ∀ path, walkCycle u b g 64 ((edgesOf u b g).map fun y => ([], y)) = some path →
          (∀ (t : Thread) (c : ClauseWait), s.thread? a = some t → t.clause = some c → t.late? = none →
            ∃ (v : State) (i : Trap) (more : List (Nat × BitVec 16 × Dword)),
              exec (.deadlockWalk a lane) s = .next (settleKeys settleFuel (takeTrap v a c.word i) more) ∧
              i.cause = cCLDEAD ∧ i.detail = 1 ∧ i.cdetail = BitVec.ofNat 64 path.length ∧ i.lanes = c.act ∧
              i.evidence = path.map (evidenceOf u)) ∧
          (path.head?.map fun x => (x.wait.block, x.wait.grp)) = some (b, g) ∧
          (path.getLast?.map fun x => (x.hold.block, x.hold.grp)) = some (b, g) ∧
          (∀ (front back : List Edge) (x y : Edge), path = front ++ x :: y :: back →
            x.hold.block = y.wait.block ∧ x.hold.grp = y.wait.grp) ∧
          (∀ x ∈ path, x.die < 17 ∧ x.ent ∈ (u.die x.die).keys ∧ x.wait ∈ x.ent.waiters ∧ x.ent.holder = some x.hold) ∧
          path.length ≤ 64) ∧
    (∀ path, cycleFirst s b g 64 (edgesOf s b g) path → walkCycle s b g 64 ((edgesOf s b g).map fun y => ([], y)) = some path) ∧
    (∀ d, d < 17 → ∀ y ∈ (s.die d).keys, ∀ h, y.holder = some h → ∀ w ∈ y.waiters, w.block = b → w.grp = g →
      ∃ x ∈ edgesOf s b g, x.die = d ∧ x.ent = y ∧ x.hold = h ∧ x.wait.lane ≤ w.lane) ∧
    (edgesOf s b g).Pairwise fun x y => x.wait.lane ≤ y.wait.lane

/-! ### Tiles and the matrix unit -/

namespace Sys2Proof.Machine

/-- The run of `sl` slots from `b` meets no slot of a tile other than `n`, and lies in the block's slots. -/
def slotsFree (k : Block) (n b sl : Nat) : Prop :=
  b + sl ≤ k.ns ∧ ∀ x ∈ k.tiles, x.1 ≠ n → x.2.nslot ≠ 0 → x.2.sbase + x.2.nslot ≤ b ∨ b + sl ≤ x.2.sbase

/-- The lowest base of a free run (R183). -/
def lowestRun (k : Block) (n sl b : Nat) : Prop :=
  sl = 0 ∧ b = 0 ∨ 0 < sl ∧ slotsFree k n b sl ∧ ∀ b', b' < b → ¬slotsFree k n b' sl

/-- The block after a matrix instruction that is in progress completes (R181, R186). -/
def mxAfter (k : Block) (j : MxJob) : Block :=
  let k1 := { writeSlots k j.bytes with tctl := k.tctl ||| j.flags, cbs := j.cbs.foldl (fun t x => tset 0 x.1 x.2 t) k.cbs }
  match j.dst with
  | some (n, x) => k1.setTile n { x with by' := .nobody, vstat := (k.tile n).vstat }
  | none => k1

/-- What a granted instruction holds the unit with. -/
def jobOf (b : Nat) (w : MxWork) (cycles : Nat) : MxJob :=
  { block := b, dst := w.dst, bytes := w.bytes, flags := tctlFlags w.flags, cbs := w.cbs, cycles := cycles }

/-- The matrix instructions with their opcodes (R189). -/
def matrixWords : List (Nat × (Fields → Instr)) :=
  [(0xC5, .mma), (0xC6, .mmaq), (0xC7, .lrmul), (0xC8, .lradd), (0xC9, .lrc), (0xCA, .lrdn), (0xCB, .lrfm), (0xCC, .mzero),
   (0xCD, .mtrn), (0xCE, .msetpCb), (0xCE, .msetpRcap)]

/-- The base of the run of `sl` slots that a result for tile `n` takes: the one held where the count is the same, else the lowest
free one (R181, R183). -/
def runFor (k : Block) (n sl b : Nat) : Prop :=
  if (k.tile n).nslot = sl then b = (if sl = 0 then 0 else (k.tile n).sbase) else lowestRun k n sl b

/-- The descriptor of the result in tile `d` (R190, R203, R204). -/
def madeTile (d : Tile) (base nslot rank : Nat) (fmt : TFmt) (rows cols : Nat) : Tile :=
  { d with st := .ready, by' := .nobody, sbase := base, nslot := nslot, rank := rank, fmt := fmt, rows := rows, cols := cols }

/-- RoundRN into `F32`. -/
def roundRN (v : Val) : Nat × Flags := roundVal .f32 .rn false v

/-- An accumulator to which the exact sums are added, step by step, each step rounded once: the value, and the flags of the sums and of
the roundings (R57, R186, R201). -/
def accSteps (acc : Nat) : List (Val × Flags) → Nat × Flags
  | [] => (acc, 0)
  | x :: r =>
    let v := widen .f32 acc
    let sum := vadd .rn v x.1
    let q := accSteps (roundRN sum.1).1 r
    (q.1, flagged [v] (x.2 ||| sum.2 ||| (roundRN sum.1).2) ||| q.2)

/-- The flags `fl` are those of the elements at (i, j) with `P i j`, whose own are `g i j`. -/
def flagsAre (fl : Flags) (P : Nat → Nat → Prop) (g : Nat → Nat → Flags) : Prop :=
  ∀ b ∈ [fIV, fOF, fUF, fIX, fBLKERR], (fl &&& b ≠ 0 ↔ ∃ i j, i < 32 ∧ j < 32 ∧ P i j ∧ g i j &&& b ≠ 0)

/-- The trap of a matrix stream with a cause detail (R190). -/
def streamTrap (cause detail : Nat) : Trap := { Trap.all cause 0 1 with cdetail := BitVec.ofNat 64 detail }

/-- Elements of a block that is neither `ZERO` nor `INVALID`, which have none of their own (R51, R202). -/
def ownCap (b : Blk) : Option Nat := if b.byte 0 = 0 ∨ b.byte 0 = 0xFF then none else some (capOf (b.byte 0))

/-- The sum of a pair of blocks in a K step: its elements' products, exact, with the flags of the decoding (R52, R202). -/
def blockStep (cb : Nat → List Nat) (x y : Blk) : Val × Flags :=
  let es := (List.range (((ownCap x).or (ownCap y)).getD 1)).map fun t => (x.elem cb t, y.elem cb t)
  let r := sumProds (es.map fun e => (e.1.1, e.2.1))
  (r.1, es.foldl (fun m e => m ||| e.1.2 ||| e.2.2) r.2)

/-- A request `r` stands behind every request of an earlier cycle and, among those of its own, by its source: the cores in order, a
core's matrix unit before its engines, the view unit last (R264). -/
def placedIn (s : State) (r : LeaveReq) (old new : List LeaveReq) : Prop :=
  ∃ front back, old = front ++ back ∧ new = front ++ r :: back ∧
    (∀ x ∈ front, x.wait = 0 → leaveRank s x.who ≤ leaveRank s r.who) ∧
    ∀ x, back.head? = some x → x.wait = 0 ∧ leaveRank s r.who < leaveRank s x.who

/-- The head for its grant: the scalar operands of the stream. -/
def headA (t : Thread) (f : Fields) : Dword :=
  match f.a with
  | .s n => t.getS n.toNat
  | .immS => f.x.signExtend 64
  | _ => f.x.setWidth 64

end Sys2Proof.Machine

/-- `TDEF` of a legal descriptor makes an `EMPTY` tile `READY` at the lowest free run of slots with contents +0, and changes no
other tile and no byte elsewhere; it traps `TILESTATE` on another tile and `SLOTFULL` where no run is free. `TLD` gives each lane
its element, +0 beyond 32, and a `D32` element as it stands; `TST` rounds each lane's value into its element and changes no other
byte; in both a flag whose trap is enabled traps `FPEXC` as in O32. `TSTAT` gives the descriptor word in any state. `TREL` empties a
`READY` tile, does nothing to an `EMPTY` one, and traps else. `TLD` and `TST` park on a tile that is `FILLING` or `DRAINING` and
trap on an `EMPTY` one; the event that ends such a wait makes the agent ready, with an acquire at `PKG` where a view has arrived in
the tile (R287). A released tile keeps its view status word (R276, notes/assumptions/36.md). -/
def Obligations.TileWordsComplete : Prop :=
  ∀ (f : Fields) (s : State) (e : Env) (ports : Tab (List (List Word))) (k : Block), e.blk s = some k →
    let put (k' : Block) : State := s.setBlock (s.blockNo e.a) k'
    let x := (e.vb 64 e.low).toNat
    let pos (l : Nat) : Nat × Nat := if f.fn.getLsbD 0 then (l, x) else (x, l)
    (Runs 0xC0 f s e ports →
      let n := f.d.num
      let a := (e.va 64 e.low).toNat
      let fmt := tfmtOf (a / 2 ^ 14 % 4)
      let sl := tileSlots fmt 0
      (a < 2 ^ 24 → a / 2 ^ 16 % 16 = 0 → a / 2 ^ 10 % 16 = 0 → (k.tile n).st = .empty → ∀ b, lowestRun k n sl b →
        ∃ k', exec (.tdef f) s = .next (wordEnd (put k') e ports) ∧
          k'.tile n = { Tile.blank with st := .ready, sbase := b, nslot := sl, rcap := a / 2 ^ 20 % 16, fmt := fmt,
                                        rows := a / 32 % 32 + 1, cols := a % 32 + 1 } ∧
          (∀ m, m ≠ n → k'.tile m = k.tile m) ∧
          (∀ q, tget 0 q k'.slots = if 256 * b ≤ q ∧ q < 256 * (b + sl) then 0 else tget 0 q k.slots) ∧
          { k' with tiles := k.tiles, slots := k.slots, badSlots := k.badSlots } = k) ∧
      (NoLate e → 2 ^ 24 ≤ a ∨ a / 2 ^ 16 % 16 ≠ 0 ∨ a / 2 ^ 10 % 16 ≠ 0 →
        exec (.tdef f) s = .next (takeTrap s e.a (wordOf 0xC0 f) (Trap.all cILLOP 0 e.act))) ∧
      (NoLate e → a < 2 ^ 24 → a / 2 ^ 16 % 16 = 0 → a / 2 ^ 10 % 16 = 0 → (k.tile n).st ≠ .empty →
        exec (.tdef f) s = .next (takeTrap s e.a (wordOf 0xC0 f)
          { Trap.all cTILESTATE 0 e.act with cdetail := BitVec.ofNat 64 (256 * n + 1) })) ∧
      (NoLate e → a < 2 ^ 24 → a / 2 ^ 16 % 16 = 0 → a / 2 ^ 10 % 16 = 0 → (k.tile n).st = .empty → 0 < sl →
        (∀ b, ¬slotsFree k n b sl) →
        exec (.tdef f) s = .next (takeTrap s e.a (wordOf 0xC0 f)
          { Trap.all cSLOTFULL 0 e.act with cdetail := BitVec.ofNat 64 sl }))) ∧
    (Runs 0xC1 f s e ports →
      let t := k.tile f.a.num
      let g (l : Nat) : Dword × Flags := tldLane k t f (pos l).1 (pos l).2
      (t.st = .ready → badTileLanes e k t x = 0 → NoFlagTrap e g → LaneResult s e ports 32 g (exec (.tld f) s)) ∧
      (t.st = .ready → FlagTrap 0xC1 s e g (exec (.tld f) s)) ∧
      (∀ l, 32 ≤ (pos l).1 ∨ 32 ≤ (pos l).2 → g l = (0, 0)) ∧
      (∀ l, (pos l).1 < 32 → (pos l).2 < 32 → f.fz = false → t.fmt = .d32 → k.elem t (pos l).1 (pos l).2 < 2 ^ 32 →
        g l = (BitVec.ofNat 64 (k.elem t (pos l).1 (pos l).2), 0)) ∧
      (t.st = .filling ∨ t.st = .draining →
        exec (.tld f) s = .next (wordStays (park s e.a .tile f.a.num) e ports)) ∧
      (NoLate e → t.st = .empty →
        exec (.tld f) s = .next (takeTrap s e.a (wordOf 0xC1 f)
          { Trap.all cTILESTATE 0 e.act with cdetail := BitVec.ofNat 64 (256 * f.a.num + 1) }))) ∧
    (Runs 0xC2 f s e ports →
      let t := k.tile f.d.num
      let inside (l : Nat) : Prop := (pos l).1 < t.rows ∧ (pos l).2 < t.cols
      let key (l : Nat) : Nat := elemKey t.fmt t.sbase (pos l).1 (pos l).2
      let val (l : Nat) : Nat × Flags :=
        let v := widenFz .f32 f.fz ((e.va 32 l).toNat % 2 ^ 32)
        let r := roundVal t.fmt.ffmt f.mode f.fz v
        (r.1, (if v.isSig then fIV else 0) ||| r.2)
      let fl (l : Nat) : Flags := if (pos l).1 < t.rows ∧ (pos l).2 < t.cols then (val l).2 else 0
      (t.st = .ready → t.fmt ≠ .lrf → badTileLanes e k t x = 0 → (∀ l ∈ e.lanes, fl l &&& ((e.t.gst >>> 16) &&& 0x1F#32) = 0) →
        ∃ k', exec (.tst f) s =
            .next (wordEnd (complete e (put k') Writes.none (e.lanes.foldl (fun m l => m ||| fl l) 0) 0 0 []) e ports) ∧
          (∀ l ∈ e.lanes, inside l → k'.slotNat (key l) (elemSize t.fmt) = (val l).1 % 2 ^ (8 * elemSize t.fmt)) ∧
          (∀ q, (∀ l ∈ e.lanes, inside l → q < key l ∨ key l + elemSize t.fmt ≤ q) → tget 0 q k'.slots = tget 0 q k.slots) ∧
          { k' with slots := k.slots, badSlots := k.badSlots } = k) ∧
      (t.st = .ready → t.fmt ≠ .lrf → FlagTrap 0xC2 s e (fun l => (0, fl l)) (exec (.tst f) s)) ∧
      (t.st = .filling ∨ t.st = .draining →
        exec (.tst f) s = .next (wordStays (park s e.a .tile f.d.num) e ports)) ∧
      (NoLate e → t.st = .ready → t.fmt = .lrf →
        exec (.tst f) s = .next (takeTrap s e.a (wordOf 0xC2 f)
          { Trap.all cTILESTATE 0 e.act with cdetail := BitVec.ofNat 64 (256 * f.d.num + 2) })) ∧
      (NoLate e → t.st = .empty →
        exec (.tst f) s = .next (takeTrap s e.a (wordOf 0xC2 f)
          { Trap.all cTILESTATE 0 e.act with cdetail := BitVec.ofNat 64 (256 * f.d.num + 1) }))) ∧
    (Runs 0xC3 f s e ports →
      let t := k.tile f.a.num
      LaneResult s e ports 64
        (fun _ => (BitVec.ofNat 64 (t.st.code % 4 * 2 ^ 62 + t.sbase % 2 ^ 11 * 2 ^ 37 + t.nslot % 2 ^ 5 * 2 ^ 32 +
          t.rcap % 16 * 2 ^ 20 + t.rank % 16 * 2 ^ 16 + t.fmt.code % 4 * 2 ^ 14 + (t.rows - 1) % 32 * 32 + (t.cols - 1) % 32), 0))
        (exec (.tstat f) s)) ∧
    (Runs 0xC4 f s e ports →
      let n := f.d.num
      let t := k.tile n
      (t.st = .ready → exec (.trel f) s = .next (wordEnd (put (k.setTile n { Tile.blank with vstat := t.vstat })) e ports)) ∧
      (t.st = .empty → exec (.trel f) s = .next (wordEnd s e ports)) ∧
      (NoLate e → t.st = .filling ∨ t.st = .draining →
        exec (.trel f) s = .next (takeTrap s e.a (wordOf 0xC4 f)
          { Trap.all cTILESTATE 0 e.act with cdetail := BitVec.ofNat 64 (256 * n + 1) }))) ∧
    (∀ (a : Agent) (t : Thread) (k' : Block), s.thread? a = some t → s.block? (s.blockNo a) = some k' →
      let y := k'.tile t.warg.toNat
      (t.wait = .tile → t.gstate ≠ .evicted → y.st = .ready ∨ y.st = .empty →
        exec (.tileWaitRelease a) s =
          .next (if y.vstat &&& 0xFF#32 = 2#32 then (wake s a).acquire (s.coreNo a) .pkg else wake s a)) ∧
      (t.wait ≠ .tile ∨ t.gstate = .evicted ∨ y.st = .filling ∨ y.st = .draining → exec (.tileWaitRelease a) s = .next s))

/-- A matrix instruction enters its block's queue, and its stream's fetch is suspended. `MATRIX_GRANT` does nothing while the unit
is busy; else the next eligible head that has leave is granted: where a check of R190 fails, the stream takes its trap with no tile,
slot or flag changed, and else the unit holds the instruction's result, the destination is `FILLING`, and the stream goes on. A head
without leave asks for it once, with the cost of the cycles of R207 as they are when it asks (notes/assumptions/37.md); a hold keeps
leave from being given, not an instruction that has it (R366). `MATRIX_COMPLETE` writes the result: slots, descriptor, `TCTL` flags
and codebook; how many cycles lie between is not stated (notes/assumptions/2.md). That every source is read at the grant and the
result held until it is written is the model's choice, where R182 leaves a concurrent `TST` open (notes/assumptions/86.md). -/
def Obligations.MatrixWordsQueueGrantAndComplete : Prop :=
  (∀ m ∈ matrixWords, ∀ (f : Fields) (s : State) (e : Env) (ports : Tab (List (List Word))) (k : Block),
    Runs m.1 f s e ports → e.blk s = some k →
    exec (m.2 f) s =
      .next (wordStays ((s.setBlock (s.blockNo e.a)
        { k with mq := some { opc := m.1, f := f, pc := e.t.pc, asked := false, leave := false } }).modThread e.a
          fun t => { t with gstate := parkedState t.gstate }) e ports)) ∧
  ∀ (s : State) (core : Nat),
    let c := s.core core
    let d := dieOfCore core
    let hs := mxHeads s core c.lastGrant
    (c.mx ≠ none → exec (.matrixGrant core) s = .next s) ∧
    (c.mx = none →
      (∀ (b : Nat) (k : Block) (m : MxHead) (t : Thread), (hs.find? fun x => x.2.2.leave) = some (b, k, m) →
        s.thread? (.mstream b) = some t →
        let ready : Thread := { t with wait := .none, warg := 0, gstate := readyState t.gstate }
        (∀ w, mxGrant k m.opc m.f (headA t m.f) (t.getS m.f.b.num) = .ok w →
          ∃ v, exec (.matrixGrant core) s = .next v ∧
            v.core core = { c with lastGrant := k.pos, mx := some (jobOf b w (mxCycles k m.opc m.f)) } ∧
            v.block? b = some (match w.dst with
              | some (n, x) => { k with mq := none }.setTile n { x with st := .filling, by' := .matrix }
              | none => { k with mq := none }) ∧
            v.thread? (.mstream b) = some ready.advance ∧ v.mem = s.mem) ∧
        ∀ i, mxGrant k m.opc m.f (headA t m.f) (t.getS m.f.b.num) = .error i →
          ∃ v, exec (.matrixGrant core) s = .next (takeTrap v (.mstream b) (wordOf m.opc m.f) i) ∧
            v.block? b = some { k with mq := none } ∧ v.thread? (.mstream b) = some ready ∧
            v.core core = { c with lastGrant := k.pos } ∧ v.mem = s.mem) ∧
      ((hs.find? fun x => x.2.2.leave) = none →
        ((hs.find? fun x => !x.2.2.asked) = none → exec (.matrixGrant core) s = .next s) ∧
        ∀ (b : Nat) (k : Block) (m : MxHead), (hs.find? fun x => !x.2.2.asked) = some (b, k, m) →
          ∃ v, exec (.matrixGrant core) s = .next v ∧ v.block? b = some { k with mq := some { m with asked := true } } ∧
            v.threads = s.threads ∧
            placedIn v { who := .matrix b, cost := 128 * mxCycles k m.opc m.f, prio := gridPrio s k.grid, wait := 0 }
              (s.die d).leaves (v.die d).leaves)) ∧
    (c.mx = none → exec (.matrixComplete core) s = .next s) ∧
    ∀ (j : MxJob) (k : Block), c.mx = some j → s.block? j.block = some k →
      let v := (s.setCore core { c with mx := none }).setBlock j.block (mxAfter k j)
      exec (.matrixComplete core) s =
        .next (if (v.thread? (.mstream j.block)).any fun t => t.wait = .own then wake v (.mstream j.block) else v)

/-- With the named tiles `READY`, unpoisoned and of agreeing formats and shapes, the instruction is granted, and on its completion:
each element of an `MMA` below `VC` is the old one plus, step by step of 16 or 8 products, their exact sum, each step rounded once
to `F32`, and every other element and slot is as before; `MMAQ` does the same on its blocks, one step a pair, and traps on addresses
and blocks as R202 says; `LRFM`, and `LRADD` of low-rank tiles, hold the columns of their sources, `LRADD` with a dense source the
rounded sums; `LRMUL` keeps the factor of one source and computes the other from exact sums, each rounded once; `LRC` holds the
factors of its procedure, whose worked example of R206 gives rank 2; `LRDN` holds the exact elements rounded; `MTRN` the elements or
the factors transposed; `MZERO` of a dense tile is +0 and of a low-rank one has rank 0; `MSETP.RCAP` sets the rank cap and
`MSETP.CB` its codebook. The descriptor has the format, shape, rank and slots of the result; a rank above the cap traps `RANKOVF`,
or under `DFB` gives the dense result. The flags of the computed elements, and of no other, are added to `TCTL`. An `EMPTY` tile
traps `TILESTATE`, of several the first of D, A, B (86), and so do the formats and shapes that do not fit. Choices of the model in
notes/assumptions: `VC` = 0, and a malformed block before unequal capacities with detail 0 (18), the signs of zero sums (17), the
ranges held to the window (97), and copied factors keep their bits and raise nothing (71). -/
def Obligations.MatrixResults : Prop :=
  (∀ (k : Block) (f : Fields) (va vb : Dword) (blk cy : Nat), k.badSlots = [] →
    let n := f.d.num
    let d := k.tile n
    let a := k.tile f.a.num
    let b := k.tile f.b.num
    let done (w : MxWork) : Block := mxAfter k (jobOf blk w cy)
    let vc := k.vc.toNat
    let f32 (x : Nat) : Val := widen .f32 x
    let low (opc rank rows cols base : Nat) (u v : Nat → Nat → Nat) (fl : Flags → Prop) : Prop :=
      ∃ w, mxGrant k opc f va vb = .ok w ∧ (done w).tile n = madeTile d base rank rank .lrf rows cols ∧ fl w.flags ∧
        (∀ i p, i < 32 → i < rows → p < rank → (done w).facU ((done w).tile n) i p = u i p % 2 ^ 32) ∧
        ∀ j p, j < 32 → j < cols → p < rank → (done w).facV ((done w).tile n) j p = v j p % 2 ^ 32
    let dense (opc rows cols base : Nat) (g : Nat → Nat → Nat × Flags) : Prop :=
      ∃ w, mxGrant k opc f va vb = .ok w ∧ (done w).tile n = madeTile d base 16 0 .d32 rows cols ∧
        flagsAre w.flags (fun i j => i < rows ∧ j < cols) (fun i j => (g i j).2) ∧
        ∀ i j, i < 32 → j < 32 → i < rows → j < cols → (done w).elem ((done w).tile n) i j = (g i j).1 % 2 ^ 32
    let product (opc : Nat) (steps : Nat → Nat → List (Val × Flags)) : Prop :=
      ∃ w, mxGrant k opc f va vb = .ok w ∧
        (∀ i j, i < 32 → j < 32 → i < d.rows → j < d.cols →
          (done w).elem d i j = if i < vc then (accSteps (k.elem d i j) (steps i j)).1 % 2 ^ 32 else k.elem d i j) ∧
        flagsAre w.flags (fun i j => i < d.rows ∧ i < vc ∧ j < d.cols) (fun i j => (accSteps (k.elem d i j) (steps i j)).2) ∧
        (∀ q, q < 256 * d.sbase ∨ 256 * d.sbase + 128 * min 32 vc ≤ q → tget 0 q (done w).slots = tget 0 q k.slots) ∧
        (∀ m, m ≠ n → (done w).tile m = k.tile m) ∧ (done w).tile n = { d with st := .ready, by' := .nobody }
    (∀ opc m, (mxTiles f).find? (fun m => (k.tile m).st = .empty) = some m →
      mxGrant k opc f va vb = .error (streamTrap cTILESTATE (256 * m + 1))) ∧
    (∀ (w : MxWork) (i : Nat), i < 32 →
      (done w).tctl.getLsbD i =
        (k.tctl.getLsbD i || decide (i = 8 ∧ w.flags &&& fIV ≠ 0 ∨ i = 9 ∧ w.flags &&& fOF ≠ 0 ∨ i = 10 ∧ w.flags &&& fUF ≠ 0 ∨
          i = 11 ∧ w.flags &&& fIX ≠ 0 ∨ i = 12 ∧ w.flags &&& fBLKERR ≠ 0))) ∧
    ((∀ m ∈ mxTiles f, (k.tile m).st = .ready) →
      (d.fmt = .d32 → a.fmt ≠ .lrf → b.fmt = a.fmt → a.rows = d.rows → b.cols = d.cols → a.cols = b.rows →
        product 0xC5 fun i j =>
          let step := if a.fmt = .d32 then 8 else 16
          (List.range ((a.cols + step - 1) / step)).map fun q =>
            sumProds ((List.range (min step (a.cols - step * q))).map fun t =>
              (widen a.fmt.ffmt (k.elem a i (step * q + t)), widen b.fmt.ffmt (k.elem b (step * q + t) j)))) ∧
      (d.fmt = .d32 →
        let nk := f.xb 0 8
        let rows := min d.rows vc
        let blkOf (base : Dword) (i st : Nat) : Blk :=
          (List.range 64).map fun x => (tget 0 (base.toNat + 64 * (i * nk + st) + x) k.spad).toNat
        let aligned : Prop := va.toNat % 64 = 0 ∧ vb.toNat % 64 = 0
        let inWindow : Prop := va.toNat < 2 ^ 32 ∧ vb.toNat < 2 ^ 32 ∧ va.toNat + 64 * rows * nk ≤ k.spadBytes ∧
          vb.toNat + 64 * d.cols * nk ≤ k.spadBytes
        let wellFormed : Prop :=
          (∀ i, i < rows → ∀ st, st < nk → (blkOf va i st).ok = true) ∧
            (rows ≠ 0 → ∀ j, j < d.cols → ∀ st, st < nk → (blkOf vb j st).ok = true)
        let agree (st : Nat) : Prop :=
          ∀ i j, i < rows → j < d.cols → ∀ x y, ownCap (blkOf va i st) = some x → ownCap (blkOf vb j st) = some y → x = y
        (aligned → inWindow → wellFormed → (∀ st, st < nk → agree st) →
          product 0xC6 fun i j => (List.range nk).map fun st => blockStep k.codebook (blkOf va i st) (blkOf vb j st)) ∧
          (¬aligned → mxGrant k 0xC6 f va vb = .error (Trap.all cMISALIGN 0 1)) ∧
          (aligned → ¬inWindow → ∃ x, mxGrant k 0xC6 f va vb = .error (Trap.all cPROT x 1)) ∧
          (aligned → inWindow → ¬wellFormed → mxGrant k 0xC6 f va vb = .error (streamTrap cBLKFMT 0)) ∧
          ∀ st, aligned → inWindow → wellFormed → st < nk → ¬agree st → (∀ x, x < st → agree x) →
            mxGrant k 0xC6 f va vb = .error (streamTrap cBLKFMT st)) ∧
      (∀ q base, q = f.xb 0 4 → a.fmt ≠ .lrf → b.fmt ≠ .lrf → q ≤ a.cols → q ≤ b.cols → q ≤ d.rcap → runFor k n q base →
        low 0xCB q a.rows b.rows base (fun i p => (roundRN (k.value a i p).1).1) (fun j p => (roundRN (k.value b j p).1).1)
          fun _ => True) ∧
      (∀ base, a.fmt = .lrf → b.fmt = .lrf → a.rows = b.rows → a.cols = b.cols →
        let q := a.rank + b.rank
        let u (i p : Nat) : Nat := if p < a.rank then k.facU a i p else k.facU b i (p - a.rank)
        let v (j p : Nat) : Nat := if p < a.rank then k.facV a j p else k.facV b j (p - a.rank)
        (q ≤ d.rcap → runFor k n q base → low 0xC8 q a.rows a.cols base u v fun fl => fl = 0) ∧
          (d.rcap < q → k.tctl.getLsbD 0 = false → mxGrant k 0xC8 f va vb = .error (streamTrap cRANKOVF q)) ∧
          (d.rcap < q → k.tctl.getLsbD 0 = true → runFor k n 16 base →
            dense 0xC8 a.rows a.cols base fun i j =>
              let x := sumProds ((List.range q).map fun p => (f32 (u i p), f32 (v j p)))
              ((roundRN x.1).1, x.2 ||| (roundRN x.1).2))) ∧
      (∀ base, a.fmt ≠ .lrf ∨ b.fmt ≠ .lrf → a.rows = b.rows → a.cols = b.cols → runFor k n 16 base →
        dense 0xC8 a.rows a.cols base fun i j =>
          let x := vadd .rn (k.value a i j).1 (k.value b i j).1
          ((roundRN x.1).1, (k.value a i j).2 ||| (k.value b i j).2 ||| x.2 ||| (roundRN x.1).2)) ∧
      (∀ base, a.cols = b.rows →
        (a.fmt = .lrf → b.fmt ≠ .lrf → a.rank ≤ d.rcap → runFor k n a.rank base →
          low 0xC7 a.rank a.rows b.cols base (k.facU a) (fun j p =>
            (roundRN (sumProds ((List.range a.cols).map fun x => ((k.value b x j).1, f32 (k.facV a x p)))).1).1) fun _ => True) ∧
          (a.fmt ≠ .lrf → b.fmt = .lrf → b.rank ≤ d.rcap → runFor k n b.rank base →
            low 0xC7 b.rank a.rows b.cols base (fun i p =>
              (roundRN (sumProds ((List.range a.cols).map fun x => ((k.value a i x).1, f32 (k.facU b x p)))).1).1) (k.facV b)
              fun _ => True) ∧
          (a.fmt = .lrf → b.fmt = .lrf → a.rank ≤ d.rcap → runFor k n a.rank base →
            low 0xC7 a.rank a.rows b.cols base (k.facU a) (fun j p =>
              (roundRN (sumProds ((List.range b.rank).map fun q =>
                (f32 (k.facV b j q),
                  (sumProds ((List.range a.cols).map fun x => (f32 (k.facV a x p), f32 (k.facU b x q)))).1))).1).1) fun _ => True)) ∧
      (∀ base, a.fmt = .lrf →
        let col (rows : Nat) (g : Nat → Nat → Nat) : List (List Nat) :=
          (List.range a.rank).map fun p => (List.range rows).map fun i => g i p
        let r := (lrc k.tol.toNat (col a.rows (k.facU a)) (col a.cols (k.facV a))).run 0
        r.1.k ≤ d.rcap → runFor k n r.1.k base →
          low 0xC9 r.1.k a.rows a.cols base (fun t p => (r.1.u.getD p []).getD t 0) (fun t p => (r.1.v.getD p []).getD t 0)
            fun fl => fl = r.2) ∧
      (∀ base, runFor k n 16 base →
        dense 0xCA a.rows a.cols base fun i j =>
          let x := k.value a i j
          ((roundRN x.1).1, x.2 ||| (roundRN x.1).2)) ∧
      ((k.tile n).nslot ≠ 16 → (∀ base, ¬slotsFree k n base 16) → mxGrant k 0xCA f va vb = .error (streamTrap cSLOTFULL 16)) ∧
      (∀ base, a.fmt = .lrf → a.rank ≤ d.rcap → runFor k n a.rank base →
        low 0xCD a.rank a.cols a.rows base (k.facV a) (k.facU a) fun fl => fl = 0) ∧
      (∀ base, a.fmt ≠ .lrf → runFor k n (tileSlots a.fmt 0) base →
        ∃ w, mxGrant k 0xCD f va vb = .ok w ∧ (done w).tile n = madeTile d base (tileSlots a.fmt 0) 0 a.fmt a.cols a.rows ∧
          w.flags = 0 ∧
          ∀ i j, i < 32 → j < 32 → i < a.cols → j < a.rows →
            (done w).elem ((done w).tile n) i j = k.elem a j i % 2 ^ (8 * elemSize a.fmt)) ∧
      (d.fmt ≠ .lrf →
        ∃ w, mxGrant k 0xCC f va vb = .ok w ∧ (done w).tile n = { d with st := .ready, by' := .nobody } ∧
          ∀ q, tget 0 q (done w).slots = if 256 * d.sbase ≤ q ∧ q < 256 * (d.sbase + d.nslot) then 0 else tget 0 q k.slots) ∧
      (d.fmt = .lrf →
        ∃ w, mxGrant k 0xCC f va vb = .ok w ∧ (done w).slots = k.slots ∧
          (done w).tile n = { d with st := .ready, by' := .nobody, rank := 0, nslot := 0, sbase := 0 }) ∧
      (let bad (opc m x : Nat) : Prop := mxGrant k opc f va vb = .error (streamTrap cTILESTATE (256 * m + x))
       (d.fmt ≠ .d32 → bad 0xC5 n 2 ∧ bad 0xC6 n 2) ∧ (d.fmt = .d32 → a.fmt = .lrf → bad 0xC5 f.a.num 2) ∧
         (d.fmt = .d32 → a.fmt ≠ .lrf → b.fmt ≠ a.fmt → bad 0xC5 f.b.num 2) ∧
         (d.fmt = .d32 → a.fmt ≠ .lrf → b.fmt = a.fmt → ¬(a.rows = d.rows ∧ b.cols = d.cols ∧ a.cols = b.rows) → bad 0xC5 n 3) ∧
         (a.fmt ≠ .lrf → b.fmt ≠ .lrf → bad 0xC7 f.b.num 2) ∧ (a.fmt = .lrf ∨ b.fmt = .lrf → a.cols ≠ b.rows → bad 0xC7 n 3) ∧
         (¬(a.rows = b.rows ∧ a.cols = b.cols) → bad 0xC8 n 3) ∧ (a.fmt ≠ .lrf → bad 0xC9 f.a.num 2) ∧
         (a.fmt = .lrf → bad 0xCB f.a.num 2) ∧ (a.fmt ≠ .lrf → b.fmt = .lrf → bad 0xCB f.b.num 2) ∧
         (a.fmt ≠ .lrf → b.fmt ≠ .lrf → a.cols < f.xb 0 4 ∨ b.cols < f.xb 0 4 → bad 0xCB n 3)) ∧
      (f.fn ≠ 0 →
        (va.toNat ≤ 15 → d.rank ≤ va.toNat →
          ∃ w, mxGrant k 0xCE f va vb = .ok w ∧ (done w).tile n = { d with st := .ready, by' := .nobody, rcap := va.toNat }) ∧
          (15 < va.toNat → mxGrant k 0xCE f va vb = .error (Trap.all cILLOP 0 1)) ∧
          (va.toNat ≤ 15 → va.toNat < d.rank → mxGrant k 0xCE f va vb = .error (streamTrap cRANKOVF d.rank))) ∧
      (f.fn = 0 → va.toNat % 32 = 0 → va.toNat + 32 ≤ k.spadBytes → va.toNat < 2 ^ 32 →
        ∃ w, mxGrant k 0xCE f va vb = .ok w ∧
          ∀ j, j < 16 → tget 0 (16 * f.xb 0 3 + j) (done w).cbs =
            tget 0 (va.toNat + 2 * j + 1) k.spad ++ tget 0 (va.toNat + 2 * j) k.spad))) ∧
  ((lrc 0x3E800000 [[0x40800000, 0, 0], [0, 0x40000000, 0], [0, 0, 0x3F800000]]
      [[0x3F800000, 0, 0], [0, 0x3F800000, 0], [0, 0, 0x3F800000]]).run 0).1 =
    { k := 2, u := [[0x40800000, 0, 0], [0, 0x40000000, 0]], v := [[0x3F800000, 0, 0], [0, 0x3F800000, 0]] }

/-! ### Phrase engines -/

namespace Sys2Proof.Machine

/-- The data instructions with their opcodes and the kinds of their endpoints (R230, R234). -/
def dataWords : List (Nat × (Fields → Instr) × (Fields → Nat) × (Fields → Nat)) :=
  [(0xD3, .pxfer, fun f => f.fnn % 4, fun f => f.fnn / 4), (0xD4, .pgath, fun f => f.fnn % 4, fun _ => 0),
   (0xD5, .pscat, fun _ => 0, fun f => f.fnn / 4), (0xD7, .pqpsh, fun _ => 0, fun f => f.fnn / 4)]

/-- The destination endpoint of a data instruction as it is read: a port is named, any other read from its registers. -/
def readDst (s : State) (e : Env) (kind : Nat) : Except Trap (EndRead × State) :=
  if e.opc = 0xD7 then .ok ({ ep := .port e.f.d.num, opd := e.f.d, bytes := [] }, s) else readEnd s e kind e.f.d (e.f.xb 0 10)

/-- Phrase context `x` of core `c`. -/
def State.pctx (s : State) (c x : Nat) : Option PCtx := tlook x (s.core c).pctx

/-- The tile that an endpoint names. -/
def Endpoint.tileNo : Endpoint → Option Nat
  | .tile n _ => some n
  | _ => none

/-- Where the counter of `PLOOP` stops: the first of the dimensions from `i` on whose next value is below its limit (R235). -/
def stopsAt (e : Env) (i : Nat) : Prop :=
  i < e.f.fnn ∧ (e.t.getS (e.f.d.num + i) + 1).toNat < (e.t.getS (e.f.a.num + i)).toNat ∧
    ∀ j, j < i → ¬(e.t.getS (e.f.d.num + j) + 1).toNat < (e.t.getS (e.f.a.num + j)).toNat

end Sys2Proof.Machine

/-- `PHRS` with a calling lane releases at `CORE` and queues one request with the leader's values in the open batch, parks where the
queue is full; after the no-operation of no calling lane, a run of values beyond the allocation traps `REGRANGE`, and then a program
address that is not a multiple of 4 traps `MISALIGN` (with the detail 3 of notes/assumptions/27.md). `BSEAL` seals the open batch
and opens the next, and `BWAIT` n goes on with an acquire at `CORE` once at most n sealed batches are unfinished; each writes its
destination where it has one. An empty batch with no earlier one finishes at once. A waiting group is ready when its wait is over,
and no other; a context that waits with a push goes on once its port has room. A queued request takes a free launched context, with
the registers of R220, at the level of views of its block; that it is the lowest free one is the model's choice and no rule's
(notes/assumptions/101.md). -/
def Obligations.GroupPhraseWordsComplete : Prop :=
  ∀ (f : Fields) (s : State) (e : Env) (ports : Tab (List (List Word))) (k : Block), e.blk s = some k →
    let core := s.coreNo e.a
    let b := s.blockNo e.a
    let g := agentIndex e.a
    let x := k.batchesOf g
    (Runs 0xCF f s e ports →
      let calling := e.act &&& e.t.getP (f.xb 0 4) &&& ~~~e.t.help
      (lowest e.n calling = none → exec (.phrs f) s = .next (wordEnd s e ports)) ∧
      ∀ l, lowest e.n calling = some l →
        let prog := e.va 64 l
        let u := s.release core .core
        let fits : Prop := ∀ n, f.d = .v n → n.toNat + f.xb 4 4 ≤ e.t.nalloc
        let r : PReq :=
          { block := b, grp := g, prog := prog, recAddr := e.vb 64 l,
            vals := (List.range (f.xb 4 4)).map fun i => e.t.getV (vIdx f.d + i) l, lane := l, batch := x.ob.num }
        (fits → prog.toNat % 4 = 0 → (s.core core).preq.length < 256 →
          exec (.phrs f) s = .next (wordEnd (u.setCore core { u.core core with preq := (u.core core).preq ++ [r] }) e ports)) ∧
        (fits → prog.toNat % 4 = 0 → 256 ≤ (s.core core).preq.length →
          exec (.phrs f) s = .next (wordStays (park s e.a .batch phrsMark) e ports)) ∧
        (NoLate e → ¬fits →
          exec (.phrs f) s = .next (takeTrap s e.a (wordOf 0xCF f) (rangeTrap f.d e.act))) ∧
        (NoLate e → fits → prog.toNat % 4 ≠ 0 →
          exec (.phrs f) s = .next (takeTrap s e.a (wordOf 0xCF f) { Trap.all cMISALIGN 0 e.act with cdetail := 3 }))) ∧
    (Runs 0xD0 f s e ports →
      let y : Batches := { x with sealedB := x.sealedB ++ [x.ob], ob := { num := x.ob.num + 1, status := 0 } }
      (x.sealedB.length < 15 →
        exec (.bseal f) s =
          .next (wordEnd (writeD e (finishBatches (s.setBlock b { k with batches := tput g y k.batches }) b g)
            (x.ob.num.setWidth 64)) e ports)) ∧
      (x.sealedB = [] → batchLoad s b g x.ob.num = 0 →
        exec (.bseal f) s =
          .next (wordEnd (writeD e (s.setBlock b
            { k with batches := tput g { ob := { num := x.ob.num + 1, status := 0 }, sealedB := [], acc := x.acc ||| x.ob.status } k.batches })
            (x.ob.num.setWidth 64)) e ports)) ∧
      (15 ≤ x.sealedB.length → exec (.bseal f) s = .next (wordStays (park s e.a .batch 14) e ports))) ∧
    (Runs 0xD1 f s e ports →
      (x.sealedB.length ≤ f.xb 0 4 → f.d.isAbsent = true →
        exec (.bwait f) s = .next (wordEnd (s.acquire core .core) e ports)) ∧
      (x.sealedB.length ≤ f.xb 0 4 → f.d.isAbsent = false →
        exec (.bwait f) s =
          .next (wordEnd (writeD e ((s.acquire core .core).setBlock b { k with batches := tput g { x with acc := 0 } k.batches })
            ((((x.sealedB.head?.map Batch.num).getD x.ob.num).setWidth 64 <<< 32) ||| x.acc.setWidth 64)) e ports)) ∧
      (f.xb 0 4 < x.sealedB.length → exec (.bwait f) s = .next (wordStays (park s e.a .batch (f.xb 0 4)) e ports))) ∧
    (∀ (a : Agent) (t : Thread) (k' : Block), s.thread? a = some t → s.block? (s.blockNo a) = some k' →
      let n := t.warg.toNat
      let room : Prop :=
        if n = phrsMark then (s.core (s.coreNo a)).preq.length < 256 else (k'.batchesOf (agentIndex a)).sealedB.length ≤ n
      let entry : Prop :=
        match a with
        | .phrase _ _ => (tget [] n k'.ports).length < 4
        | _ => tget [] n k'.ports ≠ [] ∨ k'.apEnded = true
      (t.wait = .batch → t.gstate ≠ .evicted → room → exec (.bwaitRelease a) s = .next (wake s a)) ∧
      (t.wait ≠ .batch ∨ t.gstate = .evicted ∨ ¬room → exec (.bwaitRelease a) s = .next s) ∧
      (t.wait = .queue → t.gstate ≠ .evicted → entry → exec (.queuePortWake a) s = .next (wake s a)) ∧
      (t.wait ≠ .queue ∨ t.gstate = .evicted ∨ ¬entry → exec (.queuePortWake a) s = .next s)) ∧
    (∀ c, ((s.core c).preq = [] ∨ ∀ i, i < 48 → (s.pctx c (16 + i)).isSome = true) → exec (.phraseRequestStart c) s = .next s) ∧
    ∀ (c i : Nat) (r : PReq) (rest : List PReq), (s.core c).preq = r :: rest → i < 48 → s.pctx c (16 + i) = none →
      (∀ j, j < i → (s.pctx c (16 + j)).isSome = true) → r.vals.length ≤ 8 →
      ∃ v t, exec (.phraseRequestStart c) s = .next v ∧ (v.core c).preq = rest ∧ v.thread? (.phrase c (16 + i)) = some t ∧
        v.pctx c (16 + i) = some { launched := true, block := r.block, issuer := r.grp, batch := r.batch, status := 0, slots := [],
                                   last := none, nextOrder := 0, running := false, engine := 0 } ∧
        t.pc = r.prog ∧ t.vdepth = gridDepth s r.block ∧
        ∀ n, n < 64 →
          t.getS n =
            if n = 0 then r.recAddr else if 1 ≤ n ∧ n ≤ r.vals.length then (r.vals.getD (n - 1) 0).signExtend 64
            else if n = 9 then BitVec.ofNat 64 r.grp else if n = 10 then r.batch.setWidth 64
            else if n = 11 then BitVec.ofNat 64 r.lane else 0

/-- A data instruction whose endpoints pass the checks of R214 goes on with its transfer in a free slot, the lowest (the model's
choice, notes/assumptions/101.md), its locks registered and its tiles held: a destination tile `FILLING` and a source tile
`DRAINING`, by the phrase engine (R181); a count of 0 starts none. While all eight slots are busy its context waits at the word
(R215). A push whose port holds 4 entries leaves its context waiting for room at its issue (R234 with notes/assumptions/55.md).
`PADDR` gives the address of R212; `PLOOP` advances the first dimension below its limit and branches, or falls through with all at
0; it reads all its counters before it writes one (notes/assumptions/35.md). `PARRV` arrives as agent 33 once the program's
transfers have completed, and `.WO` only waits. `PEND` then ends the program: a launched one leaves its context, an access program's
end is kept. `PCUR` gives the cursor once it is far enough, and `PCUR.ST` the status, which it clears. -/
def Obligations.AccessWordsComplete : Prop :=
  ∀ (f : Fields) (s : State) (e : Env) (ports : Tab (List (List Word))) (c x : Nat) (k : Block) (p : PCtx),
    e.a = .phrase c x → e.blk s = some k → s.pctx c x = some p →
    let setD (u : State) (v : Dword) : State := u.modThread e.a fun t => t.setS (sIdx f.d) v
    (∀ m ∈ dataWords, Runs m.1 f s e ports → (m.1 = 0xD7 → p.launched = false) →
      ∀ d y s1 s2 sz, readDst s e (m.2.2.1 f) = .ok (d, s1) → readEnd s1 e (m.2.2.2 f) f.a (f.xb 10 10) = .ok (y, s2) →
        issueChecks s2 e k (shapeOf m.1) d y (e.vb 64 e.low).toNat = .ok sz →
        let n := (e.vb 64 e.low).toNat
        (n = 0 →
          exec (m.2.1 f) s =
            .next (wordEnd (modCtx s2 e.a fun q => { q with last := some (q.nextOrder, 0, 0), nextOrder := q.nextOrder + 1 }) e ports)) ∧
        (n ≠ 0 → (∀ i, i < 8 → (tlook i p.slots).isSome = true) →
          exec (m.2.1 f) s = .next (wordStays (park s2 e.a .own 7) e ports)) ∧
        ∀ i, n ≠ 0 → i < 8 → tlook i p.slots = none → (∀ j, j < i → (tlook j p.slots).isSome = true) →
          let l : PhSlot :=
            { opc := m.1, f := f, pc := e.t.pc, stopped := false, locked := false, n := n, cursor := 0, esz := sz, dst := d.ep,
              src := y.ep, order := p.nextOrder, asked := false, leave := false, sent := none }
          let u := modCtx s2 e.a fun q =>
            { q with slots := tput i l q.slots, last := some (q.nextOrder, n, 0), nextOrder := q.nextOrder + 1 }
          let full : Prop := m.1 = 0xD7 ∧ 4 ≤ (tget [] f.d.num k.ports).length
          (∀ v, registerLocks u c x i l = some v →
            (¬full → exec (m.2.1 f) s = .next (wordEnd v e ports)) ∧
              (full → e.t.wait = .none → e.t.gstate = .active →
                exec (m.2.1 f) s = .next (wordEnd (park v e.a .queue f.d.num) e ports)) ∧
              (∃ k', v.block? (s.blockNo e.a) = some k' ∧ { k' with tiles := k.tiles } = k ∧
                ∀ n, k'.tile n =
                  if y.ep.tileNo = some n then { k.tile n with st := .draining, by' := .phrase }
                  else if d.ep.tileNo = some n then { k.tile n with st := .filling, by' := .phrase }
                  else k.tile n) ∧
              (v.pctx c x).bind (fun q => tlook i q.slots) = some { l with locked := true } ∧
              (v.die (dieOfCore c)).locks = (s.die (dieOfCore c)).locks ++
                (lockRanges (shapeOf m.1) d.ep y.ep n).map fun r =>
                  { asid := k.asid, lo := r.1.1, hi := r.1.2, write := r.2, owner := .slot c x i }) ∧
          (registerLocks u c x i l = none → exec (m.2.1 f) s = .next (wordStays (park u e.a .lockTable 0) e ports))) ∧
    (Runs 0xD2 f s e ports → ∀ bs s1, readLayout s e.a (e.va 64 e.low) = .ok (bs, s1) →
      let l := layoutOf bs
      let nd := if l.kind = 3 then 2 else l.ndim
      layoutOk bs l = true → f.b.num + nd ≤ 64 →
      exec (.paddr f) s = .next (wordEnd (setD s1 (l.addr ((List.range nd).map fun i => e.t.getS (f.b.num + i)))) e ports)) ∧
    (Runs 0xD6 f s e ports →
      (∀ i, stopsAt e i → e.target.toNat % 4 = 0 →
        ∃ u : Thread, exec (.ploop f) s = .next (wordStays (s.setThread e.a u) e ports) ∧ u.pc = e.target ∧
          u.getS (f.d.num + i) = e.t.getS (f.d.num + i) + 1 ∧ (∀ j, j < i → u.getS (f.d.num + j) = 0) ∧
          (∀ m, ¬(f.d.num ≤ m ∧ m ≤ f.d.num + i) → u.getS m = e.t.getS m) ∧
          { u with s := e.t.s, pc := e.t.pc, latch := e.t.latch } = e.t) ∧
      ((∀ i, ¬stopsAt e i) →
        ∃ u : Thread, exec (.ploop f) s = .next (wordEnd (s.setThread e.a u) e ports) ∧
          (∀ j, j < f.fnn → u.getS (f.d.num + j) = 0) ∧
          (∀ m, ¬(f.d.num ≤ m ∧ m < f.d.num + f.fnn) → u.getS m = e.t.getS m) ∧ { u with s := e.t.s } = e.t)) ∧
    (Runs 0xD8 f s e ports →
      let n := f.fnn
      let b := k.bar n
      let w := f.mod.getLsbD 0
      let wo := f.mod.getLsbD 1
      let kk := endEvicted (s.release c .core) (s.blockNo e.a) n (k.setBar n (arrived b 33 e.count))
      let after := (s.release c .core).setBlock (s.blockNo e.a) kk
      (w = false → wo = false → p.slots = [] → 0 < e.count → e.count ≤ b.exp → exec (.parrv f) s = .next (wordEnd after e ports)) ∧
      (w = true → wo = false → p.launched = false → p.slots = [] → 0 < e.count → e.count ≤ b.exp →
        exec (.parrv f) s = .next (waitOn after e ports kk n (kk.bar n))) ∧
      (wo = true → p.launched = false → exec (.parrv f) s = .next (waitOn s e ports k n b)) ∧
      (wo = false → p.launched = false ∨ w = false → p.slots ≠ [] → exec (.parrv f) s = .next (wordStays (park s e.a .own 0) e ports)) ∧
      (NoLate e → p.launched = true → w = true ∨ wo = true →
        exec (.parrv f) s = .next (takeTrap s e.a (wordOf 0xD8 f) (Trap.all cQERR 7 1)))) ∧
    (Runs 0xD9 f s e ports →
      let user := if f.a.isAbsent then 0 else (e.va 64 e.low).toNat % 256
      let st := p.status ||| BitVec.ofNat 32 (256 * user)
      (p.slots ≠ [] → exec (.pend f) s = .next (wordStays (park s e.a .own 0) e ports)) ∧
      (p.slots = [] → p.launched = true → p.block = s.blockNo e.a →
        ∃ v, exec (.pend f) s = .next v ∧ v.pctx c x = none ∧ v.thread? e.a = none ∧
          v = finishBatches (({ s.setCore c { s.core c with pctx := tdel x (s.core c).pctx } with threads := adel e.a s.threads }).setBlock
            p.block { k with batches := tput p.issuer (addStatus (k.batchesOf p.issuer) p.batch st) k.batches }) p.block p.issuer) ∧
      (p.slots = [] → p.launched = false → p.block = s.blockNo e.a →
        ∃ v, exec (.pend f) s = .next v ∧ v.pctx c x = some { p with status := st } ∧
          v.thread? e.a = some { e.t with gstate := .ended, wait := .none } ∧ v.block? p.block = some { k with apEnded := true })) ∧
    (Runs 0xDA f s e ports →
      let r := progress p
      (min (e.va 64 e.low).toNat r.2 ≤ r.1 → exec (.pcur f) s = .next (wordEnd (setD s (BitVec.ofNat 64 r.1)) e ports)) ∧
      (r.1 < min (e.va 64 e.low).toNat r.2 → exec (.pcur f) s = .next (wordStays (park s e.a .pcur 0) e ports)) ∧
      exec (.pcurSt f) s = .next (wordEnd (setD (modCtx s e.a fun q => { q with status := 0 }) (p.status.setWidth 64)) e ports))

/-- A context waiting for the lock table goes on once its transfer's locks are registered. A chunk that may run asks for leave once,
in the order of R264, and with leave is performed; one that may not changes nothing: its transfer has no locks yet, has stopped,
waits for its frame or an earlier transfer, or its block does not stand on the core (but for a transfer that runs on: one that fills
a tile, drains none and follows no other does, notes/assumptions/55.md), or its context is stopped and it has no leave. A push whose
port is full leaves its context waiting. The chunk of a copy within the block's scratchpad window leaves in each destination byte
the source byte as it stood before the chunk, changes no other byte, and moves the cursor past the chunk. A transfer whose cursor
has reached its count releases its locks, returns its tiles to `READY` and frees its slot, and a context that had only run on then
leaves the core; else nothing happens. A context that waits for a slot, its transfers or progress issues its word again. Where the
block stands in memory, a transfer that no longer runs on, as one that stopped on a fault, goes to the block's saved contexts with
its locks, and its header in the save area shows the slot in use, and the wait and cause of a fault (R227, R229). An index at or
above `IBOUND` is out of range, and one with bit 31 set invalid. -/
def Obligations.TransferEventsComplete : Prop :=
  ∀ (s : State) (c x i : Nat) (p : PCtx) (l : PhSlot), s.pctx c x = some p → tlook i p.slots = some l →
    let a := Agent.phrase c x
    let d := dieOfCore c
    let may : Prop :=
      l.locked = true ∧ l.stopped = false ∧ l.sent = none ∧ l.cursor < l.n ∧
        runsOn s c x i p = true ∧
        (stoppedOn s d (s.asidOf a) = false ∨ l.leave = true) ∧ mustFollow s c x i p l = false
    let room : Prop := ∀ q k, l.dst = .port q → s.block? (s.blockNo a) = some k → (tget [] q k.ports).length < 4
    (∀ t : Thread, s.thread? a = some t →
      (l.locked = false → t.wait = .lockTable → ∀ v, registerLocks s c x i l = some v →
        exec (.rangeLockRegister c x i) s = .next ((wake v a).modThread a Thread.advance)) ∧
      (l.locked = true ∨ t.wait ≠ .lockTable ∨ registerLocks s c x i l = none → exec (.rangeLockRegister c x i) s = .next s) ∧
      (t.wait = .own ∧ p.slots.length ≤ t.warg.toNat ∨ t.wait = .pcur → exec (.phraseContextResume c x) s = .next (wake s a)) ∧
      (¬(t.wait = .own ∧ p.slots.length ≤ t.warg.toNat ∨ t.wait = .pcur) → exec (.phraseContextResume c x) s = .next s)) ∧
    (∀ (u : State) (q : PCtx) (k : Block), u.pctx c x = some q → u.block? q.block = some k → k.resident = true →
      settleContext u c x = u) ∧
    (∀ (k : Block) (v : State), p.slots = [(i, l)] → s.block? p.block = some k → k.resident = false → l.sent = none →
      l.cursor < l.n → runsOn s c x i p = false → settleContext s c x = v →
      let keep (y : SavedCtx) : SavedCtx :=
        if y.ctx = x then
          { y with p := { y.p with slots := tput i { l with asked := false, leave := false } y.p.slots, status := y.p.status ||| p.status,
                                   last := p.last } }
        else y
      v.pctx c x = none ∧ v.block? p.block = some { k with saved := k.saved.map keep } ∧
        (v.die d).locks = (s.die d).locks.map fun r =>
          if r.owner = .slot c x i then { r with owner := .saved p.block (k.saved.findIdx fun y => y.ctx = x) i } else r) ∧
    (∀ (h : Dword) (j : Nat) (st : Bool) (cause : BitVec 8), j < 8 →
      (settledHeader h j st cause).getLsbD j = true ∧
        (st = true → dbits h 61 3 = 0 → h &&& 0x1F0000FF00000000#64 = 0 →
          (settledHeader h j st cause).toNat / 2 ^ 61 = 2 ∧ dbits (settledHeader h j st cause) 56 5 = 6 ∧
            dbits (settledHeader h j st cause) 32 8 = cause.toNat)) ∧
    (¬may → exec (.phraseChunk c x i) s = .next (settleContext s c x)) ∧
    (∀ k, s.block? p.block = some k →
      let drains : Prop := ∃ n st, l.src = .tile n st
      (k.resident = true → (runsOn s c x i p = true ↔ placed s a = true)) ∧
      (k.resident = false → trising p.slots = true →
        (runsOn s c x i p = true → l.locked = true ∧ l.stopped = false ∧ ¬drains) ∧
          (l.locked = true → l.stopped = false → ¬drains → (∃ n st, l.dst = .tile n st) →
            (∀ z ∈ p.slots, z.2.order < l.order → overlaps s c x i z.1 l z.2 = false) → runsOn s c x i p = true))) ∧
    (may → ¬room →
      ∀ q t, l.dst = .port q → s.thread? a = some t →
        exec (.phraseChunk c x i) s =
          .next (settleContext (if t.wait = .none ∧ t.gstate = .active then park s a .queue q else s) c x)) ∧
    (may → room → l.leave = true → exec (.phraseChunk c x i) s = .next (settleContext (performChunk s c x i l) c x)) ∧
    (may → room → l.leave = false → l.asked = true → exec (.phraseChunk c x i) s = .next (settleContext s c x)) ∧
    (may → room → l.leave = false → l.asked = false →
      ∃ v, exec (.phraseChunk c x i) s = .next (settleContext v c x) ∧
        v.pctx c x = some { p with slots := tput i { l with asked := true } p.slots } ∧
        placedIn v { who := .chunk c x i, cost := chunkCost l, prio := gridPrio s (s.gridNo a), wait := 0 }
          (s.die d).leaves (v.die d).leaves) ∧
    (∀ (k : Block) (from' dest : Dword), may → l.leave = true → k.resident = true → l.opc = 0xD3 → l.dst = .spad dest → l.src = .spad from' → l.esz = 1 →
      s.block? (s.blockNo a) = some k → k.spadBytes ≤ 2 ^ 31 →
      from'.toNat + l.n ≤ k.spadBytes → dest.toNat + l.n ≤ k.spadBytes → s.badLines = [] →
      let cnt := min 4096 (l.n - l.cursor)
      ∃ v k', exec (.phraseChunk c x i) s = .next v ∧ v.block? (s.blockNo a) = some k' ∧
        (∀ q, tget 0 q k'.spad =
          if dest.toNat + l.cursor ≤ q ∧ q < dest.toNat + l.cursor + cnt then tget 0 (q - dest.toNat + from'.toNat) k.spad
          else tget 0 q k.spad) ∧
        { k' with spad := k.spad } = k ∧
        v.pctx c x = some { p with slots := tput i { l with cursor := l.cursor + cnt, asked := false, leave := false } p.slots }) ∧
    (l.locked = true → l.stopped = false → l.n ≤ l.cursor → ∀ k, s.block? (s.blockNo a) = some k →
      ∃ v, exec (.phraseTransferComplete c x i) s = .next v ∧
        (v.die d).locks = (s.die d).locks.filter (fun y => y.owner ≠ .slot c x i) ∧
        (∃ k', v.block? (s.blockNo a) = some k' ∧ { k' with tiles := k.tiles, saved := k.saved } = k ∧
          (k.resident = true → k'.saved = k.saved) ∧
          ∀ n, k'.tile n =
            if l.dst.tileNo = some n ∨ l.src.tileNo = some n then { k.tile n with st := .ready, by' := .nobody } else k.tile n) ∧
        (v.pctx c x).map PCtx.slots =
          if k.resident = false ∧ tdel i p.slots = [] then none else some (tdel i p.slots)) ∧
    (l.locked = false ∨ l.stopped = true ∨ l.cursor < l.n → exec (.phraseTransferComplete c x i) s = .next s) ∧
    ∀ (r : Layout) (j : Nat),
      indexOf r j = if 2 ^ 31 ≤ j then .invalid else if r.ibound ≤ j then .beyond else .row j

/-! ### Views and translation -/

namespace Sys2Proof.Machine

/-- State `v` is state `u`, whose block `b` is `k`, with a view of what `q` took started at a level by the word at `pc` (R284). -/
def viewStarted (u v : State) (b : Nat) (k : Block) (q : ViewAsk) (level : Nat) (pc : Dword) : Prop :=
  v.block? b =
      some (k.setTile q.tile { k.tile q.tile with st := .filling, by' := .view, vstat := BitVec.ofNat 32 (1 + 1024 * level) }) ∧
    v.nextView = u.nextView + 1 ∧ (∀ m, m ≠ u.nextView → tlook m v.views = tlook m u.views) ∧
    ∃ w, tlook u.nextView v.views = some w ∧ w.block = b ∧ w.tile = q.tile ∧ w.cam = q.cam ∧ w.cut = q.cut ∧ w.camAddr = q.camAddr ∧
      w.chan = q.chan ∧ w.mode = q.mode ∧ w.rows = q.rows ∧ w.cols = q.cols ∧ w.age = q.age ∧ w.level = level ∧ w.phase = .dice ∧ w.fault = false ∧
      w.cutBytes = [] ∧ w.primBytes = [] ∧ w.row = 0 ∧ w.pixels = [] ∧ w.pc = pc

end Sys2Proof.Machine

/-- `VIEW` without a calling lane changes only the pc; with a leader and a `READY` `D32` tile it starts a view into it, or empties
the tile with `DEPTH` at level 3 or `CUTERR` 1 for an invalid camera, or parks for a record with what it has taken, and starts from
that once one is free (notes/assumptions/83.md); it traps on a misaligned address, in the leader lane (notes/assumptions/57.md), on
a tile that is `EMPTY` or not `D32`, and where its camera cannot be read. `VSTAT` gives the tile's state and status word. `VCAN`
withdraws a view that fills the tile, whose contents stay, and does nothing else, and keeps the level in the status word
(notes/assumptions/58.md). The units take the deepest, then the view of the oldest `VIEW`. No byte of a scene is read twice; a read
that fails stops the view with `FLT`; an invalid cut ends it with `CUTERR` 2 and an invalid primitive with 3; a valid scene without
shading goes on to sampling. A row asks for leave and is resolved by one event, and a view whose rows are resolved arrives with its
pixels in the tile. The kernel ends a faulted view with `KILLED` (notes/assumptions/58.md). A write of `VIEWCFG` sets the word where
R277 accepts the value, its reserved bits 0. -/
def Obligations.ViewWordsAndEventsComplete : Prop :=
  (∀ (f : Fields) (s : State) (e : Env) (ports : Tab (List (List Word))) (k : Block), e.blk s = some k →
    let b := s.blockNo e.a
    (Runs 0xDB f s e ports →
      let n := f.d.num
      let t := k.tile n
      let leader := lowest e.n (e.act &&& e.t.getP (f.xb 0 4) &&& ~~~e.t.help)
      (leader = none → exec (.view f) s = .next (wordEnd s e ports)) ∧
      ∀ l, leader = some l →
        let cam := e.va 64 l
        let cut := e.vb 64 l
        let cleared := s.setBlock b (k.setTile n { t with vstat := 0 })
        let emptied (u : State) (v : Word) : State := u.setBlock b (k.setTile n { Tile.blank with vstat := v })
        (NoLate e → cam.toNat % 128 ≠ 0 ∨ cut.toNat % 64 ≠ 0 →
          ∃ i, exec (.view f) s = .next (takeTrap s e.a (wordOf 0xDB f) i) ∧ i.cause = cMISALIGN ∧ i.lanes = bitMask l) ∧
        (cam.toNat % 128 = 0 → cut.toNat % 64 = 0 →
          (t.st = .filling ∨ t.st = .draining → exec (.view f) s = .next (wordStays (park s e.a .tile n) e ports)) ∧
          (NoLate e → t.st = .empty →
            exec (.view f) s = .next (takeTrap s e.a (wordOf 0xDB f)
              { Trap.all cTILESTATE 0 e.act with cdetail := BitVec.ofNat 64 (256 * n + 1) })) ∧
          (NoLate e → t.st = .ready → t.fmt ≠ .d32 →
            exec (.view f) s = .next (takeTrap s e.a (wordOf 0xDB f)
              { Trap.all cTILESTATE 0 e.act with cdetail := BitVec.ofNat 64 (256 * n + 2) })) ∧
          (t.st = .ready → t.fmt = .d32 →
            (e.t.vdepth = 3 → k.tctl.getLsbD 2 = false → exec (.view f) s = .next (wordEnd (emptied s 4) e ports)) ∧
            (NoLate e → e.t.vdepth = 3 → k.tctl.getLsbD 2 = true →
              exec (.view f) s = .next (takeTrap s e.a (wordOf 0xDB f) (Trap.all cVIEWDEPTH 0 e.act))) ∧
            (NoLate e → e.t.vdepth ≠ 3 → ∀ c va, groupRead e (cleared.release (s.coreNo e.a) .pkg) cam.toNat 16 = .error (c, va) →
              exec (.view f) s = .next (takeTrap s e.a (wordOf 0xDB f)
                { Trap.all c.code c.detail (bitMask l) with addrs := [(l, BitVec.ofNat 64 va)] })) ∧
            (e.t.vdepth ≠ 3 → ∀ bs u, groupRead e (cleared.release (s.coreNo e.a) .pkg) cam.toNat 16 = .ok (bs, u) →
              let q : ViewAsk :=
                { age := u.nextAge, tile := n, chan := f.xb 4 2, mode := f.xb 6 2, rows := t.rows, cols := t.cols, camAddr := cam, cut := cut, cam := bs }
              let u := { u with nextAge := u.nextAge + 1 }
              ((camOf bs).isNone = true → exec (.view f) s = .next (wordEnd (emptied u 0x10005) e ports)) ∧
              ((camOf bs).isSome = true → recordFree u (s.dieNo e.a) (e.t.vdepth.toNat + 1) = false →
                exec (.view f) s =
                  .next (wordStays ((park u e.a .vrec 0).modThread e.a fun t => { t with ask := some q }) e ports)) ∧
              ((camOf bs).isSome = true → recordFree u (s.dieNo e.a) (e.t.vdepth.toNat + 1) = true →
                ∃ v, exec (.view f) s = .next (wordEnd v e ports) ∧ viewStarted u v b k q (e.t.vdepth.toNat + 1) e.t.pc))))) ∧
    (Runs 0xDC f s e ports →
      let t := k.tile f.a.num
      LaneResult s e ports 64 (fun _ => (BitVec.ofNat 64 (t.st.code % 4 * 2 ^ 62 + t.vstat.toNat), 0)) (exec (.vstat f) s)) ∧
    (Runs 0xDD f s e ports →
      let n := f.d.num
      let t := k.tile n
      let u := s.setBlock b (k.setTile n { t with st := .ready, by' := .nobody, vstat := (t.vstat &&& 0xFFFFFC00#32) ||| 3 })
      (t.st ≠ .filling ∨ t.by' ≠ .view → exec (.vcan f) s = .next (wordEnd s e ports)) ∧
      (t.st = .filling → t.by' = .view → viewInto s b n = none → exec (.vcan f) s = .next (wordEnd u e ports)) ∧
      ∀ m v, t.st = .filling → t.by' = .view → viewInto s b n = some (m, v) →
        exec (.vcan f) s = .next (wordEnd (withdrawView u m v) e ports) ∧
          tlook m (withdrawView u m v).views = if v.shadesLeft = 0 then none else some { v with withdrawn := true, fault := false })) ∧
  ∀ (s : State),
    (∀ (a : Agent) (t : Thread) (k : Block), s.thread? a = some t → s.block? (s.blockNo a) = some k →
      let due : Prop := t.wait = .vrec ∧ t.gstate ≠ .evicted ∧ recordFree s (s.dieNo a) (t.vdepth.toNat + 1) = true
      let u := (wake s a).modThread a fun t => { t with ask := none }
      (¬due → exec (.viewRecordWake a) s = .next s) ∧
      (due → (∀ q, t.ask = some q → ¬((k.tile q.tile).st = .ready ∧ (k.tile q.tile).fmt = .d32)) →
        exec (.viewRecordWake a) s = .next u) ∧
      ∀ q, due → t.ask = some q → (k.tile q.tile).st = .ready → (k.tile q.tile).fmt = .d32 →
        ∃ v, exec (.viewRecordWake a) s = .next v ∧ v.threads = (u.modThread a Thread.advance).threads ∧
          viewStarted u v (s.blockNo a) k q (t.vdepth.toNat + 1) t.pc) ∧
    (∀ die p n v, viewFirst (viewsIn s die p) = some (n, v) →
      (n, v) ∈ viewsIn s die p ∧ ∀ y ∈ viewsIn s die p, y.2.level < v.level ∨ y.2.level = v.level ∧ v.age ≤ y.2.age) ∧
    (∀ die, viewsIn s die .dice = [] → exec (.viewDice die) s = .next s) ∧
    (∀ die n v c, viewFirst (viewsIn s die .dice) = some (n, v) → camOf v.cam = some c →
      let r := readOnce s v (sceneClass s v) v.cut.toNat 64 v.cutBytes
      let v1 := { v with cutBytes := r.bytes }
      (∀ x va, r.fail = some (x, va) → exec (.viewDice die) s = .next (stopView r.st n v1 x 0 va)) ∧
      (r.fail = none → cutOf r.bytes = none → exec (.viewDice die) s = .next (endView r.st n v1 vsCUTERR 2)) ∧
      ∀ cut, r.fail = none → cutOf r.bytes = some cut →
        let r2 := readOnce r.st v1 (fun _ => sceneClass s v1 v1.cutBytes) cut.prims (128 * cut.nprim) v.primBytes
        let v2 := { v1 with primBytes := r2.bytes }
        (∀ x va, r2.fail = some (x, va) → exec (.viewDice die) s = .next (stopView r2.st n v2 x 0 va)) ∧
        (r2.fail = none → primsOf r2.bytes cut.nprim = none → exec (.viewDice die) s = .next (endView r2.st n v2 vsCUTERR 3)) ∧
        ∀ prims, r2.fail = none → primsOf r2.bytes cut.nprim = some prims → shadesView v2 cut = false →
          ∃ t subs, exec (.viewDice die) s = .next t ∧
            tlook n t.views = some { v2 with prims := prims, subs := subs, bg := cut.bg, phase := .sample }) ∧
    (∀ v cls va n got, ∃ more, (readOnce s v cls va n got).bytes = got ++ more ∧
      ((readOnce s v cls va n got).fail = none → got.length ≤ n → got.length + more.length = n)) ∧
    (∀ n v k c kind va, s.block? v.block = some k → k.resident = true →
      let t := k.tile v.tile
      (stopView s n v c kind va).block? v.block = some (k.setTile v.tile { t with vstat := t.vstat ||| 0x200 }) ∧
        tlook n (stopView s n v c kind va).views = some { v with fault := true }) ∧
    (∀ die n v c, viewFirst ((viewsIn s die .sample).filter fun x => x.2.leave) = some (n, v) → camOf v.cam = some c →
      ∃ t, exec (.viewRowSample die) s = .next t ∧
        tlook n t.views = some { v with
          pixels := v.pixels ++ (List.range v.cols).map fun j =>
            pixelValue v.chan v.bg (pixelHits c v.mode v.rows v.cols v.row j (viewTris v.prims v.subs)),
          row := v.row + 1, asked := false, leave := false, phase := if v.row + 1 < v.rows then .sample else .resolved }) ∧
    (∀ die, (viewsIn s die .sample).filter (fun x => x.2.leave) = [] →
      let l := (viewsIn s die .sample).filter fun x => !x.2.asked && !stoppedOn s die x.2.asid
      (l = [] → exec (.viewRowSample die) s = .next s) ∧
      ∀ n v, viewFirst l = some (n, v) →
        ∃ t, exec (.viewRowSample die) s = .next t ∧ tlook n t.views = some { v with asked := true } ∧
          placedIn t { who := .row n, cost := 2 * v.cols * sampleCount v.mode, prio := v.prio.toNat, wait := 0 }
            (s.die die).leaves (t.die die).leaves) ∧
    (∀ m, tlook m s.views = none → exec (.viewArrival m) s = .next s ∧ exec (.viewKill m) s = .next s) ∧
    (∀ d (w : Dword),
      let b (i : Nat) : Nat := w.toNat / 2 ^ (8 * i) % 256
      let ok : Prop := d ≤ 16 ∧ ∀ l, 1 ≤ l → l ≤ 3 → b (2 * l - 1) ≠ 0 ∧ 1 ≤ b (2 * l) ∧ b (2 * l) ≤ 32
      (ok → exec (.viewcfgWrite d w) s = .next (s.setDie d { s.die d with viewcfg := w &&& 0x00FFFFFFFFFFFF00#64 })) ∧
      (¬ok → exec (.viewcfgWrite d w) s = .next s)) ∧
    ∀ m v, tlook m s.views = some v →
      (v.withdrawn = true ∨ v.fault = true ∨ v.phase ≠ .resolved → exec (.viewArrival m) s = .next s) ∧
      (v.fault = false → trappedShades s m = [] → exec (.viewKill m) s = .next s) ∧
      ∀ k, s.block? v.block = some k → k.resident = true →
        let t := k.tile v.tile
        (v.withdrawn = false → v.fault = false → v.phase = .resolved →
          ∃ u k', exec (.viewArrival m) s = .next u ∧ tlook m u.views = none ∧ u.block? v.block = some k' ∧
            k'.tile v.tile = { t with st := .ready, by' := .nobody, vstat := (t.vstat &&& 0xFFFFFC00#32) ||| 2 } ∧
            ∀ i j, t.fmt = .d32 → t.cols = v.cols → v.cols ≤ 32 → i < t.rows → j < t.cols → i * v.cols + j < v.pixels.length →
              k'.elem (k'.tile v.tile) i j = (v.pixels.getD (i * v.cols + j) 0).toNat) ∧
        (v.fault = true → v.withdrawn = false → trappedShades s m = [] →
          ∃ u, exec (.viewKill m) s = .next u ∧
            u.block? v.block =
              some (k.setTile v.tile { Tile.blank with vstat := 6#32 ||| BitVec.ofNat 32 (1024 * v.level) }) ∧
            tlook m u.views = if v.shadesLeft = 0 then none else some { v with withdrawn := true, fault := false })

/-- Each form of `TLBI` releases at `PKG`, removes exactly the cached translations that its operands name from every buffer (a
core's, a die's, the network port's and the storage port's), and with `.CHK` records the region; a 65th region traps `QUOTA` 3. It
leaves memory and the caches as the release left them. `TFENCE` waits for the accesses that a removed entry translated, gives the
first recorded region that a range lock overlaps, or 0, forgets the regions, and acquires at `PKG`. `PGMAP` of one lane gives 1 for
a mapped page, and maps a first-touch page with the frame at the pool's head, gone from the pool, its bytes zero and no cache
keeping one of them (notes/assumptions/79.md); else it traps `PAGEF` with the detail of R332, or `ECCU` 5 on a poisoned table (the
code of R327 for a walk, which R332 does not name: notes/assumptions/45.md); its walk changes nothing but the clock of its core
(R307). `FBPOP` copies the oldest record of the die, removes it and gives the count left, as it is after the removal and before a
held fault is posted (notes/assumptions/44.md), gives 0 for an empty buffer, and traps on an illegal die or address. -/
def Obligations.TranslationWordsComplete : Prop :=
  ∀ (f : Fields) (s : State) (e : Env) (ports : Tab (List (List Word))),
    let core := s.coreNo e.a
    let drops (hit : TlbEnt → Prop) (t : State) : Prop :=
      let u := s.release core .pkg
      (∀ c x, x ∈ (t.core c).tlb ↔ x ∈ (s.core c).tlb ∧ ¬hit x) ∧ (∀ d x, x ∈ (t.die d).tlb ↔ x ∈ (s.die d).tlb ∧ ¬hit x) ∧
        (∀ x, x ∈ t.sys.netTlb ↔ x ∈ s.sys.netTlb ∧ ¬hit x) ∧ (∀ x, x ∈ t.sys.storageTlb ↔ x ∈ s.sys.storageTlb ∧ ¬hit x) ∧
        t.blocks = s.blocks ∧ t.mem = u.mem ∧ (∀ c, { t.core c with tlb := (u.core c).tlb } = u.core c) ∧
        (∀ d, { t.die d with tlb := (u.die d).tlb } = u.die d) ∧
        ∀ a, (t.thread? a).map (fun x => { x with job := none }) = (s.thread? a).map (fun x => { x with job := none })
    (Runs 0xE0 f s e ports →
      let asid : BitVec 16 := (e.va 64 e.low).setWidth 16
      let size := [4096, 65536, 2 ^ 21, 2 ^ 30].getD (f.xb 0 2) 0
      let z := (e.vb 64 e.low).toNat % 2 ^ 57 / size * size
      let hit (x : TlbEnt) : Prop := x.asid = asid ∧ x.base < z + size ∧ z < x.base + x.size
      (f.fn.getLsbD 2 = false → ∃ t, exec (.tlbiVa f) s = .next (wordEnd t e ports) ∧ drops hit t) ∧
      (f.fn.getLsbD 2 = true → e.t.regions.length < 64 →
        ∃ t, exec (.tlbiVa f) s =
            .next (wordEnd (t.modThread e.a fun u =>
              { u with regions := u.regions ++ [{ asid := asid, base := z, size := size }] }) e ports) ∧ drops hit t) ∧
      (f.fn.getLsbD 2 = true → NoLate e → 64 ≤ e.t.regions.length →
        exec (.tlbiVa f) s = .next (takeTrap s e.a (wordOf 0xE0 f) (Trap.all cQUOTA 3 e.act))) ∧
      (∃ t, exec (.tlbiAsid f) s = .next (wordEnd t e ports) ∧ drops (fun x => x.asid = asid) t) ∧
      ∃ t, exec (.tlbiAll f) s = .next (wordEnd t e ports) ∧ drops (fun _ => True) t) ∧
    (Runs 0xE1 f s e ports →
      let u := drainStale s
      (∀ a t j, u.thread? a = some t → t.job = some j → j.stale = false) ∧
      (∀ n, ∀ y ∈ (u.queue n).flight, y.stale = false) ∧
      ((∀ x ∈ s.threads, ∀ j, x.2.job = some j → j.stale = false) → (∀ q ∈ s.sys.queues, ∀ y ∈ q.2.flight, y.stale = false) → u = s) ∧
      ∃ v : Dword,
        exec (.tfence f) s =
          .next (wordEnd ((u.modThread e.a fun t =>
            let u := { t with regions := [] }
            if f.d.isAbsent then u else u.setS (sIdx f.d) v).acquire core .pkg) e ports) ∧
        ((∀ r ∈ e.t.regions, regionLocked u r = false) → v = 0) ∧
        ∀ (front back : List Region) (r : Region), e.t.regions = front ++ r :: back → (∀ x ∈ front, regionLocked u x = false) →
          regionLocked u r = true → v = BitVec.ofNat 64 r.base ||| 1) ∧
    (Runs 0xE2 f s e ports → ∀ l, e.lanes = [l] → e.t.help.getLsbD l = false →
      let va := (e.va 64 l).toNat
      let d := s.dieNo e.a
      let gives (v : Dword) (u : State) : Prop :=
        exec (.pgmap f) s = .next (wordEnd (writeNow e u (laneWrite f.d 32 l v)) e ports)
      let walked := mapWalked s e.a va
      let escapes (n : Nat) : Prop :=
        NoLate e → ∃ i, exec (.pgmap f) s = .next (takeTrap walked e.a (wordOf 0xE2 f) i) ∧ i.cause = cPAGEF ∧
          i.detail = BitVec.ofNat 32 n ∧ i.lanes = bitMask l ∧ tget 0 l i.addrs = e.va 64 l
      (walked.mem = s.mem ∧ walked.threads = s.threads ∧ walked.blocks = s.blocks ∧ walked.dies = s.dies ∧ walked.sys = s.sys ∧
        ∀ c, { walked.core c with lamport := (s.core c).lamport } = s.core c) ∧
      (2 ^ 57 ≤ va → NoLate e →
        ∃ i, exec (.pgmap f) s = .next (takeTrap s e.a (wordOf 0xE2 f) i) ∧ i.cause = cPAGEF ∧ i.detail = 0x404 ∧
          i.lanes = bitMask l ∧ tget 0 l i.addrs = e.va 64 l) ∧
      (va < 2 ^ 57 →
        (∀ x, s.walk (s.asidOf e.a) va = .leaf x → gives 1 walked) ∧
        (s.walk (s.asidOf e.a) va = .malformed → escapes 0x405) ∧
        (NoLate e → s.walk (s.asidOf e.a) va = .poisoned →
          ∃ i, exec (.pgmap f) s = .next (takeTrap walked e.a (wordOf 0xE2 f) i) ∧ i.cause = cECCU ∧ i.detail = 5 ∧ i.lanes = bitMask l ∧
            tget 0 l i.addrs = e.va 64 l) ∧
        (∀ lev ft at', s.walk (s.asidOf e.a) va = .invalid lev ft at' →
          (lev ≠ 0 ∨ ft = false → escapes (lev + if ft then 256 else 0)) ∧
          (lev = 0 → ft = true → poolCount (s.die d) = 0 → escapes 0x300) ∧
          (lev = 0 → ft = true → poolCount (s.die d) ≠ 0 →
            let frame := (s.home64 (ptePa (s.die d).ftring + 8 * (poolHead (s.die d) % poolSize (s.die d)))).toNat
            at' + 8 ≤ frame ∨ frame + 4096 ≤ at' →
            ∃ u, gives 0 u ∧ poolHead (u.die d) = (poolHead (s.die d) + 1) % 65536 ∧ u.threads = s.threads ∧
              u.home64 at' = (s.home64 at' &&& 0xFFF00000000007FE#64) ||| BitVec.ofNat 64 (frame % 2 ^ 52 / 4096 * 4096) ||| 1 ∧
              (∀ q, frame ≤ q → q < frame + 4096 → u.homeByte q = 0) ∧
              (∀ c, ∀ x ∈ (u.core c).l1, x.1 < frame ∨ frame + 4096 ≤ x.1) ∧
              (∀ d, ∀ x ∈ (u.die d).rdc, x.1 < frame ∨ frame + 4096 ≤ x.1) ∧
              ∀ q, (q < frame ∨ frame + 4096 ≤ q) → (q < at' ∨ at' + 8 ≤ q) → u.homeByte q = s.homeByte q)))) ∧
    (Runs 0xE3 f s e ports →
      let d := (e.va 64 e.low).toNat
      let b := (e.vb 64 e.low).toNat
      let put (u : State) (v : Dword) : State := u.modThread e.a fun t => t.setS (sIdx f.d) v
      (NoLate e → 16 < d → exec (.fbpop f) s = .next (takeTrap s e.a (wordOf 0xE3 f) (Trap.all cILLOP 0 e.act))) ∧
      (NoLate e → d ≤ 16 → b % 64 ≠ 0 →
        ∃ i, exec (.fbpop f) s = .next (takeTrap s e.a (wordOf 0xE3 f) i) ∧ i.cause = cMISALIGN ∧ i.lanes = e.act) ∧
      (d ≤ 16 → b % 64 = 0 → (s.die d).fbuf = [] → exec (.fbpop f) s = .next (wordEnd (put s 0) e ports)) ∧
      (∀ r rest u, d ≤ 16 → b % 64 = 0 → (s.die d).fbuf = r :: rest → groupWords e s b r.bytes = .ok u →
        ∃ v, exec (.fbpop f) s =
            .next (wordEnd (put v (BitVec.ofNat 64 (1 + rest.length % 2 ^ 32 * 2 ^ 32))) e ports) ∧
          (v.die d).fbuf = rest ++ (s.die d).held.take 1 ∧ (v.die d).held = (s.die d).held.drop 1 ∧ v.mem = u.mem) ∧
      (∀ r rest c va, NoLate e → d ≤ 16 → b % 64 = 0 → (s.die d).fbuf = r :: rest → groupWords e s b r.bytes = .error (c, va) →
        ∃ i, exec (.fbpop f) s = .next (takeTrap s e.a (wordOf 0xE3 f) i) ∧ i.cause = c.code ∧ i.detail = c.detail))

/-! ### Package words -/

namespace Sys2Proof.Machine

/-- The word of `QSTAT` (R349). -/
def qstatOf (q : Queue) : Dword :=
  BitVec.ofNat 64 (q.qstate.toNat * 2 ^ 61 + q.ecode.toNat % 32 * 2 ^ 56 + (if q.qstate = 2 then q.hcode.toNat % 256 else 0) * 2 ^ 48 +
    q.outst.toNat % 65536 * 2 ^ 32 + q.ridx.toNat)

/-- The result of a queue operation on queue `n`, between a release and an acquire at `PKG` (R373). -/
def queueEnd (s : State) (e : Env) (ports : Tab (List (List Word))) (n : Nat) (v : Dword) (q : Queue) : State :=
  wordEnd (((((s.release (s.coreNo e.a) .pkg).setQueue n q).acquire (s.coreNo e.a) .pkg)).modThread e.a fun t =>
    t.setS (sIdx e.f.d) v) e ports

end Sys2Proof.Machine

/-- `LAUNCH` with a leader puts a child grid of its group's grid into a free pool record of the die, the lowest (the model's choice,
notes/assumptions/101.md), and gives its handle, 0 where the pool is full, and traps on a misaligned record. `JOIN` of a completed
child gives its status, frees its record and acquires at `PKG`; a later `JOIN` of the parent gives that status too, until the record
is used again; it parks while a child runs, and gives 4 for a handle of another generation. `QCTL` gives the status word, sets the
read index, starts or stops the queue, each by the table of R373, and traps for a number above 63 or a queue of another context.
`HALT` suspends its group's fetch until an interrupt is pending for its core. `NSIG` sends one frame on the flow to its package,
waits with its fetch suspended while that flow is full (notes/assumptions/42.md), or gives 2 for no peer; after the no-operation of
no calling lane, a run that begins at `S255` traps `REGRANGE`. `QSTAT`'s `HCODE` reads 0 but in `HELD` (notes/assumptions/26.md). -/
def Obligations.PackageWordsComplete : Prop :=
  ∀ (f : Fields) (s : State) (e : Env) (ports : Tab (List (List Word))),
    let core := s.coreNo e.a
    let leader := lowest e.n (e.act &&& e.t.getP (f.xb 0 4) &&& ~~~e.t.help)
    let setD (u : State) (v : Dword) : State := u.modThread e.a fun t => t.setS (sIdx f.d) v
    let opt (u : State) (v : Dword) : State := if f.d.isAbsent then u else setD u v
    (Runs 0xE4 f s e ports →
      (leader = none → exec (.launch f) s = .next (wordEnd s e ports)) ∧
      ∀ l, leader = some l →
        let g := e.va 64 l
        (NoLate e → g.toNat % 256 ≠ 0 →
          ∃ i, exec (.launch f) s = .next (takeTrap s e.a (wordOf 0xE4 f) i) ∧ i.cause = cMISALIGN ∧ i.lanes = bitMask l) ∧
        (∀ c va, NoLate e → g.toNat % 256 = 0 → groupRead e (s.release core .pkg) g.toNat 32 = .error (c, va) →
          ∃ i u, exec (.launch f) s = .next (takeTrap u e.a (wordOf 0xE4 f) i) ∧ i.cause = c.code ∧ i.detail = c.detail ∧
            i.lanes = bitMask l) ∧
        ∀ r u, g.toNat % 256 = 0 → groupRead e (s.release core .pkg) g.toNat 32 = .ok (r, u) →
          let d := poolDie u e.a
          ((∀ i, i < 4096 → (tlook i (u.die d).pool).isSome = true) → exec (.launch f) s = .next (wordEnd (setD u 0) e ports)) ∧
          ∀ i, i < 4096 → tlook i (u.die d).pool = none → (∀ j, j < i → (tlook j (u.die d).pool).isSome = true) →
            let gen := tget 0 i (u.die d).gens + 1
            ∃ v n c, exec (.launch f) s =
                .next (wordEnd (setD v (BitVec.ofNat 64 (2 ^ 48 + gen.toNat * 65536 + d % 16 * 4096 + i))) e ports) ∧
              tlook i (v.die d).pool = some n ∧ tget 0 i (v.die d).gens = gen ∧ v.grid? n = some c ∧ c.recAddr = g ∧
              c.asid = u.asidOf e.a ∧ c.poolRec = some (d, i) ∧ c.placed = 0 ∧
              c.parent = some (u.gridNo e.a) ∧
              ∀ p, u.grid? (u.gridNo e.a) = some p →
                c.prio = p.prio ∧ c.dies = p.dies ∧ c.queue = p.queue) ∧
    (Runs 0xE5 f s e ports →
      let hs := joinHandles s e.a e.t f
      ((∀ h ∈ hs, h ≠ .runs) → exec (.join f) s = .next (wordEnd (joinDone s e.a f hs) e ports)) ∧
      ((∃ h ∈ hs, h = .runs) → ∃ v, exec (.join f) s = .next (wordStays v e ports) ∧
        ∃ t, v.thread? e.a = some t ∧ t.wait = .join ∧ t.pc = e.t.pc) ∧
      (f.xb 0 4 = 1 →
        let h := e.t.getS (sIdx f.a)
        let d := dbits h 12 4
        let i := dbits h 0 12
        (h = 0 → exec (.join f) s = .next (wordEnd (opt (s.acquire core .pkg) 0) e ports)) ∧
        (h ≠ 0 → dbits h 48 16 ≠ 1 ∨ (tget 0 i (s.die d).gens).toNat ≠ dbits h 16 32 →
          exec (.join f) s = .next (wordEnd (opt (s.acquire core .pkg) 4) e ports)) ∧
        (h ≠ 0 → dbits h 48 16 = 1 → (tget 0 i (s.die d).gens).toNat = dbits h 16 32 → tlook i (s.die d).pool = none →
          (∀ v, tlook i (s.die d).joined = some (s.gridNo e.a, v) →
            exec (.join f) s = .next (wordEnd (opt (s.acquire core .pkg) (BitVec.ofNat 64 v)) e ports)) ∧
          ((∀ v, tlook i (s.die d).joined ≠ some (s.gridNo e.a, v)) →
            exec (.join f) s = .next (wordEnd (opt (s.acquire core .pkg) 4) e ports))) ∧
        ∀ n g, dbits h 48 16 = 1 → (tget 0 i (s.die d).gens).toNat = dbits h 16 32 → tlook i (s.die d).pool = some n →
          s.grid? n = some g → g.parent = some (s.gridNo e.a) →
          (g.stage = 2 →
            exec (.join f) s =
              .next (wordEnd (opt (({ s.setDie d
                  { s.die d with
                    pool := tdel i (s.die d).pool,
                    joined := tput i (s.gridNo e.a, g.status.toNat % 256) (s.die d).joined } with grids := tdel n s.grids }).acquire
                core .pkg) (BitVec.ofNat 64 (g.status.toNat % 256))) e ports)))) ∧
    (Runs 0xE6 f s e ports →
      let n := (e.va 64 e.low).toNat
      let q := s.queue n
      let b : Word := (e.vb 64 e.low).setWidth 32
      let slots := 2 ^ dbits q.qcfg 0 5
      let halted : Prop := q.qstate = 3 ∨ q.qstate = 4 ∨ q.qstate = 5
      (n ≤ 63 → kernelCode s e.a = true ∨ q.qcfg.extractLsb' 48 16 = s.asidOf e.a →
        exec (.qctlStat f) s = .next (queueEnd s e ports n (qstatOf q) q) ∧
        (¬halted → exec (.qctlSetr f) s = .next (queueEnd s e ports n 1 q)) ∧
        (halted → slots < (b - q.ridx).toNat → exec (.qctlSetr f) s = .next (queueEnd s e ports n 2 q)) ∧
        (halted → (b - q.ridx).toNat ≤ slots →
          exec (.qctlSetr f) s = .next (queueEnd s e ports n 0 { q with ridx := b, attempts := 0, drain := 0 })) ∧
        (¬halted → exec (.qctlStart f) s = .next (queueEnd s e ports n 1 q)) ∧
        (halted → q.qbase.toNat % 64 ≠ 0 → exec (.qctlStart f) s = .next (queueEnd s e ports n 2 q)) ∧
        (halted → q.qbase.toNat % 64 = 0 → queueCtxOk (s.release core .pkg) q = false →
          exec (.qctlStart f) s = .next (queueEnd s e ports n 3 q)) ∧
        (halted → q.qbase.toNat % 64 = 0 → queueCtxOk (s.release core .pkg) q = true →
          exec (.qctlStart f) s = .next (queueEnd s e ports n 0 { q with qstate := 0, ecode := 0, hcode := 0 })) ∧
        (q.qstate = 5 → exec (.qctlStop f) s = .next (queueEnd s e ports n 1 q)) ∧
        (q.qstate ≠ 5 → exec (.qctlStop f) s = .next (queueEnd s e ports n 0 { q with qstate := 5, attempts := 0, drain := 0 }))) ∧
      ∀ i ∈ [Instr.qctlStat f, .qctlSetr f, .qctlStart f, .qctlStop f], NoLate e →
        (63 < n → exec i s = .next (takeTrap s e.a (wordOf 0xE6 f) (Trap.all cILLOP 0 e.act))) ∧
        (n ≤ 63 → kernelCode s e.a = false → q.qcfg.extractLsb' 48 16 ≠ s.asidOf e.a →
          exec i s = .next (takeTrap s e.a (wordOf 0xE6 f) (Trap.all cPROT 8 e.act)))) ∧
    (Runs 0xE9 f s e ports →
      let due : Prop := ∃ d, d < 17 ∧ (s.die d).intpend ≠ 0 ∧ dbits (s.die d).introute 0 5 + 0x1000 = core
      (core ≠ 0x1020 → due → exec (.halt f) s = .next (wordEnd s e ports)) ∧
      (core ≠ 0x1020 → ¬due → exec (.halt f) s = .next (wordStays (hold s e.a .halt 0) e ports)) ∧
      (NoLate e → core = 0x1020 → exec (.halt f) s = .next (takeTrap s e.a (wordOf 0xE9 f) (Trap.all cILLOP 0 e.act)))) ∧
    (Runs 0xE8 f s e ports →
      (leader = none → exec (.nsig f) s = .next (wordEnd s e ports)) ∧
      ∀ l, leader = some l →
        let pkg := ((e.t.getS (sIdx f.a)).setWidth 16 : BitVec 16).toNat
        let va := e.t.getS (sIdx f.a + 1)
        let die := s.dieNo e.a
        let u := s.release core .fab
        (NoLate e → f.a = .s 255 → exec (.nsig f) s = .next (takeTrap s e.a (wordOf 0xE8 f) (rangeTrap f.a e.act))) ∧
        (f.a ≠ .s 255 → NoLate e → va.toNat % 8 ≠ 0 →
          ∃ i, exec (.nsig f) s = .next (takeTrap s e.a (wordOf 0xE8 f) i) ∧ i.cause = cMISALIGN ∧ i.lanes = e.act) ∧
        (f.a ≠ .s 255 → NoLate e → va.toNat % 8 = 0 → 2 ^ 57 ≤ va.toNat →
          ∃ i, exec (.nsig f) s = .next (takeTrap s e.a (wordOf 0xE8 f) i) ∧ i.cause = cPROT ∧ i.detail = 4) ∧
        (f.a ≠ .s 255 → va.toNat % 8 = 0 → va.toNat < 2 ^ 57 → signalsDue s e.a = true →
          exec (.nsig f) s = .next (wordStays (hold s e.a .own 6) e ports)) ∧
        (f.a ≠ .s 255 → va.toNat % 8 = 0 → va.toNat < 2 ^ 57 → signalsDue s e.a = false → fabricTo u pkg = false →
          exec (.nsig f) s = .next (wordEnd (opt u 2) e ports)) ∧
        (f.a ≠ .s 255 → va.toNat % 8 = 0 → va.toNat < 2 ^ 57 → signalsDue s e.a = false → fabricTo u pkg = true →
          flowFull u die pkg = true → exec (.nsig f) s = .next (wordStays (hold u e.a .own 6) e ports)) ∧
        (f.a ≠ .s 255 → va.toNat % 8 = 0 → va.toNat < 2 ^ 57 → signalsDue s e.a = false → fabricTo u pkg = true →
          flowFull u die pkg = false →
          ∃ v x fr, exec (.nsig f) s = .next (wordEnd (opt v 0) e ports) ∧ v.flow? die pkg = some x ∧
            x.unacked.getLast? = some (fr, signalOf s e.a) ∧ fr.kind = (if f.fn.getLsbD 0 then 4 else 3) ∧ fr.addr = va ∧
            fr.value = e.vb 64 l ∧ fr.dst.toNat = pkg ∧ v.mem = u.mem))

/-- `CTXS.PART` of room that the core has evicts nothing, and gives the free room in registers; `CTXS.FULL` gives the address of the
record of the block it took off its core, 0 where none stands there; `CTXS.REST` gives 0 with the block on the core named, 1 without
a saved block or room, and 2 for a core of another die, with nothing changed; `CTXS.TERM` gives 0 with the grid terminated, status 2
where it had none, and 1 where there is none (a grid of the caller's context comes before one of another at that address; shading
grids have no record, notes/assumptions/58.md); `CTXS.RSM` gives 0 where the record's agent was found, and 1 else. An agent that
stands on a trap and is resumed goes on in place with its replay, or at the pc given without one. The room counted and the blocks
that stay are those of notes/assumptions/50.md, the block that `REST` takes is that of notes/assumptions/51.md, and the agent that
`RSM` takes that of notes/assumptions/56.md. -/
def Obligations.ContextSwitchWordsComplete : Prop :=
  ∀ (f : Fields) (s : State) (e : Env) (ports : Tab (List (List Word))),
    (Runs 0xE7 f s e ports →
      let a := e.va 64 e.low
      let b := e.vb 64 e.low
      let setD (u : State) (v : Nat) : State := u.modThread e.a fun t => t.setS (sIdx f.d) (BitVec.ofNat 64 v)
      (let core := a.toNat % 65536
       (dbits b 0 32 ≤ freeRegs s core → exec (.ctxsPart f) s = .next (wordEnd (setD s (freeRegs s core)) e ports)) ∧
       ∀ u, partialEvict core (dbits b 0 32) (BitVec.ofNat 16 (dbits b 32 16)) e.a s.threads.length s = .ok u →
         exec (.ctxsPart f) s = .next (wordEnd (setD u (freeRegs u core)) e ports)) ∧
      (let there (x : Nat × Block) : Bool :=
         x.2.resident && x.2.core = dbits a 0 16 && x.2.pos = dbits a 16 4 && x.1 ≠ s.blockNo e.a && !x.2.physical
       (s.blocks.find? there = none → exec (.ctxsFull f) s = .next (wordEnd (setD s 0) e ports)) ∧
       ∀ n k u, s.blocks.find? there = some (n, k) → fullEvict s n k = .ok u →
         exec (.ctxsFull f) s = .next (wordEnd (setD u (saveBase u k)) e ports) ∧ ∀ k', u.block? n = some k' → k'.resident = false) ∧
      (let core := b.toNat % 65536
       (savedAt s a.toNat (s.asidOf e.a) = none → exec (.ctxsRest f) s = .next (wordEnd (setD s 1) e ports)) ∧
       ∀ n k, savedAt s a.toNat (s.asidOf e.a) = some (n, k) →
         let dies := s.ctxDies k.asid
         (1536 ≤ core ∨ dies.getLsbD (core / 96) = false → exec (.ctxsRest f) s = .next (wordEnd (setD s 2) e ports)) ∧
         (core < 1536 → dies.getLsbD (core / 96) = true →
           (seatOn s n core k = none → exec (.ctxsRest f) s = .next (wordEnd (setD s 1) e ports)) ∧
           ∀ x m u, seatOn s n core k = some x → readImages (s.acquire core .pkg) (.core core) k = .ok (m, u) →
             ∃ v k', exec (.ctxsRest f) s = .next (wordEnd (setD v 0) e ports) ∧ v.block? n = some k' ∧ k'.resident = true ∧
               k'.core = core ∧ k'.pos = x.pos ∧ k'.saved = [] ∧ k'.inMem = 0)) ∧
      (gridAt s a (s.asidOf e.a) = none → exec (.ctxsTerm f) s = .next (wordEnd (setD s 1) e ports)) ∧
      (∀ n, gridAt s a (s.asidOf e.a) = some n →
        exec (.ctxsTerm f) s = .next (wordEnd (setD (terminateGrid s n) 0) e ports) ∧
          ∀ g, s.grid? n = some g → g.stage = 0 → (∀ x ∈ s.grids, x.2.parent ≠ some n) → (∀ x ∈ s.blocks, x.2.grid ≠ n) →
            (terminateGrid s n).grid? n =
              some { g with terminated := true, status := if g.status = 0 then 2 else g.status }) ∧
      (∀ n g, gridAt s a (s.asidOf e.a) = some n → (n, g) ∈ s.grids → (∀ y ∈ s.grids, y.1 = n → y.2 = g) →
        g.recAddr = a ∧ g.shade = none ∧ g.stage ≠ 2 ∧
          (g.asid ≠ s.asidOf e.a → ∀ y ∈ s.grids, y.2.recAddr = a → y.2.shade = none → y.2.stage ≠ 2 → y.2.asid ≠ s.asidOf e.a)) ∧
      ∀ bs u, groupRead e s a.toNat 128 = .ok (bs, u) →
        (resumeAgent u (recordKey bs) b = none → exec (.ctxsRsm f) s = .next (wordEnd (setD u 1) e ports)) ∧
        ∀ v, resumeAgent u (recordKey bs) b = some v → exec (.ctxsRsm f) s = .next (wordEnd (setD v 0) e ports)) ∧
    ∀ (a : Agent) (t : Thread) (dest : Dword), s.thread? a = some t →
      (t.wait ≠ .fault → t.wait ≠ .kern → resumeThread s a dest = s) ∧
      (t.wait = .fault ∨ t.wait = .kern →
        ∃ v, (resumeThread s a dest).thread? a = some v ∧ v.wait = .none ∧ v.gstate = readyState t.gstate ∧
          v.pc = (if dest = 0 then t.pc else dest) ∧ v.cause = 0 ∧ v.v = t.v ∧ v.s = t.s ∧ v.exm = t.exm ∧
          (dest ≠ 0 → v.replay = none) ∧
          ∀ r, dest = 0 → t.replay = some r → r.pc = t.pc → v.replay = some { r with armed := true })

/-! ### Events of waits, work, power, ports and the device space -/

namespace Sys2Proof.Machine

/-- The environment in which a remote scratchpad word goes on. -/
def remoteEnv (s : State) (a : Agent) (t : Thread) (r : RemoteReq) : Env :=
  let b := badLanes t r.opc r.f (s.lanes a) r.act
  { a := a, t := { t with remote := none }, n := s.lanes a, act := r.act, opc := r.opc, f := r.f, qa := [], qb := [], qc := [],
    bad := b.1, badCode := b.2 }

/-- Group `x` stands before group `y` in the choice of a slice: of higher effective priority, or as old or older at the same (R146). -/
def goesBefore (x y : Thread) : Prop := y.effPrio < x.effPrio ∨ y.effPrio = x.effPrio ∧ x.age ≤ y.age

end Sys2Proof.Machine

/-- A register result that arrives whole is written, leaves the outstanding results, raises its flags and releases a latch over a
register that it writes; one that arrives in some lanes leaves every other lane of the vector registers. A group that has waited 256
cycles on a result parks; one that waits only for an `ST` or a `RED` to be performed waits on none. A sleep that has run out, a
`JOIN` whose children have completed, a `HALT` with an interrupt pending and a remote access end their waits; no such event changes
an agent that does not wait for it. A slice that swaps takes the `PENDING` group that goes first, where there is room that no other
level of views keeps, or with one that may leave, which breaks no such reserve (how units are counted is the model's:
notes/assumptions/60.md): an `ACTIVE` one whose last word was a `YIELD`, else the one parked longest. Where that finds no room, the
one that goes first of those of other levels of views enters alike, since the room of its level is its own. The swap's end makes it
`ACTIVE` or `PARKED`. An evicted group returns from its record where its block is on a core with room. A count below `PROGWIN`
evicts nothing; one that reached it starts again. Any of these ends may come at any time after its condition
(notes/assumptions/2.md); which group leaves in a swap is DEDUCED (notes/assumptions/38.md), as are the waits with which an evicted
group comes back (notes/assumptions/53.md). -/
def Obligations.WaitEventsComplete : Prop :=
  (∀ (s : State) (a : Agent) (t : Thread), s.thread? a = some t →
    (∀ (idx : Nat) (o : Outstanding), t.outstanding[idx]? = some o → o.eccu = 0 →
      let hit (x : Opd × Nat) : Prop :=
        match x.1 with
        | .v _ | .xv _ => ∃ y ∈ o.vw, vIdx x.1 ≤ y.1 / 64 ∧ y.1 / 64 < vIdx x.1 + x.2
        | .s _ | .xs _ => ∃ y ∈ o.sw, sIdx x.1 ≤ y.1 ∧ y.1 < sIdx x.1 + x.2
        | .p n => ∃ y ∈ o.pw, y.1 = n.toNat
        | _ => False
      ∃ latch : Option (Opd × Nat),
        let u := { t.applyW { vw := o.vw, sw := o.sw, pw := o.pw, kw := o.kw } with
                   outstanding := t.outstanding.eraseIdx idx, gst := t.gst ||| o.flags, latch := latch }
        (latch = none ∨ latch = t.latch) ∧ (∀ x, t.latch = some x → (latch = none ↔ hit x)) ∧
          exec (.registerResultWrite a idx none (BitVec.allOnes 64)) s =
            .next (if u.wait = .dep ∧ u.awaitsResult = false then wake (s.setThread a u) a else s.setThread a u)) ∧
    (∀ idx reg lanes, ∃ v u, exec (.registerResultWrite a idx reg lanes) s = .next v ∧ v.thread? a = some u ∧
      ∀ m l, l < 64 → lanes.getLsbD l = false ∨ (∃ r, reg = some r ∧ r ≠ m) → u.getV m l = t.getV m l) ∧
    (∀ b g, a = .group b g →
      exec (.depPark a) s =
        .next (if t.gstate = .active ∧ t.awaitsResult = true ∧ 256 ≤ t.depWait then park s a .dep 0 else s)) ∧
    (t.resultDue = false → (∀ j, t.job = some j → j.opc = 0xA1 ∨ j.opc = 0xA6) → t.awaitsResult = false) ∧
    exec (.sleepExpiry a) s = .next (if t.wait = .sleep ∧ t.sleep = 0 ∧ t.gstate ≠ .evicted then wake s a else s) ∧
    (t.wait ≠ .join ∨ t.gstate = .evicted → exec (.joinRelease a) s = .next s) ∧
    (∀ r, t.wait = .join → t.gstate ≠ .evicted → t.remote = some r →
      let hs := joinHandles s a t r.f
      ((∃ h ∈ hs, h = .runs) → exec (.joinRelease a) s = .next s) ∧
      ((∀ h ∈ hs, h ≠ .runs) →
        exec (.joinRelease a) s = .next (joinDone ((wake s a).modThread a fun t => { t.advance with remote := none }) a r.f hs))) ∧
    (let due : Prop := ∃ d, d < 17 ∧ (s.die d).intpend ≠ 0 ∧ dbits (s.die d).introute 0 5 + 0x1000 = s.coreNo a
     (t.wait = .halt → t.gstate ≠ .evicted → due → exec (.haltWake a) s = .next ((wake s a).modThread a Thread.advance)) ∧
     (t.wait ≠ .halt ∨ t.gstate = .evicted ∨ ¬due → exec (.haltWake a) s = .next s)) ∧
    (t.wait ≠ .remote ∨ t.gstate = .evicted → exec (.remoteScratchpadAccess a) s = .next s) ∧
    (∀ r, t.wait = .remote → t.gstate ≠ .evicted → t.remote = some r → t.late? = none → (remoteEnv s a t r).bad = 0 →
      let e := remoteEnv s a t r
      let u := (wake s a).modThread a fun t => { t with remote := none }
      (∀ w, scratchPerform spadWrite e u = .ok w → exec (.remoteScratchpadAccess a) s = .next (wordEnd w e [])) ∧
      (∀ i w, scratchPerform spadWrite e u = .trap i w →
        exec (.remoteScratchpadAccess a) s = .next (takeTrap w a (wordOf r.opc r.f) i)) ∧
      ((scratchFates (scratchShape e) e u).2 = [] → ∃ w, scratchPerform spadWrite e u = .ok w)) ∧
    ∀ b g k, a = .group b g → s.block? b = some k →
      (t.gstate ≠ .evicted ∨ k.resident = false ∨ storeFree s k.core < groupRecBytes t.nalloc →
        exec (.evictedGroupReturn a) s = .next s) ∧
      ∀ bs u, t.gstate = .evicted → k.resident = true → groupRecBytes t.nalloc ≤ storeFree s k.core →
        sliceHeld s k.core (sliceOf s b g) < 48 → readGroupRec (s.acquire k.core .pkg) (saveTlb k) k g = .ok (bs, u) →
        let waitOver : Prop := k.barDone.getLsbD g = true ∧ (restoreGroup t bs).wait = .bar
        ∃ v w k', v.thread? a = some w ∧ v.block? b = some k' ∧
          exec (.evictedGroupReturn a) s = .next (if reserveKept s v (k.core / 96) t.vdepth.toNat then v else s) ∧
          (w.gstate = .pending ∨ w.gstate = .swapped) ∧ k'.inMem.getLsbD g = false ∧
          { k' with inMem := k.inMem, barDone := k.barDone } = k ∧
          (¬waitOver → w = restoreGroup t bs ∧ w.pc = BitVec.ofNat 64 (recNat bs 8 8)) ∧
          (waitOver → w = { (restoreGroup t bs).advance with wait := .none, warg := 0, gstate := .pending })) ∧
  ∀ (s : State) (core slice : Nat),
    let gs := sliceGroups s core slice
    ((∀ x ∈ gs, x.2.gstate ≠ .pending) ∨ (tlook slice (s.core core).swaps).isSome = true →
      exec (.groupSwap core slice) s = .next s) ∧
    (∀ i, i ∈ gs → i.2.gstate = .pending → tlook slice (s.core core).swaps = none →
      (∀ y ∈ gs, y.2.gstate = .pending → y = i ∨ goesBefore i.2 y.2 ∧ ¬goesBefore y.2 i.2) →
      let alone := setSwap s core slice (some { inn := some i.1, out := none })
      let fits : Prop :=
        roomFor (sliceUse s core slice) i.2.nalloc 0 0 = true ∧ reserveKept s alone (dieOfCore core) i.2.vdepth.toNat = true
      (fits → exec (.groupSwap core slice) s = .next alone) ∧
      let oneLevel : Prop := ∀ y ∈ gs, y.2.gstate = .pending → y.2.vdepth = i.2.vdepth
      (¬fits → (∀ o ∈ gs, mayLeave s core slice i o = false) → oneLevel → exec (.groupSwap core slice) s = .next s) ∧
      (∀ j, ¬fits → (∀ o ∈ gs, mayLeave s core slice i o = false) → j ∈ gs → j.2.gstate = .pending → j.2.vdepth ≠ i.2.vdepth →
        (∀ y ∈ gs, y.2.gstate = .pending → y.2.vdepth ≠ i.2.vdepth → y = j ∨ goesBefore j.2 y.2 ∧ ¬goesBefore y.2 j.2) →
        let only := setSwap s core slice (some { inn := some j.1, out := none })
        roomFor (sliceUse s core slice) j.2.nalloc 0 0 = true → reserveKept s only (dieOfCore core) j.2.vdepth.toNat = true →
        exec (.groupSwap core slice) s = .next only) ∧
      ∀ o, ¬fits → o ∈ gs → mayLeave s core slice i o = true → s.thread? o.1 = some o.2 →
        (∀ y ∈ gs, mayLeave s core slice i y = true →
          y = o ∨ y.2.gstate = .parked ∧ (o.2.gstate = .active ∨ y.2.waited < o.2.waited)) →
        (o.2.gstate = .parked ∨ o.2.gstate = .active ∧ o.2.yielding = true) ∧
        let u := setSwap
          (s.modThread o.1 fun t =>
            { t with gstate := if o.2.gstate = .active then .pending else .swapped, latch := none, yielding := false })
          core slice (some { inn := some i.1, out := some o.1 })
        (reserveBroken s u (dieOfCore core) i.2.vdepth.toNat = false → exec (.groupSwap core slice) s = .next u) ∧
        (reserveBroken s u (dieOfCore core) i.2.vdepth.toNat = true → oneLevel → exec (.groupSwap core slice) s = .next s)) ∧
    (tlook slice (s.core core).swaps = none → exec (.swapComplete core slice) s = .next s) ∧
    (∀ w a t, tlook slice (s.core core).swaps = some w → w.inn = some a → s.thread? a = some t →
      ∃ v u, exec (.swapComplete core slice) s = .next v ∧ tlook slice (v.core core).swaps = none ∧ v.thread? a = some u ∧
        u = { t with latch := none, gstate :=
                match t.gstate with
                | .pending => .active
                | .swapped => .parked
                | x => x }) ∧
    (1536 ≤ core ∨ tget 0 slice (s.core core).noIssue < (s.core core).progwin.toNat →
      exec (.progressWindowExpiry core slice) s = .next s) ∧
    (core < 1536 → (s.core core).progwin.toNat ≤ tget 0 slice (s.core core).noIssue →
      let z := s.setCore core { s.core core with noIssue := tput slice 0 (s.core core).noIssue }
      (blockedOn z core = none → exec (.progressWindowExpiry core slice) s = .next z) ∧
      ∀ b k, blockedOn z core = some (b, k) →
        let l := workFor z k (waitingWork z (core / 96))
        (l = [] → exec (.progressWindowExpiry core slice) s = .next z) ∧
          ∀ u, l ≠ [] → fullEvict z b k = .ok u → exec (.progressWindowExpiry core slice) s = .next (placeWaiting u core l))

namespace Sys2Proof.Machine

/-- `g` is the grid of a packet of queue `k`, number `q`, from the record at `va`, on dies `m`, before it runs (R344, R354). -/
def packetGrid (g : Grid) (q : Nat) (k : Queue) (src : GridSrc) (va : Nat) (m : BitVec 16) : Prop :=
  g.recAddr = BitVec.ofNat 64 va ∧ g.asid = k.asid ∧ g.dies = m ∧ g.prio = k.prio ∧ g.queue = some q ∧ g.packet = k.ridx.toNat ∧
    g.kernel = kernelOf src.kern src.table ∧ g.nblk = recNat src.rec' 8 6 ∧ g.signal = BitVec.ofNat 64 (recNat src.rec' 0x20 8) ∧
    g.parent = none ∧ g.endedBlocks = 0 ∧ g.stage = 0

end Sys2Proof.Machine

/-- Placement puts the next block of the first waiting grid, with its groups at their entry, on a core with room, and nothing where
a condition fails. A block that is over leaves, and its grid counts it. A grid that is over gets its `STATUS`, then 1 added to its
signal, and is complete; a failed write leaves it waiting with a record. A taken access is performed, unless an earlier one of the
firmware group comes before it, and `OUTST` falls. A step of the firmware that serves one queue errs, holds it or takes its packet:
a `GRID` packet makes its grid, which waits for placement or has the status of its launch failure; a `GANG` packet places every
block of its grids at once, or none and holds the queue, from the 16th attempt with its dies drained, and a malformed record fails
every grid it names with detail 4. The boot ROM leaves its result with every core stopped, or copies both images and enters the
kernel at its entry with one lane, once (untranslated, notes/assumptions/7.md; the order of its checks is that of
notes/assumptions/24.md). A quote is written to its buffer, and none to a buffer that is misaligned or does not exist
(notes/assumptions/25.md). The package mark is the old mark or a timestamp performed at a place of some die
(notes/assumptions/43.md). The core and the base of a placement are named by the move (notes/assumptions/60.md), and the firmware
serves its queues in the order of notes/assumptions/65.md. -/
def Obligations.WorkEventsComplete : Prop :=
  (∀ (s : State) (n core base : Nat),
    (s.grid? n = none → exec (.blockPlacement n core base) s = .next s) ∧
    ∀ g, s.grid? n = some g →
      let d := core / 96
      let may : Prop := s.sys.running = true ∧ g.waits = true ∧ d < 16 ∧ g.dies.getLsbD d = true ∧ inOrder s g = true ∧
        firstOnDie s d n g = true ∧ drained s d = false
      (¬may → exec (.blockPlacement n core base) s = .next s) ∧
      (roomOn s core base g.kernel = none ∨ freeSave s g.asid = none → exec (.blockPlacement n core base) s = .next s) ∧
      ∀ r i, may → roomOn s core base g.kernel = some r → freeSave s g.asid = some i →
        (∀ x ∈ s.threads, ∀ j, x.1 ≠ .group s.nextBlock j) →
        let t := placeBlock s n g core base i r
        exec (.blockPlacement n core base) s = .next (if reserveKept s t d g.vdepth.toNat = true then t else s) ∧
          t.grid? n = some { g with placed := g.placed + 1 } ∧
          (∃ k, t.block? s.nextBlock = some k ∧ k.grid = n ∧ k.core = core ∧ k.blkno = BitVec.ofNat 64 g.placed ∧
            k.resident = true ∧ k.notEnded = fullMask g.kernel.ngrp ∧ k.save = i ∧ k.asid = g.asid) ∧
          ∀ j st, r.sts[j]? = some st → j < g.kernel.ngrp →
            ∃ u, t.thread? (.group s.nextBlock j) = some u ∧ u.pc = g.kernel.entry ∧ u.nalloc = g.kernel.nalloc ∧
              u.live = (launchLanes g).1 ∧ u.exm = u.live ∧ u.help = (launchLanes g).2 ∧ u.gst = 0 ∧ u.gstate = st ∧
              u.prio = g.prio ∧ u.p = []) ∧
  (∀ (s : State) (b : Nat),
    (s.block? b = none → exec (.blockEnd b) s = .next s) ∧
    ∀ k, s.block? b = some k →
      (blockOver s b k = false → exec (.blockEnd b) s = .next s) ∧
      ∀ g, blockOver s b k = true → s.grid? k.grid = some g → g.shade = none →
        ∃ v, exec (.blockEnd b) s = .next v ∧ v.block? b = none ∧ (∀ j, v.thread? (.group b j) = none) ∧
          v.grid? k.grid = some { g with endedBlocks := g.endedBlocks + 1 } ∧ (∀ c, c ≠ b → v.block? c = s.block? c) ∧
          v.mem = s.mem) ∧
  (∀ (s : State) (n : Nat),
    (s.grid? n = none → exec (.gridComplete n) s = .next s) ∧
    ∀ g, s.grid? n = some g →
      let st : BitVec 16 := if g.status = 0 then 1 else g.status
      let g' := { g with status := st }
      let wr := (releaseAll s).writeVirt (.core 0x1020) g.asid false (g.recAddr.toNat + 0x18) 8 st.toNat
      (g.stalled = true ∨ g.stage = 2 ∨ gridOver s n g = false → exec (.gridComplete n) s = .next s) ∧
      (g.stalled = false → g.stage = 0 → gridOver s n g = true → g.shade = none →
        (∀ c, wr = .error c →
          exec (.gridComplete n) s = .next (stallGrid (releaseAll s) n g' c (g.recAddr.toNat + 0x18))) ∧
        ∀ u, wr = .ok u → exec (.gridComplete n) s = .next (signalGrid (u.setGrid n { g' with stage := 1 }) n { g' with stage := 1 })) ∧
      (g.stalled = false → g.stage = 1 → gridOver s n g = true →
        exec (.gridComplete n) s = .next (signalGrid s n g) ∧
        ((∀ x ∈ s.grids, x.2.parent = some n → x.1 ≠ n) →
          let done (v : State) : Prop := v.grid? n = some { g with stage := 2, stalled := false }
          (g.signal = 0 → done (signalGrid s n g) ∧ (signalGrid s n g).mem = s.mem) ∧
          ∀ p e c, g.signal ≠ 0 → s.check (.core 0x1020) g.asid false false false .red false g.signal.toNat 8 = .ok p e c →
            s.poisoned p = false →
            done (signalGrid s n g) ∧
              (signalGrid s n g).home64 p = (s.touch (.core 0x1020) .red (.ok p e c)).home64 p + 1))) ∧
  (∀ (s : State) (q idx : Nat),
    let k := s.queue q
    ((∀ x ∈ k.flight, x.idx ≠ idx) → (∀ x ∈ k.gangs, x.1 ≠ idx) → exec (.packetCompletion q idx) s = .next s) ∧
    (∀ x, k.flight.find? (fun y => y.idx = idx) = some x →
      let behind : Prop :=
        ∃ m ∈ s.sys.queues, ∃ y ∈ m.2.flight, y.order < x.order ∧
          (x.is64 = true ∨ y.phys < x.phys + x.bytes ∧ x.phys < y.phys + y.bytes)
      (behind → exec (.packetCompletion q idx) s = .next s) ∧
      (¬behind → ∃ v, exec (.packetCompletion q idx) s = .next v ∧
        v.queue q = { k with flight := k.flight.filter fun y => y ≠ x, outst := k.outst - 1 } ∧
        (x.is64 = true → v.home64 x.phys = x.value))) ∧
    ∀ x, (∀ y ∈ k.flight, y.idx ≠ idx) → k.gangs.find? (fun y => y.1 = idx) = some x →
      ((∃ n ∈ x.2, ∃ g, s.grid? n = some g ∧ g.stage ≠ 2) → exec (.packetCompletion q idx) s = .next s) ∧
      ((∀ n ∈ x.2, ∀ g, s.grid? n = some g → g.stage = 2) →
        ∃ v, exec (.packetCompletion q idx) s = .next v ∧
          v.queue q = { k with gangs := k.gangs.filter fun y => y.1 ≠ idx, outst := k.outst - 1 } ∧
          ∀ n ∈ x.2, v.grid? n = none)) ∧
  (∀ (s : State),
    (s.sys.running = false ∨ servedQueues s = [] → exec .firmwareStep s = .next s) ∧
    ∀ q, s.sys.running = true → servedQueues s = [q] →
      (∀ u, fetchPacket s q = (none, u) → exec .firmwareStep s = .next u) ∧
      ∀ p u, fetchPacket s q = (some p, u) →
        let k := u.queue q
        let taken (v : State) (fl : List InFlight) (more : BitVec 16) : Prop :=
          exec .firmwareStep s = .next v ∧
            v.queue q = { k with ridx := k.ridx + 1, qstate := 1, outst := k.outst + more, attempts := 0, drain := 0,
                                 flight := k.flight ++ fl }
        (∀ m ∈ u.sys.queues, ∀ y ∈ m.2.flight, y.order < p.order) ∧
        (∀ c, p.error = some c → exec .firmwareStep s = .next (raiseInt 16 6 (u.setQueue q { k with qstate := 3, ecode := c }))) ∧
        (p.error = none → p.bar = true → k.outst ≠ 0 →
          exec .firmwareStep s = .next (u.setQueue q { k with qstate := 2, hcode := 1 })) ∧
        (p.error = none → p.bar = false ∨ k.outst = 0 →
          (p.type = 0 → ∃ v, taken v [] 0 ∧ v.mem = u.mem) ∧
          (p.type = 5 → ∀ x w, (seeOwn u k.asid p.addr 8).readVirt fwTlb k.asid false p.addr 8 = .ok (x, w) →
            let holds : Prop := (BitVec.ofNat 64 x &&& p.word 0x10 = p.word 0x18) ↔ p.arg = 0
            let j := w.queue q
            (holds → ∃ v, exec .firmwareStep s = .next v ∧
              v.queue q = { j with ridx := k.ridx + 1, qstate := 1, attempts := 0, drain := 0 }) ∧
            (¬holds → exec .firmwareStep s = .next (w.setQueue q { j with qstate := 2, hcode := 2 }))) ∧
          (p.type = 4 → ∀ a e c, u.check fwTlb k.asid false false false .write false p.addr 8 = .ok a e c →
            ∃ v, taken v [{ idx := k.ridx.toNat, order := p.order, is64 := true, va := p.addr, phys := a,
                            page := (u.touch fwTlb .write (.ok a e c)).pageAt fwTlb k.asid p.addr, value := p.word 0x10, stale := false }]
              1) ∧
          (p.type = 3 → ∀ a e c, u.check fwTlb k.asid false false false .red false p.addr 4 = .ok a e c → u.poisoned a = false →
            ∃ v, taken v [{ idx := k.ridx.toNat, order := p.order + 1, is64 := false, va := p.addr, phys := a,
                            page := (u.touch fwTlb .red (.ok a e c)).pageAt fwTlb k.asid p.addr, value := BitVec.ofNat 64 p.arg,
                            stale := false }] 1) ∧
          (p.type = 1 →
            (256 ≤ queueGrids u q → exec .firmwareStep s = .next (u.setQueue q { k with qstate := 2, hcode := 4 })) ∧
            (queueGrids u q < 256 →
              (∀ c va, readGrid u fwTlb k.asid p.addr (ownBefore k.asid) = .error (c, va) →
                exec .firmwareStep s = .next (targetFault u q c 0 va)) ∧
              ∀ src w, readGrid u fwTlb k.asid p.addr (ownBefore k.asid) = .ok (src, w) →
                let j := w.queue q
                ∃ v g, exec .firmwareStep s = .next v ∧ v.grid? w.nextGrid = some g ∧ packetGrid g q k src p.addr k.dies ∧
                  g.placed = 0 ∧ g.status = ((launchFailure w src k.asid k.dies false).map failStatus).getD 0 ∧
                  (∀ n, n ≠ w.nextGrid → v.grid? n = w.grid? n) ∧ v.threads = w.threads ∧ v.mem = w.mem ∧
                  v.queue q = { j with ridx := k.ridx + 1, qstate := 1, outst := j.outst + 1, attempts := 0, drain := 0,
                                       gangs := j.gangs ++ [(k.ridx.toNat, [w.nextGrid])] })) ∧
          (p.type = 2 →
            (∀ c va, readGangRec u k.asid p.addr = .error (c, va) → exec .firmwareStep s = .next (targetFault u q c 0 va)) ∧
            ∀ bs w l x, readGangRec u k.asid p.addr = .ok (bs, w) →
              readGang w k.asid (if gangOk w k.asid bs = true then gangEntries bs
                else (gangEntries bs).filter fun y => y.1 % 256 = 0) = .ok (l, x) →
              let j := x.queue q
              let why (src : GridSrc) (m : BitVec 16) : Option Nat :=
                if gangOk w k.asid bs = true then launchFailure x src k.asid m true else some 4
              let made := addGang (x.setQueue q { j with drain := 0 }) p k.asid k.prio why l
              let put := if gangOk w k.asid bs = false ∨ queuePlaced x q = true then placeGang made.2 made.1 else none
              (gangOk w k.asid bs = false → put = some made.2) ∧
              (put = none → exec .firmwareStep s =
                .next (x.setQueue q { j with qstate := 2, hcode := 3, attempts := j.attempts + 1, drain :=
                  if 16 ≤ j.attempts + 1 then (gangEntries bs).foldl (fun m y => m ||| y.2) 0 else j.drain })) ∧
              ∀ y, put = some y →
                ∃ v, exec .firmwareStep s = .next v ∧ v.threads = y.threads ∧ v.blocks = y.blocks ∧
                  v.queue q = { j with ridx := k.ridx + 1, qstate := 1, outst := j.outst + 1, attempts := 0, drain := 0,
                                       gangs := j.gangs ++ [(k.ridx.toNat, (List.range l.length).map fun i => x.nextGrid + i)] } ∧
                  ∀ i src va m, l[i]? = some (src, va, m) →
                    ∃ g, v.grid? (x.nextGrid + i) = some g ∧ packetGrid g q k src va m ∧
                      g.status = ((why src m).map failStatus).getD 0 ∧ g.placed = if g.status = 0 then g.nblk else 0))) ∧
  (∀ (s : State),
    (s.sys.booted = true → exec .boot s = .next s) ∧
    (s.sys.booted = false →
      (∀ n, bootImages s = .error n →
        exec .boot s = .next { s with sys := { s.sys with booted := true, bootstat := BitVec.ofNat 64 n } }) ∧
      ∀ fw k, bootImages s = .ok (fw, k) → (∀ x ∈ s.threads, x.1 ≠ .group s.nextBlock 0) →
        ∃ v t c, exec .boot s = .next v ∧ v.sys.booted = true ∧ v.sys.running = true ∧ v.sys.bootstat = 0 ∧
          v.thread? (.group s.nextBlock 0) = some t ∧ t.pc = BitVec.ofNat 64 k.entry ∧ t.live = 1 ∧ t.exm = 1 ∧
          v.block? s.nextBlock = some c ∧ c.core = 0x1000 ∧
          ∀ j, j < k.body.length → v.homeByte (k.load + j) = k.body.getD j 0)) ∧
  ∀ (s : State),
    (s.sys.quote = none → exec .attestationQuote s = .next s) ∧
    (∀ x, s.sys.quote = some x →
      let p := x.toNat
      (p % 64 ≠ 0 ∨ physExists p = false ∨ physExists (p + 191) = false →
        exec .attestationQuote s = .next { s with sys := { s.sys with quote := none } }) ∧
      (p % 64 = 0 → physExists p = true → physExists (p + 191) = true →
        ∃ v, exec .attestationQuote s = .next v ∧ v.sys.quote = none ∧ (v.die 16).intpend.getLsbD 7 = true ∧
          let h := quoteHead s (readBytes s.homeByte p 32)
          (∀ j, j < 32 → v.homeByte (p + j) = s.homeByte (p + j)) ∧ (∀ j, j < 128 → v.homeByte (p + j) = h.getD j 0) ∧
          (∀ j, j < 32 → v.homeByte (p + 128 + j) = (beBytes 32 (quoteSign h).1).getD j 0 ∧
            v.homeByte (p + 160 + j) = (beBytes 32 (quoteSign h).2).getD j 0) ∧
          ∀ y, y < p ∨ p + 192 ≤ y → v.homeByte y = s.homeByte y)) ∧
    ∃ m : BitVec 48, exec .scPackageMark s = .next (s.modSys fun y => { y with scMark := m }) ∧
      (m = s.sys.scMark ∨ ∃ d ∈ s.dies, ∃ x ∈ d.2.scMax, m = x.2.t) ∧
      ((∀ d ∈ s.dies, ∀ x ∈ d.2.scMax, scNewer x.2.t s.sys.scMark = false) → m = s.sys.scMark)

/-- A level update counts up below `LOW` and down from `HIGH`, where due; until it is made, and at level 16, no agent of the die
issues. Leave goes to the head of the order where the level once updated, the slew hold and `COUNT` allow it, and its cost is a
debit. A cycle adds the refill, takes the debits, and makes the update due every 64th. A settlement takes the context's debit from
its credit. A core is gated in two steps where it is idle, and one that is gated is ungated empty; when each happens, and when a
hold begins, the move says (notes/assumptions/47.md). A write of `PACFG`, `QBASE`, `QCFG`, `QCACHE` and `FABCFG` sets the word where
its table accepts the value, with its reserved bits 0 (notes/assumptions/20.md and 62.md), and nothing else; that the check of
`FABCFG` looks at the package's sending flows is presumed (notes/assumptions/80.md); `ATTCMD` starts a quote, and `KRING` takes its
address and is the port's doorbell. -/
def Obligations.PowerAndDeviceEventsComplete : Prop :=
  (∀ (s : State) (d : Nat),
    let x := s.die d
    (x.levelDue = false → exec (.levelUpdate d) s = .next s) ∧
    (x.levelDue = true → x.low < x.high →
      exec (.levelUpdate d) s =
        .next (s.setDie d { x with levelDue := false, level :=
          if x.count < x.low * 1024 then (if x.level < 16 then x.level + 1 else 16)
          else if x.high * 1024 ≤ x.count then x.level - 1 else x.level })) ∧
    exec (.slewHoldEnd d) s = .next (s.setDie d { x with slewHold := false }) ∧
    (∀ hold, x.leaves = [] → exec (.leaveGrant d hold) s = .next s) ∧
    (∀ hold r rest, x.leaves = r :: rest →
      let prio : Nat :=
        match r.who with
        | .chunk _ _ _ => r.prio
        | _ => min 15 (r.prio + r.wait / 1024)
      let may : Prop := x.slewHold = false ∧ x.levelDue = false ∧ x.level ≤ prio ∧
        ((r.cost : Int) ≤ x.count ∨ x.cap < r.cost ∧ x.count = x.cap)
      (¬may → exec (.leaveGrant d hold) s = .next s) ∧
      (may → d < 16 →
        ∃ v, exec (.leaveGrant d hold) s = .next v ∧ (v.die d).leaves = rest ∧ (v.die d).debit = x.debit + r.cost ∧
          (v.die d).slewHold = hold ∧ (v.die d).count = x.count ∧
          (∀ b k, r.who = .matrix b → s.block? b = some k →
            v.block? b = some { k with mq := k.mq.map fun m => { m with leave := true } }) ∧
          ∀ n y, r.who = .row n → tlook n s.views = some y → tlook n v.views = some { y with leave := true })) ∧
    (x.levelDue = true → exec (.allowanceRefill d) s = .next s) ∧
    (∀ a, s.dieNo a = d → x.levelDue = true ∨ 16 ≤ x.level → canIssue s a = false) ∧
    (x.levelDue = false →
      ∃ v, exec (.allowanceRefill d) s = .next v ∧ (v.die d).clk = x.clk + 1 ∧
        (v.die d).count = min (x.cap : Int) (x.count + x.rate) - x.debit ∧ (v.die d).debit = 0 ∧
        ((v.die d).levelDue = true ↔ x.clk.toNat % 64 = 63) ∧ v.mem = s.mem ∧ v.blocks = s.blocks) ∧
    (∀ asid, 16 ≤ d ∨ s.ctxRec asid = 0 → exec (.energySettlement d asid) s = .next s) ∧
    (∀ asid, d < 16 → s.ctxRec asid ≠ 0 →
      let r := s.ctxRec asid
      let c := s.ctxWord asid 0x38 - BitVec.ofNat 64 (tget 0 asid.toNat x.ctxDebit)
      let q := ((s.setDie d { x with ctxDebit := tdel asid.toNat x.ctxDebit }).putHome64 (r + 0x38) c).ctxWord asid 0x40
      ∃ v, exec (.energySettlement d asid) s = .next v ∧ v.home64 (r + 0x38) = c ∧
        tget 0 asid.toNat (v.die d).ctxDebit = 0 ∧
        (q.getLsbD 1 = true → c.toInt ≤ 0 → stoppedOn v d asid = true) ∧
        (q.getLsbD 1 = false → stoppedOn s d asid = false → stoppedOn v d asid = false) ∧
        (0 < c.toInt → stoppedOn v d asid = false))) ∧
  (∀ (s : State) (c : Nat),
    let k := s.core c
    (mayGate s c = false ∨ k.gating = .gated → exec (.coreGate c) s = .next s) ∧
    (mayGate s c = true → k.gating = .on → exec (.coreGate c) s = .next (s.setCore c { k with gating := .gating })) ∧
    (mayGate s c = true → k.gating = .gating →
      ∃ v, exec (.coreGate c) s = .next v ∧ (v.core c).gating = .gated ∧ (v.core c).l1 = [] ∧ (v.core c).tlb = [] ∧
        v.mem = (s.forwardL1 c fun _ => true).mem) ∧
    (k.gating ≠ .gated → exec (.coreUngate c) s = .next s) ∧
    (k.gating = .gated →
      exec (.coreUngate c) s = .next (s.setCore c { k with gating := .on, l1 := [], l1Tags := [], tlb := [] }))) ∧
  ∀ (s : State) (v : Dword),
    let y := s.sys
    exec (.attcmdWrite v) s = .next { s with sys := { y with attcmd := v, quote := some v } } ∧
    (∀ p, exec (.kringWrite p v) s = .next (if p < 16 then
      { s with sys := { y with kring := tput p v y.kring, ringDue := p :: y.ringDue.filter fun x => x ≠ p } } else s)) ∧
    (∀ d, let x := s.die d
      (16 < d → exec (.pacfgWrite d v) s = .next s) ∧
      (d ≤ 16 →
        (let low := v.toNat / 2 ^ 12 % 2 ^ 12
         let high := v.toNat % 2 ^ 12
         let ok : Prop := v.toNat / 2 ^ 48 ≠ 0 ∧ low < high ∧ high * 1024 ≤ v.toNat / 2 ^ 24 % 2 ^ 24
         (ok → exec (.pacfgWrite d v) s = .next (s.setDie d { x with pacfg := v })) ∧
         (¬ok → exec (.pacfgWrite d v) s = .next s)))) ∧
    (∀ q cfg,
      let k := s.queue q
      (64 ≤ q ∨ k.qstate ≠ 5 → exec (.queueConfigWrite q cfg v) s = .next s) ∧
      (q < 64 → k.qstate = 5 →
        exec (.queueConfigWrite q false v) s = .next (s.setQueue q { k with qbase := v }) ∧
        (4 ≤ v.toNat % 32 → v.toNat % 32 ≤ 16 →
          exec (.queueConfigWrite q true v) s = .next (s.setQueue q { k with qcfg := v &&& 0xFFFFFFFF0000071F#64 })) ∧
        (v.toNat % 32 < 4 ∨ 16 < v.toNat % 32 → exec (.queueConfigWrite q true v) s = .next s)) ∧
      let ok : Prop := q < 64 ∧ v.toNat / 2 ^ 48 % 256 ≤ 63 ∧ v.toNat / 2 ^ 40 % 256 ≤ 192 ∧ v.toNat / 2 ^ 32 % 256 ≤ 64 ∧
        v.toNat % 4 ≠ 3
      (ok → exec (.qcacheWrite q v) s = .next (s.setQueue q { k with qcache := v &&& 0x00FFFFFF00000003#64 })) ∧
      (¬ok → exec (.qcacheWrite q v) s = .next s)) ∧
    let ok : Prop := (y.flows = [] ∨ v.toNat / 2 ^ 32 = y.fabcfg.toNat / 2 ^ 32) ∧
      v.toNat / 2 ^ 16 % 256 ≤ 63 ∧ 10 ≤ v.toNat % 32 ∧ v.toNat % 32 ≤ 30
    (ok → exec (.fabcfgWrite v) s = .next { s with sys := { y with fabcfg := v &&& 0xFFFFFFFF00FF001F#64 } }) ∧
    (¬ok → exec (.fabcfgWrite v) s = .next s)

namespace Sys2Proof.Machine

/-- State `v` is state `s` with one more frame on the wire, and nothing else. -/
def sentOne (s v : State) (g : Frame) : Prop := v = s.modSys fun y => { y with wire := y.wire ++ [g] }

/-- The frame of an acknowledgment (kind 5) or a negative one (kind 6) that answers `f` (R382, R383, R385). -/
def answers (s : State) (f g : Frame) (kind : BitVec 8) (hold refuse : Bool) (seq ack : Word) : Prop :=
  g.kind = kind ∧ g.hold = hold ∧ g.value = (if refuse then 1 else 0) ∧ g.seq = seq ∧ g.ack = ack ∧ g.dst = f.src ∧
    g.src = s.sys.fabcfg.extractLsb' 48 16 ∧ g.srcDie = f.srcDie ∧ g.openNo = f.openNo ∧ g.data = [] ∧
    g.etype = s.sys.fabcfg.extractLsb' 32 16

/-- The frames of a flow as a port sends them (R382, R383): under the peer's entry, with the open bit before the first acknowledgment. -/
def asSent (s : State) (x : Flow) (p : Nat) (l : List (Frame × FrameFor)) : List Frame :=
  l.map fun y =>
    { y.1 with port := BitVec.ofNat 4 p, dmac := BitVec.ofNat 48 (leNat ((peerEntry s x.pkg).take 6)), smac := Config.portMac p,
               etype := s.sys.fabcfg.extractLsb' 32 16, opening := !x.acked, ack := expectedFrom s x.pkg x.die }

end Sys2Proof.Machine

/-- A `PAUSE` frame and one above the limit are discarded, a frame of another `EtherType` goes to the kernel ring, and a lost one is
only counted. A frame next in order, or one that opens its flow, is performed under the peer entry read for it: a write or a signal
at its bytes, a read request by a frame of read data; it is then acknowledged and the next one is expected. The read lock of a read
request stays until its read data is sent (R386). Read data from a package without a valid entry is refused. One out of order, of
another open number or behind a held one is discarded with a negative acknowledgment; a refused one is answered so (by `VALUE` 1,
notes/assumptions/41.md), and one that faults is held with its lock and its record. An acknowledgment takes the frames before it off
its flow and lets waiting ones go (notes/assumptions/42.md); a negative one refuses its operation, holds the timer or makes the
sender resend; the 64th time-out in a row fails the flow. Links come up and down, and no flow stays on a port that is down. A port
reads its ring record after a write of `KRING` (notes/assumptions/46.md); rings receive and transmit one frame into and from the
next descriptor, and discard what is above the limit (notes/assumptions/80.md); `RETX` counts frames sent again; a storage request
locks its bytes until it is performed, and a write is performed at its address. -/
def Obligations.FabricAndPortEventsComplete : Prop :=
  (∀ (s : State) (f : Frame),
    let lostNext : State := s.modSys fun y => { y with lost := y.lost + 1 }
    let performs : List (Instr × BitVec 8) :=
      [(.fabricWrite f, 0), (.fabricReadRequest f, 1), (.fabricSignalSet f, 3), (.fabricSignalAdd f, 4)]
    let fine : Prop := isPause (frameBytes f) = false ∧ (frameBytes f).length + 4 ≤ 9216
    let etype := s.sys.fabcfg.extractLsb' 32 16
    let ours : Prop := fine ∧ f.etype = etype
    let fresh : RxFlow := { pkg := f.src.toNat, die := f.srcDie.toNat, openNo := f.openNo, expected := 0, frame := none }
    (frameLost s f = true ↔
      6 < f.kind.toNat ∨ f.good = false ∨ (s.sys.pkgNo ≠ 0xFFFF ∧ f.dst.toNat ≠ s.sys.pkgNo)) ∧
    exec (.fabricFrameLost f) s = .next (if f.etype = etype ∧ frameLost s f = true then lostNext else s) ∧
    (∀ neg hold refuse seq ack, ∃ g, sentOne s (answer s f neg hold refuse seq ack) g ∧
      answers s f g (if neg then 6 else 5) hold refuse seq ack) ∧
    (∀ y ∈ performs ++ [(.fabricReadData f, 2), (.fabricAck f, 5), (.fabricNak f, 6)],
      (f.kind ≠ y.2 ∨ ¬fine → exec y.1 s = .next s) ∧
      (f.kind = y.2 → fine → f.etype ≠ etype → exec y.1 s = .next (ringReceive s f.port.toNat (frameBytes f) f.good)) ∧
      (f.kind = y.2 → ours → frameLost s f = true → exec y.1 s = .next lostNext)) ∧
    (∀ y ∈ performs ++ [(.fabricReadData f, 2)], f.kind = y.2 → ours → frameLost s f = false →
      (s.rxFlow? f = none → f.opening = false ∨ f.seq ≠ 0 → exec y.1 s = .next (answer s f true false false f.seq 0)) ∧
      ∀ x, s.rxFlow? f = some x →
        (x.openNo ≠ f.openNo → f.opening = false ∨ f.seq ≠ 0 → exec y.1 s = .next (answer s f true false false f.seq 0)) ∧
        (x.openNo = f.openNo → x.frame ≠ none → exec y.1 s = .next (answer s f true true false f.seq x.expected)) ∧
        (x.openNo = f.openNo → x.frame = none → x.expected ≠ f.seq →
          exec y.1 s = .next (answer s f true false false f.seq x.expected))) ∧
    (∀ y ∈ performs, f.kind = y.2 → ours → frameLost s f = false → f.opening = true → f.seq = 0 →
      let p := peerEntry s f.src.toNat
      (s.rxFlow? f = none → exec y.1 s = .next (performNext s fresh p f)) ∧
      ∀ x, s.rxFlow? f = some x → x.openNo ≠ f.openNo → exec y.1 s = .next (performNext (dropRxFrame s x) fresh p f)) ∧
    (∀ y ∈ performs, f.kind = y.2 → ours → frameLost s f = false → ∀ x, s.rxFlow? f = some x → x.openNo = f.openNo → x.frame = none →
      x.expected = f.seq →
      let p := peerEntry s f.src.toNat
      let n := f.value.toNat
      let readLock (l : RLock) : Prop :=
        l.asid = peerAsid p ∧ l.write = false ∧ l.lo % 256 = 0 ∧ l.hi % 256 = 0 ∧ l.lo ≤ f.addr.toNat ∧ f.addr.toNat + n ≤ l.hi
      let right : Prop := s.sys.pkgNo ≠ 0xFFFF ∧ peerValid p = true ∧ peerMay p (rightFor f.kind.toNat) = true
      let after (v : State) : Prop := exec y.1 s = .next v ∧ v.rxFlow? f = some { x with expected := f.seq + 1 } ∧
        ∃ g, v.sys.wire.getLast? = some g ∧ answers s f g 5 false false f.seq (f.seq + 1)
      let holds (v : State) : Prop := exec y.1 s = .next v ∧ v.mem = s.mem ∧
        ∃ l : RLock, v.rxFlow? f = some { x with frame := some { frame := f, peer := p, lock := l } } ∧
          (v.die 16).locks = (s.die 16).locks ++ [l] ∧ l.asid = peerAsid p ∧ l.write = decide (f.kind ≠ 1) ∧ l.lo % 256 = 0 ∧
          l.hi % 256 = 0 ∧ l.lo ≤ f.addr.toNat ∧ f.addr.toNat + (if f.kind.toNat ≤ 1 then n else 8) ≤ l.hi
      (¬right → ∃ v g, exec y.1 s = .next v ∧ v.rxFlow? f = some { x with expected := f.seq + 1 } ∧ v.mem = s.mem ∧
        v.sys.wire = s.sys.wire ++ [g] ∧ answers s f g 6 false true f.seq (f.seq + 1)) ∧
      (right → f.kind = 0 → ∀ q u, virtRange .net .write (peerAsid p) s (piecesOf f.addr.toNat n) = .ok ([(q, n)], u) →
        f.data.length = n → ∃ v, after v ∧ ∀ j, j < n → v.homeByte (q + j) = f.data.getD j 0) ∧
      (right → f.kind = 1 → ∀ ps u, virtRange .net .read (peerAsid p) s (piecesOf f.addr.toNat n) = .ok (ps, u) →
        ∃ v z g l, after v ∧ v.flow? 16 f.src.toNat = some z ∧ (z.unacked ++ z.waiting).getLast? = some (g, .reply l) ∧ g.kind = 2 ∧
          g.data = getPieces u ps ∧ g.addr = f.addr ∧ g.tag = f.tag ∧ readLock l ∧
          ((∀ z', s.flow? 16 f.src.toNat = some z' → ∀ y ∈ z'.unacked ++ z'.waiting, y.2 ≠ .reply l) →
            z.waiting ≠ [] ∨ 0 < z.unsent → l ∈ (v.die 16).locks) ∧
          (s.flow? 16 f.src.toNat = none → z.unsent = 0 → z.waiting = [] → l ∉ (s.die 16).locks →
            (v.die 16).locks = (s.die 16).locks)) ∧
      (right → f.kind.toNat ≤ 1 → ∀ c,
        virtRange .net (if f.kind = 0 then .write else .read) (peerAsid p) s (piecesOf f.addr.toNat n) = .error c → ∃ v, holds v) ∧
      (right → f.kind = 3 → ∀ q e c, s.check .net (peerAsid p) false false false .write false f.addr.toNat 8 = .ok q e c →
        ∃ v, after v ∧ v.home64 q = f.value) ∧
      (right → f.kind = 4 → ∀ q e c, s.check .net (peerAsid p) false false false .atomic false f.addr.toNat 8 = .ok q e c →
        s.poisoned q = false →
        ∃ v, after v ∧ v.home64 q = (s.touch .net .atomic (.ok q e c)).home64 q + f.value) ∧
      (right → 3 ≤ f.kind.toNat → ∀ c,
        s.check .net (peerAsid p) false false false (if f.kind = 3 then .write else .atomic) false f.addr.toNat 8 = .fail c →
        ∃ v, holds v)) ∧
    (∀ x, f.kind = 2 → ours → frameLost s f = false → s.rxFlow? f = some x → x.openNo = f.openNo → x.frame = none →
      x.expected = f.seq →
      exec (.fabricReadData f) s = .next (takeReadData s x f) ∧
        (takeReadData s x f).rxFlow? f = some { x with expected := f.seq + 1 } ∧
        let known : Prop := s.sys.pkgNo ≠ 0xFFFF ∧ peerValid (peerEntry s f.src.toNat) = true
        ∃ g, (takeReadData s x f).sys.wire = s.sys.wire ++ [g] ∧
          (known → answers s f g 5 false false f.seq (f.seq + 1)) ∧
          (¬known → answers s f g 6 false true f.seq (f.seq + 1) ∧ ((∀ y ∈ s.blocks, y.2.resident = true) → (takeReadData s x f).mem = s.mem))) ∧
    (∀ i ∈ [(Instr.fabricAck f, (5 : BitVec 8)), (.fabricNak f, 6)], f.kind = i.2 → ours → frameLost s f = false → ackedFlow s f = none →
      exec i.1 s = .next s) ∧
    ∀ x, ours → frameLost s f = false → ackedFlow s f = some x →
      (f.kind = 5 →
        let k := match x.unacked with
          | [] => 0
          | (g, _) :: _ => if (f.ack - g.seq).toNat ≤ x.unacked.length then (f.ack - g.seq).toNat else 0
        ∃ v z more, exec (.fabricAck f) s = .next v ∧ v.flow? f.srcDie.toNat f.src.toNat = some z ∧
          z.unacked = x.unacked.drop k ++ more ∧ (x.waiting = [] → more = []) ∧ z.timeouts = 0 ∧ z.held = false ∧ z.acked = true) ∧
      (f.kind = 6 → f.value ≠ 1 → f.hold = true → exec (.fabricNak f) s = .next (s.setFlow { x with held := true })) ∧
      (∀ g who rest, f.kind = 6 → f.value = 1 → x.unacked = (g, who) :: rest → f.seq = g.seq →
        ∃ v z more, exec (.fabricNak f) s = .next v ∧ v.flow? f.srcDie.toNat f.src.toNat = some z ∧ z.unacked = rest ++ more ∧
          (x.waiting = [] → more = [])) ∧
      (∀ g who rest, f.kind = 6 → f.value = 1 → x.unacked = (g, who) :: rest → x.unacked.length < (f.seq - g.seq).toNat →
        exec (.fabricNak f) s = .next s) ∧
      ∀ g who rest p, f.kind = 6 → f.value ≠ 1 → f.hold = false → x.unacked = (g, who) :: rest → f.ack = g.seq → x.waiting = [] →
        flowPort s x = some p →
        ∃ v, exec (.fabricNak f) s = .next v ∧ v.sys.wire = s.sys.wire ++ asSent s x p x.unacked ∧
          v.sys.retx = s.sys.retx + BitVec.ofNat 32 (x.unacked.length - x.unsent)) ∧
  (∀ (s : State) (die pkg : Nat),
    (s.flow? die pkg = none → exec (.retransmitTimeout die pkg) s = .next s) ∧
    ∀ x, s.flow? die pkg = some x →
      (∀ p, flowPort s x = some p → peerValid (peerEntry s x.pkg) = true ∧ (peerMask (peerEntry s x.pkg)).getLsbD p = true ∧
        portUp s p = true) ∧
      (x.unacked = [] ∨ x.held = true → exec (.retransmitTimeout die pkg) s = .next s) ∧
      (x.unacked ≠ [] → x.held = false → x.timeouts < 63 →
        ∃ v, exec (.retransmitTimeout die pkg) s = .next v ∧
          v.flow? die pkg = some { x with timeouts := x.timeouts + 1, port := flowPort s x,
                                          unsent := if (flowPort s x).isSome then 0 else x.unsent } ∧
          v.sys.retx = s.sys.retx +
            (if (flowPort s x).isSome then BitVec.ofNat 32 (x.unacked.length - x.unsent) else 0) ∧
          v.sys.wire = s.sys.wire ++ match flowPort s x with
            | some p => asSent s x p x.unacked
            | none => []) ∧
      (x.unacked ≠ [] → x.held = false → 63 ≤ x.timeouts →
        ∃ v, exec (.retransmitTimeout die pkg) s = .next v ∧ v.flow? die pkg = none ∧ v.sys.flowfail = s.sys.flowfail + 1)) ∧
  (∀ (s : State) (port : Nat) (up : Bool) (media : BitVec 3),
    let bad : Prop := s.sys.running = false ∨ 4 < media.toNat
    (16 ≤ port ∨ up = true ∧ bad → exec (.portLinkChange port up media) s = .next s) ∧
    (port < 16 → up = false ∨ ¬bad →
      ∃ v, exec (.portLinkChange port up media) s = .next v ∧ portUp v port = up ∧
        (up = true → (tget 0 port v.sys.portstat).extractLsb' 60 3 = media) ∧
        (∀ p, p ≠ port → tget 0 p v.sys.portstat = tget 0 p s.sys.portstat) ∧ v.mem = s.mem ∧
        ∀ y ∈ v.sys.flows, ∀ p, y.port = some p → portUp v p = true)) ∧
  (∀ (s : State) (port : Nat) (data : List Byte) (good : Bool),
    let u := ringSync s port
    let due : Prop := port ∈ s.sys.ringDue
    let at' := (tget 0 port s.sys.kring).toNat
    (16 ≤ port ∨ portUp s port = false →
      exec (.kernelRingReceive port data good) s = .next s ∧ exec (.kernelRingTransmit port) s = .next s) ∧
    (isPause data = true ∨ 9216 < data.length + 4 → exec (.kernelRingReceive port data good) s = .next s) ∧
    (port < 16 → portUp s port = true → isPause data = false → data.length + 4 ≤ 9216 →
      let f := frameOf port data good
      (f.etype = s.sys.fabcfg.extractLsb' 32 16 → exec (.kernelRingReceive port data good) s = .next (receiveFrame s f)) ∧
      (f.etype ≠ s.sys.fabcfg.extractLsb' 32 16 → exec (.kernelRingReceive port data good) s = .next (ringReceive s port data good))) ∧
    (port < 16 → portUp s port = true → exec (.kernelRingTransmit port) s = .next (ringTransmit s port)) ∧
    (¬due → u = s) ∧
    (due → port ∉ u.sys.ringDue ∧ u.mem = s.mem ∧ u.threads = s.threads ∧
      (∀ x, firstFail s [(at', 64, true)] = some x → ringOf u port = none ∧
        ∃ r, r.agent = 5 ∧ (u.die 16).fbuf ++ (u.die 16).held = (s.die 16).fbuf ++ (s.die 16).held ++ [r]) ∧
      (firstFail s [(at', 64, true)] = none → ∃ r, ringOf u port = some r ∧ r.at' = at' ∧
        r.tx = leNat (readBytes s.homeByte at' 8) ∧ r.rx = leNat (readBytes s.homeByte (at' + 8) 8) ∧
        r.size = 2 ^ ((s.homeByte (at' + 0x10)).toNat % 16) ∧ r.txTail = leNat (readBytes s.homeByte (at' + 0x18) 4) ∧
        r.txHead = leNat (readBytes s.homeByte (at' + 0x1C) 4) ∧ r.rxTail = leNat (readBytes s.homeByte (at' + 0x20) 4) ∧
        r.rxHead = leNat (readBytes s.homeByte (at' + 0x24) 4))) ∧
    (ringOf u port = none → ringReceive s port data good = u ∧ ringTransmit s port = u) ∧
    ∀ r, ringOf u port = some r →
      (r.rxHead = r.rxTail → ringReceive s port data good = u) ∧
      (r.txHead = r.txTail → ringTransmit s port = u) ∧
      (let d := r.rx + 16 * (r.rxHead % r.size)
       let b := (u.home64 d).toNat
       let bs := if good then data else []
       let h := (r.rxHead + 1) % 2 ^ 32
       (∀ x, r.rxHead ≠ r.rxTail → firstFail u [(d, 16, true)] = some x → ringReceive s port data good = ringFault u x) ∧
       (r.rxHead ≠ r.rxTail → firstFail u [(d, 16, true)] = none → firstFail u [(b, bs.length, false)] = none →
         ∃ v, ringReceive s port data good = v ∧ (v.die 16).intpend.getLsbD 0 = true ∧
           leNat (readBytes v.homeByte (r.at' + 0x24) 4) = h ∧ ringOf v port = some { r with rxHead := h } ∧
           ((∀ j, j < bs.length → (b + j < d + 8 ∨ d + 16 ≤ b + j) ∧ (b + j < r.at' + 0x24 ∨ r.at' + 0x28 ≤ b + j)) →
             ∀ j, j < bs.length → v.homeByte (b + j) = bs.getD j 0))) ∧
      let d := r.tx + 16 * (r.txHead % r.size)
      let b := (u.home64 d).toNat
      let n := leNat (readBytes u.homeByte (d + 8) 2)
      let h := (r.txHead + 1) % 2 ^ 32
      (∀ x, r.txHead ≠ r.txTail → firstFail u [(d, 16, true)] = some x → ringTransmit s port = ringFault u x) ∧
      (r.txHead ≠ r.txTail → firstFail u [(d, 16, true)] = none → firstFail u [(b, n, true)] = none →
        ∃ v, ringTransmit s port = v ∧
          v.sys.sentRaw = s.sys.sentRaw ++ (if n + 4 ≤ 9216 then [readBytes u.homeByte b n] else []) ∧
          (v.die 16).intpend.getLsbD 0 = true ∧ leNat (readBytes v.homeByte (r.at' + 0x1C) 4) = h ∧
          ringOf v port = some { r with txHead := h })) ∧
  ∀ (s : State),
    (∀ (width speed : BitVec 4),
      let ok : Prop := width.toNat ≤ 4 ∧ speed.toNat ≤ 6 ∧ (width = 0 ↔ speed = 0)
      (¬ok → exec (.pcieLinkChange width speed) s = .next s) ∧
      (ok → ∃ w : Dword, exec (.pcieLinkChange width speed) s = .next { s with sys := { s.sys with spcfg := w } } ∧
        w.extractLsb' 4 4 = width ∧ w.extractLsb' 0 4 = speed ∧ w.extractLsb' 48 16 = s.sys.spcfg.extractLsb' 48 16 ∧
        w.extractLsb' 8 40 = 0)) ∧
    ∀ (write : Bool) (addr : Dword) (len : Nat) (data : List Byte),
      let asid := s.sys.spcfg.extractLsb' 48 16
      let n := if write then data.length else len
      let acc : Acc := if write then .write else .read
      let lock : RLock :=
        { asid := asid, lo := addr.toNat / 256 * 256, hi := (addr.toNat + n + 255) / 256 * 256, write := write, owner := .device }
      (∀ r, s.agenda = .deviceLock write addr n :: r →
        ∃ v, step s = .next v ∧ (v.die 16).locks = (s.die 16).locks ++ [lock] ∧ v.mem = s.mem) ∧
      (∃ v, exec (.storageDeviceRequest write addr len data) s = .next v ∧ (v.die 16).locks = (s.die 16).locks.erase lock) ∧
      (∀ c va, virtRange .storage acc asid s (piecesOf addr.toNat n) = .error (c, va) →
        ∃ v, exec (.storageDeviceRequest write addr len data) s = .next v ∧ v.mem = s.mem ∧
          ∃ r, r.agent = 6 ∧ r.asid = asid ∧ (v.die 16).fbuf ++ (v.die 16).held = (s.die 16).fbuf ++ (s.die 16).held ++ [r]) ∧
      (∀ ps u, write = false → virtRange .storage acc asid s (piecesOf addr.toNat n) = .ok (ps, u) →
        ∃ v, exec (.storageDeviceRequest write addr len data) s = .next v ∧ v.mem = u.mem ∧ v.threads = s.threads) ∧
      ∀ q k u, write = true → virtRange .storage acc asid s (piecesOf addr.toNat n) = .ok ([(q, k)], u) → k = data.length →
        ∃ v, exec (.storageDeviceRequest write addr len data) s = .next v ∧ (∀ j, j < k → v.homeByte (q + j) = data.getD j 0) ∧
          ∀ y, y < q ∨ q + k ≤ y → v.homeByte y = u.homeByte y
end

