-- ==== Sys2Proof/Laws/Tab.lean ====
section
/-!
SUPPORT. Laws of tables and association lists: what is read after a write, and that every operation keeps the canonical form.
-/
namespace Sys2Proof.Machine

variable {α : Type}

/-! ### Reads after writes -/

theorem tlook_tput_same (k : Nat) (v : α) (t : Tab α) : tlook k (tput k v t) = some v := by
  induction t with
  | nil => simp [tput, tlook]
  | cons x r ih =>
    obtain ⟨j, w⟩ := x
    by_cases h : j = k
    · simp [tput, h, tlook]
    · by_cases h' : k < j
      · simp [tput, h, h', tlook]
      · simp [tput, h, h', tlook, ih]

theorem tlook_tput_ne {k j : Nat} (h : j ≠ k) (v : α) (t : Tab α) : tlook j (tput k v t) = tlook j t := by
  induction t with
  | nil => simp [tput, tlook, Ne.symm h]
  | cons x r ih =>
    obtain ⟨i, w⟩ := x
    by_cases h1 : i = k
    · subst h1; simp [tput, tlook, Ne.symm h]
    · by_cases h2 : k < i
      · simp [tput, h1, h2, tlook, Ne.symm h]
      · simp only [tput, h1, h2, if_false, tlook, ih]

theorem tlook_tdel_same (k : Nat) (t : Tab α) : tlook k (tdel k t) = none := by
  induction t with
  | nil => rfl
  | cons x r ih =>
    obtain ⟨i, w⟩ := x
    unfold tdel at ih ⊢
    by_cases h : i = k
    · simpa [h] using ih
    · simpa [h, tlook] using ih

theorem tlook_tdel_ne {k j : Nat} (h : j ≠ k) (t : Tab α) : tlook j (tdel k t) = tlook j t := by
  induction t with
  | nil => rfl
  | cons x r ih =>
    obtain ⟨i, w⟩ := x
    unfold tdel at ih ⊢
    by_cases h1 : i = k
    · subst h1; simpa [tlook, Ne.symm h] using ih
    · by_cases h2 : i = j
      · simp [h2, tlook, h]
      · simpa [h1, h2, tlook] using ih

theorem tget_tset_same [DecidableEq α] (d : α) (k : Nat) (v : α) (t : Tab α) : tget d k (tset d k v t) = v := by
  by_cases h : v = d
  · simp [tget, tset, h, tlook_tdel_same]
  · simp [tget, tset, h, tlook_tput_same]

theorem tget_tset_ne [DecidableEq α] (d : α) {k j : Nat} (h : j ≠ k) (v : α) (t : Tab α) :
    tget d j (tset d k v t) = tget d j t := by
  by_cases hv : v = d
  · simp [tget, tset, hv, tlook_tdel_ne h]
  · simp [tget, tset, hv, tlook_tput_ne h]

theorem tget_tset [DecidableEq α] (d : α) (k j : Nat) (v : α) (t : Tab α) :
    tget d j (tset d k v t) = if j = k then v else tget d j t := by
  by_cases h : j = k
  · subst h; simp [tget_tset_same]
  · simp [h, tget_tset_ne d h]

theorem tget_tput (d : α) (k j : Nat) (v : α) (t : Tab α) : tget d j (tput k v t) = if j = k then v else tget d j t := by
  by_cases h : j = k
  · subst h; simp [tget, tlook_tput_same]
  · simp [h, tget, tlook_tput_ne h]

variable {κ : Type} [DecidableEq κ]

theorem alook_aput_same (k : κ) (v : α) (t : List (κ × α)) : alook k (aput k v t) = some v := by
  induction t with
  | nil => simp [aput, alook]
  | cons x r ih =>
    obtain ⟨j, w⟩ := x
    by_cases h : j = k
    · simp [aput, h, alook]
    · simp [aput, h, alook, ih]

theorem alook_aput_ne {k j : κ} (h : j ≠ k) (v : α) (t : List (κ × α)) : alook j (aput k v t) = alook j t := by
  induction t with
  | nil => simp [aput, alook, Ne.symm h]
  | cons x r ih =>
    obtain ⟨i, w⟩ := x
    by_cases h1 : i = k
    · subst h1; simp [aput, alook, Ne.symm h]
    · simp only [aput, h1, if_false, alook, ih]

theorem aput_aput (k : κ) (v w : α) (t : List (κ × α)) : aput k v (aput k w t) = aput k v t := by
  induction t with
  | nil => simp [aput]
  | cons x r ih =>
    obtain ⟨i, u⟩ := x
    by_cases h : i = k
    · simp [aput, h]
    · simp [aput, h, ih]

/-! ### Canonical form -/

/-- The first key of a table lies above `k`, where there is one. -/
def headAbove (k : Nat) : Tab α → Prop
  | [] => True
  | (j, _) :: _ => k < j

theorem trising_cons {k : Nat} {v : α} {t : Tab α} : trising ((k, v) :: t) = true ↔ headAbove k t ∧ trising t = true := by
  cases t with
  | nil => simp [trising, headAbove]
  | cons x r => obtain ⟨j, w⟩ := x; simp [trising, headAbove]

theorem headAbove_tput {j k : Nat} (h : j < k) (v : α) {t : Tab α} (ht : headAbove j t) : headAbove j (tput k v t) := by
  cases t with
  | nil => exact h
  | cons x r =>
    obtain ⟨i, w⟩ := x
    simp only [tput]
    split
    · exact h
    · split
      · exact h
      · exact ht

theorem trising_tput (k : Nat) (v : α) {t : Tab α} (h : trising t = true) : trising (tput k v t) = true := by
  induction t with
  | nil => rfl
  | cons x r ih =>
    obtain ⟨j, w⟩ := x
    obtain ⟨h1, h2⟩ := trising_cons.1 h
    simp only [tput]
    split
    · subst_vars; exact trising_cons.2 ⟨h1, h2⟩
    · split
      · exact trising_cons.2 ⟨‹k < j›, h⟩
      · exact trising_cons.2 ⟨headAbove_tput (by omega) v h1, ih h2⟩

theorem headAbove_of_rising {j : Nat} {t : Tab α} (h : headAbove j t) (hr : trising t = true) : ∀ x ∈ t, j < x.1 := by
  induction t generalizing j with
  | nil => simp
  | cons x r ih =>
    obtain ⟨i, w⟩ := x
    obtain ⟨h1, h2⟩ := trising_cons.1 hr
    intro y hy
    rcases List.mem_cons.1 hy with rfl | hy
    · exact h
    · exact Nat.lt_trans h (ih h1 h2 y hy)

theorem trising_filter (p : Nat × α → Bool) {t : Tab α} (h : trising t = true) : trising (t.filter p) = true := by
  induction t with
  | nil => rfl
  | cons x r ih =>
    obtain ⟨j, w⟩ := x
    obtain ⟨h1, h2⟩ := trising_cons.1 h
    by_cases hp : p (j, w) = true
    · rw [List.filter_cons_of_pos hp]
      refine trising_cons.2 ⟨?_, ih h2⟩
      have hall := headAbove_of_rising h1 h2
      cases hf : r.filter p with
      | nil => trivial
      | cons y q =>
        have hy : y ∈ r := (List.mem_filter.1 (hf ▸ List.mem_cons_self : y ∈ r.filter p)).1
        exact hall y hy
    · rw [List.filter_cons_of_neg hp]; exact ih h2

theorem twf_nil [DecidableEq α] (d : α) : twf d ([] : Tab α) = true := rfl

/-- A write keeps the canonical form. -/
theorem twf_tset [DecidableEq α] (d : α) (k : Nat) (v : α) {t : Tab α} (h : twf d t = true) : twf d (tset d k v t) = true := by
  simp only [twf, Bool.and_eq_true, List.all_eq_true, decide_eq_true_eq] at h ⊢
  by_cases hv : v = d
  · simp only [tset, hv, if_true, tdel]
    exact ⟨trising_filter _ h.1, fun x hx => h.2 x (List.mem_filter.1 hx).1⟩
  · simp only [tset, hv, if_false]
    refine ⟨trising_tput k v h.1, ?_⟩
    have : ∀ t : Tab α, (∀ x ∈ t, x.2 ≠ d) → ∀ x ∈ tput k v t, x.2 ≠ d := by
      intro t
      induction t with
      | nil => intro _ x hx; simp [tput] at hx; subst hx; exact hv
      | cons y r ih =>
        obtain ⟨j, w⟩ := y
        intro hr x hx
        simp only [tput] at hx
        split at hx
        · rcases List.mem_cons.1 hx with rfl | hx
          · exact hv
          · exact hr x (List.mem_cons_of_mem _ hx)
        · split at hx
          · rcases List.mem_cons.1 hx with rfl | hx
            · exact hv
            · exact hr x hx
          · rcases List.mem_cons.1 hx with rfl | hx
            · exact hr (j, w) (by simp)
            · exact ih (fun z hz => hr z (List.mem_cons_of_mem _ hz)) x hx
    exact this t h.2

/-- Equal contents in canonical form are equal data. -/
theorem twf_ext [DecidableEq α] (d : α) {t u : Tab α} (ht : twf d t = true) (hu : twf d u = true)
    (h : ∀ k, tget d k t = tget d k u) : t = u := by
  simp only [twf, Bool.and_eq_true, List.all_eq_true, decide_eq_true_eq] at ht hu
  have look : ∀ (t : Tab α) (j : Nat), (∀ x ∈ t, j < x.1) → tlook j t = none := by
    intro t
    induction t with
    | nil => intros; rfl
    | cons x r ih =>
      obtain ⟨i, w⟩ := x
      intro j hj
      have := hj (i, w) (by simp)
      simp only at this
      simp only [tlook, show i ≠ j by omega, if_false]
      exact ih j fun y hy => hj y (List.mem_cons_of_mem _ hy)
  induction t generalizing u with
  | nil =>
    cases u with
    | nil => rfl
    | cons y q =>
      obtain ⟨j, w⟩ := y
      have := h j
      simp [tget, tlook] at this
      exact absurd this.symm (hu.2 (j, w) (by simp))
  | cons x r ih =>
    obtain ⟨i, v⟩ := x
    obtain ⟨h1, h2⟩ := trising_cons.1 ht.1
    have ha := headAbove_of_rising h1 h2
    cases u with
    | nil =>
      have := h i
      simp [tget, tlook] at this
      exact absurd this (ht.2 (i, v) (by simp))
    | cons y q =>
      obtain ⟨j, w⟩ := y
      obtain ⟨k1, k2⟩ := trising_cons.1 hu.1
      have hb := headAbove_of_rising k1 k2
      have hij : i = j := by
        rcases Nat.lt_trichotomy i j with hl | he | hg
        · have := h i
          rw [show tget d i ((i, v) :: r) = v by simp [tget, tlook]] at this
          have hn : tlook i ((j, w) :: q) = none := by
            apply look
            intro z hz
            rcases List.mem_cons.1 hz with rfl | hz
            · exact hl
            · exact Nat.lt_trans hl (hb z hz)
          simp only [tget, hn, Option.getD_none] at this
          exact absurd this (ht.2 (i, v) (by simp))
        · exact he
        · have := h j
          rw [show tget d j ((j, w) :: q) = w by simp [tget, tlook]] at this
          have hn : tlook j ((i, v) :: r) = none := by
            apply look
            intro z hz
            rcases List.mem_cons.1 hz with rfl | hz
            · exact hg
            · exact Nat.lt_trans hg (ha z hz)
          simp only [tget, hn, Option.getD_none] at this
          exact absurd this.symm (hu.2 (j, w) (by simp))
      subst hij
      have hv : v = w := by
        have := h i
        simpa [tget, tlook] using this
      subst hv
      congr 1
      refine ih ?_ ⟨h2, fun z hz => ht.2 z (List.mem_cons_of_mem _ hz)⟩ ⟨k2, fun z hz => hu.2 z (List.mem_cons_of_mem _ hz)⟩
      intro k
      by_cases hk : i = k
      · subst hk
        simp [tget, look r i ha, look q i hb]
      · have := h k
        simpa [tget, tlook, hk] using this

end Sys2Proof.Machine
end

