-- ==== Sys2Proof/Laws/State.lean ====
section
/-!
SUPPORT. Laws of the updates of a state and of an agent's registers: one for each field and update, so that no proof unfolds a
record update; and reads after writes.
-/
namespace Sys2Proof.Machine

/-! ### Updates of a state -/

@[simp] theorem State.setThread_mem (s : State) (a : Agent) (t : Thread) : (s.setThread a t).mem = s.mem := rfl
@[simp] theorem State.setThread_badLines (s : State) (a : Agent) (t : Thread) : (s.setThread a t).badLines = s.badLines := rfl
@[simp] theorem State.setThread_threads (s : State) (a : Agent) (t : Thread) : (s.setThread a t).threads = aput a t s.threads := rfl
@[simp] theorem State.setThread_blocks (s : State) (a : Agent) (t : Thread) : (s.setThread a t).blocks = s.blocks := rfl
@[simp] theorem State.setThread_cores (s : State) (a : Agent) (t : Thread) : (s.setThread a t).cores = s.cores := rfl
@[simp] theorem State.setThread_dies (s : State) (a : Agent) (t : Thread) : (s.setThread a t).dies = s.dies := rfl
@[simp] theorem State.setThread_grids (s : State) (a : Agent) (t : Thread) : (s.setThread a t).grids = s.grids := rfl
@[simp] theorem State.setThread_views (s : State) (a : Agent) (t : Thread) : (s.setThread a t).views = s.views := rfl
@[simp] theorem State.setThread_sys (s : State) (a : Agent) (t : Thread) : (s.setThread a t).sys = s.sys := rfl
@[simp] theorem State.setThread_nvme (s : State) (a : Agent) (t : Thread) : (s.setThread a t).nvme = s.nvme := rfl
@[simp] theorem State.setThread_nvmeBlock (s : State) (a : Agent) (t : Thread) : (s.setThread a t).nvmeBlock = s.nvmeBlock := rfl
@[simp] theorem State.setThread_posted (s : State) (a : Agent) (t : Thread) : (s.setThread a t).posted = s.posted := rfl
@[simp] theorem State.setThread_nextBlock (s : State) (a : Agent) (t : Thread) : (s.setThread a t).nextBlock = s.nextBlock := rfl
@[simp] theorem State.setThread_nextGrid (s : State) (a : Agent) (t : Thread) : (s.setThread a t).nextGrid = s.nextGrid := rfl
@[simp] theorem State.setThread_nextView (s : State) (a : Agent) (t : Thread) : (s.setThread a t).nextView = s.nextView := rfl
@[simp] theorem State.setThread_nextAge (s : State) (a : Agent) (t : Thread) : (s.setThread a t).nextAge = s.nextAge := rfl
@[simp] theorem State.setThread_cur (s : State) (a : Agent) (t : Thread) : (s.setThread a t).cur = s.cur := rfl
@[simp] theorem State.setThread_agenda (s : State) (a : Agent) (t : Thread) : (s.setThread a t).agenda = s.agenda := rfl
@[simp] theorem State.setThread_fresh (s : State) (a : Agent) (t : Thread) : (s.setThread a t).fresh = s.fresh := rfl

@[simp] theorem State.setBlock_mem (s : State) (b : Nat) (k : Block) : (s.setBlock b k).mem = s.mem := rfl
@[simp] theorem State.setBlock_badLines (s : State) (b : Nat) (k : Block) : (s.setBlock b k).badLines = s.badLines := rfl
@[simp] theorem State.setBlock_threads (s : State) (b : Nat) (k : Block) : (s.setBlock b k).threads = s.threads := rfl
@[simp] theorem State.setBlock_blocks (s : State) (b : Nat) (k : Block) : (s.setBlock b k).blocks = tput b k s.blocks := rfl
@[simp] theorem State.setBlock_cores (s : State) (b : Nat) (k : Block) : (s.setBlock b k).cores = s.cores := rfl
@[simp] theorem State.setBlock_dies (s : State) (b : Nat) (k : Block) : (s.setBlock b k).dies = s.dies := rfl
@[simp] theorem State.setBlock_grids (s : State) (b : Nat) (k : Block) : (s.setBlock b k).grids = s.grids := rfl
@[simp] theorem State.setBlock_views (s : State) (b : Nat) (k : Block) : (s.setBlock b k).views = s.views := rfl
@[simp] theorem State.setBlock_sys (s : State) (b : Nat) (k : Block) : (s.setBlock b k).sys = s.sys := rfl
@[simp] theorem State.setBlock_nvme (s : State) (b : Nat) (k : Block) : (s.setBlock b k).nvme = s.nvme := rfl
@[simp] theorem State.setBlock_nvmeBlock (s : State) (b : Nat) (k : Block) : (s.setBlock b k).nvmeBlock = s.nvmeBlock := rfl
@[simp] theorem State.setBlock_posted (s : State) (b : Nat) (k : Block) : (s.setBlock b k).posted = s.posted := rfl
@[simp] theorem State.setBlock_nextBlock (s : State) (b : Nat) (k : Block) : (s.setBlock b k).nextBlock = s.nextBlock := rfl
@[simp] theorem State.setBlock_nextGrid (s : State) (b : Nat) (k : Block) : (s.setBlock b k).nextGrid = s.nextGrid := rfl
@[simp] theorem State.setBlock_nextView (s : State) (b : Nat) (k : Block) : (s.setBlock b k).nextView = s.nextView := rfl
@[simp] theorem State.setBlock_nextAge (s : State) (b : Nat) (k : Block) : (s.setBlock b k).nextAge = s.nextAge := rfl
@[simp] theorem State.setBlock_cur (s : State) (b : Nat) (k : Block) : (s.setBlock b k).cur = s.cur := rfl
@[simp] theorem State.setBlock_agenda (s : State) (b : Nat) (k : Block) : (s.setBlock b k).agenda = s.agenda := rfl
@[simp] theorem State.setBlock_fresh (s : State) (b : Nat) (k : Block) : (s.setBlock b k).fresh = s.fresh := rfl

@[simp] theorem State.setCore_mem (s : State) (c : Nat) (k : Core) : (s.setCore c k).mem = s.mem := rfl
@[simp] theorem State.setCore_badLines (s : State) (c : Nat) (k : Core) : (s.setCore c k).badLines = s.badLines := rfl
@[simp] theorem State.setCore_threads (s : State) (c : Nat) (k : Core) : (s.setCore c k).threads = s.threads := rfl
@[simp] theorem State.setCore_blocks (s : State) (c : Nat) (k : Core) : (s.setCore c k).blocks = s.blocks := rfl
@[simp] theorem State.setCore_cores (s : State) (c : Nat) (k : Core) : (s.setCore c k).cores = tput c k s.cores := rfl
@[simp] theorem State.setCore_dies (s : State) (c : Nat) (k : Core) : (s.setCore c k).dies = s.dies := rfl
@[simp] theorem State.setCore_grids (s : State) (c : Nat) (k : Core) : (s.setCore c k).grids = s.grids := rfl
@[simp] theorem State.setCore_views (s : State) (c : Nat) (k : Core) : (s.setCore c k).views = s.views := rfl
@[simp] theorem State.setCore_sys (s : State) (c : Nat) (k : Core) : (s.setCore c k).sys = s.sys := rfl
@[simp] theorem State.setCore_nvme (s : State) (c : Nat) (k : Core) : (s.setCore c k).nvme = s.nvme := rfl
@[simp] theorem State.setCore_nvmeBlock (s : State) (c : Nat) (k : Core) : (s.setCore c k).nvmeBlock = s.nvmeBlock := rfl
@[simp] theorem State.setCore_posted (s : State) (c : Nat) (k : Core) : (s.setCore c k).posted = s.posted := rfl
@[simp] theorem State.setCore_nextBlock (s : State) (c : Nat) (k : Core) : (s.setCore c k).nextBlock = s.nextBlock := rfl
@[simp] theorem State.setCore_nextGrid (s : State) (c : Nat) (k : Core) : (s.setCore c k).nextGrid = s.nextGrid := rfl
@[simp] theorem State.setCore_nextView (s : State) (c : Nat) (k : Core) : (s.setCore c k).nextView = s.nextView := rfl
@[simp] theorem State.setCore_nextAge (s : State) (c : Nat) (k : Core) : (s.setCore c k).nextAge = s.nextAge := rfl
@[simp] theorem State.setCore_cur (s : State) (c : Nat) (k : Core) : (s.setCore c k).cur = s.cur := rfl
@[simp] theorem State.setCore_agenda (s : State) (c : Nat) (k : Core) : (s.setCore c k).agenda = s.agenda := rfl
@[simp] theorem State.setCore_fresh (s : State) (c : Nat) (k : Core) : (s.setCore c k).fresh = s.fresh := rfl

@[simp] theorem State.setDie_mem (s : State) (d : Nat) (x : Die) : (s.setDie d x).mem = s.mem := rfl
@[simp] theorem State.setDie_badLines (s : State) (d : Nat) (x : Die) : (s.setDie d x).badLines = s.badLines := rfl
@[simp] theorem State.setDie_threads (s : State) (d : Nat) (x : Die) : (s.setDie d x).threads = s.threads := rfl
@[simp] theorem State.setDie_blocks (s : State) (d : Nat) (x : Die) : (s.setDie d x).blocks = s.blocks := rfl
@[simp] theorem State.setDie_cores (s : State) (d : Nat) (x : Die) : (s.setDie d x).cores = s.cores := rfl
@[simp] theorem State.setDie_dies (s : State) (d : Nat) (x : Die) : (s.setDie d x).dies = tput d x s.dies := rfl
@[simp] theorem State.setDie_grids (s : State) (d : Nat) (x : Die) : (s.setDie d x).grids = s.grids := rfl
@[simp] theorem State.setDie_views (s : State) (d : Nat) (x : Die) : (s.setDie d x).views = s.views := rfl
@[simp] theorem State.setDie_sys (s : State) (d : Nat) (x : Die) : (s.setDie d x).sys = s.sys := rfl
@[simp] theorem State.setDie_nvme (s : State) (d : Nat) (x : Die) : (s.setDie d x).nvme = s.nvme := rfl
@[simp] theorem State.setDie_nvmeBlock (s : State) (d : Nat) (x : Die) : (s.setDie d x).nvmeBlock = s.nvmeBlock := rfl
@[simp] theorem State.setDie_posted (s : State) (d : Nat) (x : Die) : (s.setDie d x).posted = s.posted := rfl
@[simp] theorem State.setDie_nextBlock (s : State) (d : Nat) (x : Die) : (s.setDie d x).nextBlock = s.nextBlock := rfl
@[simp] theorem State.setDie_nextGrid (s : State) (d : Nat) (x : Die) : (s.setDie d x).nextGrid = s.nextGrid := rfl
@[simp] theorem State.setDie_nextView (s : State) (d : Nat) (x : Die) : (s.setDie d x).nextView = s.nextView := rfl
@[simp] theorem State.setDie_nextAge (s : State) (d : Nat) (x : Die) : (s.setDie d x).nextAge = s.nextAge := rfl
@[simp] theorem State.setDie_cur (s : State) (d : Nat) (x : Die) : (s.setDie d x).cur = s.cur := rfl
@[simp] theorem State.setDie_agenda (s : State) (d : Nat) (x : Die) : (s.setDie d x).agenda = s.agenda := rfl
@[simp] theorem State.setDie_fresh (s : State) (d : Nat) (x : Die) : (s.setDie d x).fresh = s.fresh := rfl

@[simp] theorem State.setGrid_mem (s : State) (n : Nat) (g : Grid) : (s.setGrid n g).mem = s.mem := rfl
@[simp] theorem State.setGrid_badLines (s : State) (n : Nat) (g : Grid) : (s.setGrid n g).badLines = s.badLines := rfl
@[simp] theorem State.setGrid_threads (s : State) (n : Nat) (g : Grid) : (s.setGrid n g).threads = s.threads := rfl
@[simp] theorem State.setGrid_blocks (s : State) (n : Nat) (g : Grid) : (s.setGrid n g).blocks = s.blocks := rfl
@[simp] theorem State.setGrid_cores (s : State) (n : Nat) (g : Grid) : (s.setGrid n g).cores = s.cores := rfl
@[simp] theorem State.setGrid_dies (s : State) (n : Nat) (g : Grid) : (s.setGrid n g).dies = s.dies := rfl
@[simp] theorem State.setGrid_grids (s : State) (n : Nat) (g : Grid) : (s.setGrid n g).grids = tput n g s.grids := rfl
@[simp] theorem State.setGrid_views (s : State) (n : Nat) (g : Grid) : (s.setGrid n g).views = s.views := rfl
@[simp] theorem State.setGrid_sys (s : State) (n : Nat) (g : Grid) : (s.setGrid n g).sys = s.sys := rfl
@[simp] theorem State.setGrid_nvme (s : State) (n : Nat) (g : Grid) : (s.setGrid n g).nvme = s.nvme := rfl
@[simp] theorem State.setGrid_nvmeBlock (s : State) (n : Nat) (g : Grid) : (s.setGrid n g).nvmeBlock = s.nvmeBlock := rfl
@[simp] theorem State.setGrid_posted (s : State) (n : Nat) (g : Grid) : (s.setGrid n g).posted = s.posted := rfl
@[simp] theorem State.setGrid_nextBlock (s : State) (n : Nat) (g : Grid) : (s.setGrid n g).nextBlock = s.nextBlock := rfl
@[simp] theorem State.setGrid_nextGrid (s : State) (n : Nat) (g : Grid) : (s.setGrid n g).nextGrid = s.nextGrid := rfl
@[simp] theorem State.setGrid_nextView (s : State) (n : Nat) (g : Grid) : (s.setGrid n g).nextView = s.nextView := rfl
@[simp] theorem State.setGrid_nextAge (s : State) (n : Nat) (g : Grid) : (s.setGrid n g).nextAge = s.nextAge := rfl
@[simp] theorem State.setGrid_cur (s : State) (n : Nat) (g : Grid) : (s.setGrid n g).cur = s.cur := rfl
@[simp] theorem State.setGrid_agenda (s : State) (n : Nat) (g : Grid) : (s.setGrid n g).agenda = s.agenda := rfl
@[simp] theorem State.setGrid_fresh (s : State) (n : Nat) (g : Grid) : (s.setGrid n g).fresh = s.fresh := rfl

@[simp] theorem State.putHome_mem (s : State) (p : Nat) (v : Byte) : (s.putHome p v).mem = tset unlistedByte p v s.mem := rfl
@[simp] theorem State.putHome_badLines (s : State) (p : Nat) (v : Byte) : (s.putHome p v).badLines = s.badLines := rfl
@[simp] theorem State.putHome_threads (s : State) (p : Nat) (v : Byte) : (s.putHome p v).threads = s.threads := rfl
@[simp] theorem State.putHome_blocks (s : State) (p : Nat) (v : Byte) : (s.putHome p v).blocks = s.blocks := rfl
@[simp] theorem State.putHome_cores (s : State) (p : Nat) (v : Byte) : (s.putHome p v).cores = s.cores := rfl
@[simp] theorem State.putHome_dies (s : State) (p : Nat) (v : Byte) : (s.putHome p v).dies = s.dies := rfl
@[simp] theorem State.putHome_grids (s : State) (p : Nat) (v : Byte) : (s.putHome p v).grids = s.grids := rfl
@[simp] theorem State.putHome_views (s : State) (p : Nat) (v : Byte) : (s.putHome p v).views = s.views := rfl
@[simp] theorem State.putHome_sys (s : State) (p : Nat) (v : Byte) : (s.putHome p v).sys = s.sys := rfl
@[simp] theorem State.putHome_nvme (s : State) (p : Nat) (v : Byte) : (s.putHome p v).nvme = s.nvme := rfl
@[simp] theorem State.putHome_nvmeBlock (s : State) (p : Nat) (v : Byte) : (s.putHome p v).nvmeBlock = s.nvmeBlock := rfl
@[simp] theorem State.putHome_posted (s : State) (p : Nat) (v : Byte) : (s.putHome p v).posted = s.posted := rfl
@[simp] theorem State.putHome_nextBlock (s : State) (p : Nat) (v : Byte) : (s.putHome p v).nextBlock = s.nextBlock := rfl
@[simp] theorem State.putHome_nextGrid (s : State) (p : Nat) (v : Byte) : (s.putHome p v).nextGrid = s.nextGrid := rfl
@[simp] theorem State.putHome_nextView (s : State) (p : Nat) (v : Byte) : (s.putHome p v).nextView = s.nextView := rfl
@[simp] theorem State.putHome_nextAge (s : State) (p : Nat) (v : Byte) : (s.putHome p v).nextAge = s.nextAge := rfl
@[simp] theorem State.putHome_cur (s : State) (p : Nat) (v : Byte) : (s.putHome p v).cur = s.cur := rfl
@[simp] theorem State.putHome_agenda (s : State) (p : Nat) (v : Byte) : (s.putHome p v).agenda = s.agenda := rfl
@[simp] theorem State.putHome_fresh (s : State) (p : Nat) (v : Byte) : (s.putHome p v).fresh = s.fresh := rfl

@[simp] theorem State.modSys_mem (s : State) (g : Sys → Sys) : (s.modSys g).mem = s.mem := rfl
@[simp] theorem State.modSys_badLines (s : State) (g : Sys → Sys) : (s.modSys g).badLines = s.badLines := rfl
@[simp] theorem State.modSys_threads (s : State) (g : Sys → Sys) : (s.modSys g).threads = s.threads := rfl
@[simp] theorem State.modSys_blocks (s : State) (g : Sys → Sys) : (s.modSys g).blocks = s.blocks := rfl
@[simp] theorem State.modSys_cores (s : State) (g : Sys → Sys) : (s.modSys g).cores = s.cores := rfl
@[simp] theorem State.modSys_dies (s : State) (g : Sys → Sys) : (s.modSys g).dies = s.dies := rfl
@[simp] theorem State.modSys_grids (s : State) (g : Sys → Sys) : (s.modSys g).grids = s.grids := rfl
@[simp] theorem State.modSys_views (s : State) (g : Sys → Sys) : (s.modSys g).views = s.views := rfl
@[simp] theorem State.modSys_sys (s : State) (g : Sys → Sys) : (s.modSys g).sys = g s.sys := rfl
@[simp] theorem State.modSys_nvme (s : State) (g : Sys → Sys) : (s.modSys g).nvme = s.nvme := rfl
@[simp] theorem State.modSys_nvmeBlock (s : State) (g : Sys → Sys) : (s.modSys g).nvmeBlock = s.nvmeBlock := rfl
@[simp] theorem State.modSys_posted (s : State) (g : Sys → Sys) : (s.modSys g).posted = s.posted := rfl
@[simp] theorem State.modSys_nextBlock (s : State) (g : Sys → Sys) : (s.modSys g).nextBlock = s.nextBlock := rfl
@[simp] theorem State.modSys_nextGrid (s : State) (g : Sys → Sys) : (s.modSys g).nextGrid = s.nextGrid := rfl
@[simp] theorem State.modSys_nextView (s : State) (g : Sys → Sys) : (s.modSys g).nextView = s.nextView := rfl
@[simp] theorem State.modSys_nextAge (s : State) (g : Sys → Sys) : (s.modSys g).nextAge = s.nextAge := rfl
@[simp] theorem State.modSys_cur (s : State) (g : Sys → Sys) : (s.modSys g).cur = s.cur := rfl
@[simp] theorem State.modSys_agenda (s : State) (g : Sys → Sys) : (s.modSys g).agenda = s.agenda := rfl
@[simp] theorem State.modSys_fresh (s : State) (g : Sys → Sys) : (s.modSys g).fresh = s.fresh := rfl

/-! ### Reads after writes -/

@[simp] theorem State.thread?_setThread_same (s : State) (a : Agent) (t : Thread) : (s.setThread a t).thread? a = some t :=
  alook_aput_same a t s.threads
theorem State.thread?_setThread_ne (s : State) {a b : Agent} (h : b ≠ a) (t : Thread) :
    (s.setThread a t).thread? b = s.thread? b := alook_aput_ne h t s.threads
@[simp] theorem State.setThread_setThread (s : State) (a : Agent) (t u : Thread) :
    (s.setThread a t).setThread a u = s.setThread a u := by
  simp [State.setThread, aput_aput]
@[simp] theorem State.block?_setBlock_same (s : State) (b : Nat) (k : Block) : (s.setBlock b k).block? b = some k :=
  tlook_tput_same b k s.blocks
theorem State.block?_setBlock_ne (s : State) {b c : Nat} (h : c ≠ b) (k : Block) : (s.setBlock b k).block? c = s.block? c :=
  tlook_tput_ne h k s.blocks
@[simp] theorem State.core_setCore_same (s : State) (c : Nat) (k : Core) : (s.setCore c k).core c = k := by
  simp [State.core, tget_tput]
theorem State.core_setCore_ne (s : State) {c d : Nat} (h : d ≠ c) (k : Core) : (s.setCore c k).core d = s.core d := by
  simp [State.core, tget_tput, h]
@[simp] theorem State.die_setDie_same (s : State) (d : Nat) (x : Die) : (s.setDie d x).die d = x := by
  simp [State.die, tget_tput]
theorem State.die_setDie_ne (s : State) {c d : Nat} (h : c ≠ d) (x : Die) : (s.setDie d x).die c = s.die c := by
  simp [State.die, tget_tput, h]
@[simp] theorem State.homeByte_putHome_same (s : State) (p : Nat) (v : Byte) : (s.putHome p v).homeByte p = v := by
  simp [State.homeByte, tget_tset]
theorem State.homeByte_putHome_ne (s : State) {p q : Nat} (h : q ≠ p) (v : Byte) :
    (s.putHome p v).homeByte q = s.homeByte q := by
  simp [State.homeByte, tget_tset, h]

@[simp] theorem State.setThread_block? (s : State) (a : Agent) (t : Thread) (b' : Nat) : (s.setThread a t).block? b' = s.block? b' := rfl
@[simp] theorem State.setThread_core (s : State) (a : Agent) (t : Thread) (c' : Nat) : (s.setThread a t).core c' = s.core c' := rfl
@[simp] theorem State.setThread_die (s : State) (a : Agent) (t : Thread) (d' : Nat) : (s.setThread a t).die d' = s.die d' := rfl
@[simp] theorem State.setThread_homeByte (s : State) (a : Agent) (t : Thread) (q : Nat) : (s.setThread a t).homeByte q = s.homeByte q := rfl
@[simp] theorem State.setThread_grid? (s : State) (a : Agent) (t : Thread) (m : Nat) : (s.setThread a t).grid? m = s.grid? m := rfl
@[simp] theorem State.setBlock_thread? (s : State) (b : Nat) (k : Block) (a' : Agent) : (s.setBlock b k).thread? a' = s.thread? a' := rfl
@[simp] theorem State.setBlock_core (s : State) (b : Nat) (k : Block) (c' : Nat) : (s.setBlock b k).core c' = s.core c' := rfl
@[simp] theorem State.setBlock_die (s : State) (b : Nat) (k : Block) (d' : Nat) : (s.setBlock b k).die d' = s.die d' := rfl
@[simp] theorem State.setBlock_homeByte (s : State) (b : Nat) (k : Block) (q : Nat) : (s.setBlock b k).homeByte q = s.homeByte q := rfl
@[simp] theorem State.setBlock_grid? (s : State) (b : Nat) (k : Block) (m : Nat) : (s.setBlock b k).grid? m = s.grid? m := rfl
@[simp] theorem State.setCore_thread? (s : State) (c : Nat) (k : Core) (a' : Agent) : (s.setCore c k).thread? a' = s.thread? a' := rfl
@[simp] theorem State.setCore_block? (s : State) (c : Nat) (k : Core) (b' : Nat) : (s.setCore c k).block? b' = s.block? b' := rfl
@[simp] theorem State.setCore_die (s : State) (c : Nat) (k : Core) (d' : Nat) : (s.setCore c k).die d' = s.die d' := rfl
@[simp] theorem State.setCore_homeByte (s : State) (c : Nat) (k : Core) (q : Nat) : (s.setCore c k).homeByte q = s.homeByte q := rfl
@[simp] theorem State.setCore_grid? (s : State) (c : Nat) (k : Core) (m : Nat) : (s.setCore c k).grid? m = s.grid? m := rfl
@[simp] theorem State.setDie_thread? (s : State) (d : Nat) (x : Die) (a' : Agent) : (s.setDie d x).thread? a' = s.thread? a' := rfl
@[simp] theorem State.setDie_block? (s : State) (d : Nat) (x : Die) (b' : Nat) : (s.setDie d x).block? b' = s.block? b' := rfl
@[simp] theorem State.setDie_core (s : State) (d : Nat) (x : Die) (c' : Nat) : (s.setDie d x).core c' = s.core c' := rfl
@[simp] theorem State.setDie_homeByte (s : State) (d : Nat) (x : Die) (q : Nat) : (s.setDie d x).homeByte q = s.homeByte q := rfl
@[simp] theorem State.setDie_grid? (s : State) (d : Nat) (x : Die) (m : Nat) : (s.setDie d x).grid? m = s.grid? m := rfl
@[simp] theorem State.setGrid_thread? (s : State) (n : Nat) (g : Grid) (a' : Agent) : (s.setGrid n g).thread? a' = s.thread? a' := rfl
@[simp] theorem State.setGrid_block? (s : State) (n : Nat) (g : Grid) (b' : Nat) : (s.setGrid n g).block? b' = s.block? b' := rfl
@[simp] theorem State.setGrid_core (s : State) (n : Nat) (g : Grid) (c' : Nat) : (s.setGrid n g).core c' = s.core c' := rfl
@[simp] theorem State.setGrid_die (s : State) (n : Nat) (g : Grid) (d' : Nat) : (s.setGrid n g).die d' = s.die d' := rfl
@[simp] theorem State.setGrid_homeByte (s : State) (n : Nat) (g : Grid) (q : Nat) : (s.setGrid n g).homeByte q = s.homeByte q := rfl
@[simp] theorem State.putHome_thread? (s : State) (p : Nat) (v : Byte) (a' : Agent) : (s.putHome p v).thread? a' = s.thread? a' := rfl
@[simp] theorem State.putHome_block? (s : State) (p : Nat) (v : Byte) (b' : Nat) : (s.putHome p v).block? b' = s.block? b' := rfl
@[simp] theorem State.putHome_core (s : State) (p : Nat) (v : Byte) (c' : Nat) : (s.putHome p v).core c' = s.core c' := rfl
@[simp] theorem State.putHome_die (s : State) (p : Nat) (v : Byte) (d' : Nat) : (s.putHome p v).die d' = s.die d' := rfl
@[simp] theorem State.putHome_grid? (s : State) (p : Nat) (v : Byte) (m : Nat) : (s.putHome p v).grid? m = s.grid? m := rfl
@[simp] theorem State.modSys_thread? (s : State) (g : Sys → Sys) (a' : Agent) : (s.modSys g).thread? a' = s.thread? a' := rfl
@[simp] theorem State.modSys_block? (s : State) (g : Sys → Sys) (b' : Nat) : (s.modSys g).block? b' = s.block? b' := rfl
@[simp] theorem State.modSys_core (s : State) (g : Sys → Sys) (c' : Nat) : (s.modSys g).core c' = s.core c' := rfl
@[simp] theorem State.modSys_die (s : State) (g : Sys → Sys) (d' : Nat) : (s.modSys g).die d' = s.die d' := rfl
@[simp] theorem State.modSys_homeByte (s : State) (g : Sys → Sys) (q : Nat) : (s.modSys g).homeByte q = s.homeByte q := rfl
@[simp] theorem State.modSys_grid? (s : State) (g : Sys → Sys) (m : Nat) : (s.modSys g).grid? m = s.grid? m := rfl

/-! ### Where an agent stands, after an update of registers -/

@[simp] theorem State.setThread_blockNo (s : State) (a : Agent) (t : Thread) (b : Agent) :
    (s.setThread a t).blockNo b = s.blockNo b := rfl
@[simp] theorem State.setThread_coreNo (s : State) (a : Agent) (t : Thread) (b : Agent) :
    (s.setThread a t).coreNo b = s.coreNo b := rfl
@[simp] theorem State.setThread_dieNo (s : State) (a : Agent) (t : Thread) (b : Agent) :
    (s.setThread a t).dieNo b = s.dieNo b := rfl
@[simp] theorem State.setThread_stream (s : State) (a : Agent) (t : Thread) (b : Agent) :
    (s.setThread a t).stream b = s.stream b := rfl
@[simp] theorem State.setThread_lanes (s : State) (a : Agent) (t : Thread) (b : Agent) :
    (s.setThread a t).lanes b = s.lanes b := rfl
@[simp] theorem State.setThread_asidOf (s : State) (a : Agent) (t : Thread) (b : Agent) :
    (s.setThread a t).asidOf b = s.asidOf b := rfl
@[simp] theorem State.setThread_gridNo (s : State) (a : Agent) (t : Thread) (b : Agent) :
    (s.setThread a t).gridNo b = s.gridNo b := rfl

/-! ### Updates of registers -/

@[simp] theorem Thread.setV_pc (t : Thread) (n l : Nat) (v : Word) : (t.setV n l v).pc = t.pc := by unfold Thread.setV; split <;> rfl
@[simp] theorem Thread.setV_s (t : Thread) (n l : Nat) (v : Word) : (t.setV n l v).s = t.s := by unfold Thread.setV; split <;> rfl
@[simp] theorem Thread.setV_p (t : Thread) (n l : Nat) (v : Word) : (t.setV n l v).p = t.p := by unfold Thread.setV; split <;> rfl
@[simp] theorem Thread.setV_k (t : Thread) (n l : Nat) (v : Word) : (t.setV n l v).k = t.k := by unfold Thread.setV; split <;> rfl
@[simp] theorem Thread.setV_xs (t : Thread) (n l : Nat) (v : Word) : (t.setV n l v).xs = t.xs := by unfold Thread.setV; split <;> rfl
@[simp] theorem Thread.setV_exm (t : Thread) (n l : Nat) (v : Word) : (t.setV n l v).exm = t.exm := by unfold Thread.setV; split <;> rfl
@[simp] theorem Thread.setV_live (t : Thread) (n l : Nat) (v : Word) : (t.setV n l v).live = t.live := by unfold Thread.setV; split <;> rfl
@[simp] theorem Thread.setV_help (t : Thread) (n l : Nat) (v : Word) : (t.setV n l v).help = t.help := by unfold Thread.setV; split <;> rfl
@[simp] theorem Thread.setV_gst (t : Thread) (n l : Nat) (v : Word) : (t.setV n l v).gst = t.gst := by unfold Thread.setV; split <;> rfl
@[simp] theorem Thread.setV_origid (t : Thread) (n l : Nat) (v : Word) : (t.setV n l v).origid = t.origid := by unfold Thread.setV; split <;> rfl
@[simp] theorem Thread.setV_nalloc (t : Thread) (n l : Nat) (v : Word) : (t.setV n l v).nalloc = t.nalloc := by unfold Thread.setV; split <;> rfl
@[simp] theorem Thread.setV_msup (t : Thread) (n l : Nat) (v : Word) : (t.setV n l v).msup = t.msup := by unfold Thread.setV; split <;> rfl
@[simp] theorem Thread.setV_gstate (t : Thread) (n l : Nat) (v : Word) : (t.setV n l v).gstate = t.gstate := by unfold Thread.setV; split <;> rfl
@[simp] theorem Thread.setV_wait (t : Thread) (n l : Nat) (v : Word) : (t.setV n l v).wait = t.wait := by unfold Thread.setV; split <;> rfl
@[simp] theorem Thread.setV_warg (t : Thread) (n l : Nat) (v : Word) : (t.setV n l v).warg = t.warg := by unfold Thread.setV; split <;> rfl
@[simp] theorem Thread.setV_cause (t : Thread) (n l : Nat) (v : Word) : (t.setV n l v).cause = t.cause := by unfold Thread.setV; split <;> rfl
@[simp] theorem Thread.setV_detail (t : Thread) (n l : Nat) (v : Word) : (t.setV n l v).detail = t.detail := by unfold Thread.setV; split <;> rfl
@[simp] theorem Thread.setV_tlanes (t : Thread) (n l : Nat) (v : Word) : (t.setV n l v).tlanes = t.tlanes := by unfold Thread.setV; split <;> rfl
@[simp] theorem Thread.setV_cdetail (t : Thread) (n l : Nat) (v : Word) : (t.setV n l v).cdetail = t.cdetail := by unfold Thread.setV; split <;> rfl
@[simp] theorem Thread.setV_taddrs (t : Thread) (n l : Nat) (v : Word) : (t.setV n l v).taddrs = t.taddrs := by unfold Thread.setV; split <;> rfl
@[simp] theorem Thread.setV_sleep (t : Thread) (n l : Nat) (v : Word) : (t.setV n l v).sleep = t.sleep := by unfold Thread.setV; split <;> rfl
@[simp] theorem Thread.setV_ready (t : Thread) (n l : Nat) (v : Word) : (t.setV n l v).ready = t.ready := by unfold Thread.setV; split <;> rfl
@[simp] theorem Thread.setV_issued (t : Thread) (n l : Nat) (v : Word) : (t.setV n l v).issued = t.issued := by unfold Thread.setV; split <;> rfl
@[simp] theorem Thread.setV_age (t : Thread) (n l : Nat) (v : Word) : (t.setV n l v).age = t.age := by unfold Thread.setV; split <;> rfl
@[simp] theorem Thread.setV_prio (t : Thread) (n l : Nat) (v : Word) : (t.setV n l v).prio = t.prio := by unfold Thread.setV; split <;> rfl
@[simp] theorem Thread.setV_vdepth (t : Thread) (n l : Nat) (v : Word) : (t.setV n l v).vdepth = t.vdepth := by unfold Thread.setV; split <;> rfl
@[simp] theorem Thread.setV_replay (t : Thread) (n l : Nat) (v : Word) : (t.setV n l v).replay = t.replay := by unfold Thread.setV; split <;> rfl
@[simp] theorem Thread.setV_outstanding (t : Thread) (n l : Nat) (v : Word) : (t.setV n l v).outstanding = t.outstanding := by unfold Thread.setV; split <;> rfl
@[simp] theorem Thread.setV_latch (t : Thread) (n l : Nat) (v : Word) : (t.setV n l v).latch = t.latch := by unfold Thread.setV; split <;> rfl
@[simp] theorem Thread.setV_yh (t : Thread) (n l : Nat) (v : Word) : (t.setV n l v).yh = t.yh := by unfold Thread.setV; split <;> rfl
@[simp] theorem Thread.setV_yieldTo (t : Thread) (n l : Nat) (v : Word) : (t.setV n l v).yieldTo = t.yieldTo := by unfold Thread.setV; split <;> rfl
@[simp] theorem Thread.setV_yielding (t : Thread) (n l : Nat) (v : Word) : (t.setV n l v).yielding = t.yielding := by unfold Thread.setV; split <;> rfl
@[simp] theorem Thread.setV_depWait (t : Thread) (n l : Nat) (v : Word) : (t.setV n l v).depWait = t.depWait := by unfold Thread.setV; split <;> rfl
@[simp] theorem Thread.setV_waited (t : Thread) (n l : Nat) (v : Word) : (t.setV n l v).waited = t.waited := by unfold Thread.setV; split <;> rfl
@[simp] theorem Thread.setV_regions (t : Thread) (n l : Nat) (v : Word) : (t.setV n l v).regions = t.regions := by unfold Thread.setV; split <;> rfl
@[simp] theorem Thread.setV_remote (t : Thread) (n l : Nat) (v : Word) : (t.setV n l v).remote = t.remote := by unfold Thread.setV; split <;> rfl
@[simp] theorem Thread.setV_clause (t : Thread) (n l : Nat) (v : Word) : (t.setV n l v).clause = t.clause := by unfold Thread.setV; split <;> rfl
@[simp] theorem Thread.setV_job (t : Thread) (n l : Nat) (v : Word) : (t.setV n l v).job = t.job := by unfold Thread.setV; split <;> rfl
@[simp] theorem Thread.setV_ask (t : Thread) (n l : Nat) (v : Word) : (t.setV n l v).ask = t.ask := by unfold Thread.setV; split <;> rfl

@[simp] theorem Thread.setS_pc (t : Thread) (n : Nat) (v : Dword) : (t.setS n v).pc = t.pc := by unfold Thread.setS; split <;> rfl
@[simp] theorem Thread.setS_v (t : Thread) (n : Nat) (v : Dword) : (t.setS n v).v = t.v := by unfold Thread.setS; split <;> rfl
@[simp] theorem Thread.setS_p (t : Thread) (n : Nat) (v : Dword) : (t.setS n v).p = t.p := by unfold Thread.setS; split <;> rfl
@[simp] theorem Thread.setS_k (t : Thread) (n : Nat) (v : Dword) : (t.setS n v).k = t.k := by unfold Thread.setS; split <;> rfl
@[simp] theorem Thread.setS_xv (t : Thread) (n : Nat) (v : Dword) : (t.setS n v).xv = t.xv := by unfold Thread.setS; split <;> rfl
@[simp] theorem Thread.setS_exm (t : Thread) (n : Nat) (v : Dword) : (t.setS n v).exm = t.exm := by unfold Thread.setS; split <;> rfl
@[simp] theorem Thread.setS_live (t : Thread) (n : Nat) (v : Dword) : (t.setS n v).live = t.live := by unfold Thread.setS; split <;> rfl
@[simp] theorem Thread.setS_help (t : Thread) (n : Nat) (v : Dword) : (t.setS n v).help = t.help := by unfold Thread.setS; split <;> rfl
@[simp] theorem Thread.setS_gst (t : Thread) (n : Nat) (v : Dword) : (t.setS n v).gst = t.gst := by unfold Thread.setS; split <;> rfl
@[simp] theorem Thread.setS_origid (t : Thread) (n : Nat) (v : Dword) : (t.setS n v).origid = t.origid := by unfold Thread.setS; split <;> rfl
@[simp] theorem Thread.setS_nalloc (t : Thread) (n : Nat) (v : Dword) : (t.setS n v).nalloc = t.nalloc := by unfold Thread.setS; split <;> rfl
@[simp] theorem Thread.setS_msup (t : Thread) (n : Nat) (v : Dword) : (t.setS n v).msup = t.msup := by unfold Thread.setS; split <;> rfl
@[simp] theorem Thread.setS_gstate (t : Thread) (n : Nat) (v : Dword) : (t.setS n v).gstate = t.gstate := by unfold Thread.setS; split <;> rfl
@[simp] theorem Thread.setS_wait (t : Thread) (n : Nat) (v : Dword) : (t.setS n v).wait = t.wait := by unfold Thread.setS; split <;> rfl
@[simp] theorem Thread.setS_warg (t : Thread) (n : Nat) (v : Dword) : (t.setS n v).warg = t.warg := by unfold Thread.setS; split <;> rfl
@[simp] theorem Thread.setS_cause (t : Thread) (n : Nat) (v : Dword) : (t.setS n v).cause = t.cause := by unfold Thread.setS; split <;> rfl
@[simp] theorem Thread.setS_detail (t : Thread) (n : Nat) (v : Dword) : (t.setS n v).detail = t.detail := by unfold Thread.setS; split <;> rfl
@[simp] theorem Thread.setS_tlanes (t : Thread) (n : Nat) (v : Dword) : (t.setS n v).tlanes = t.tlanes := by unfold Thread.setS; split <;> rfl
@[simp] theorem Thread.setS_cdetail (t : Thread) (n : Nat) (v : Dword) : (t.setS n v).cdetail = t.cdetail := by unfold Thread.setS; split <;> rfl
@[simp] theorem Thread.setS_taddrs (t : Thread) (n : Nat) (v : Dword) : (t.setS n v).taddrs = t.taddrs := by unfold Thread.setS; split <;> rfl
@[simp] theorem Thread.setS_sleep (t : Thread) (n : Nat) (v : Dword) : (t.setS n v).sleep = t.sleep := by unfold Thread.setS; split <;> rfl
@[simp] theorem Thread.setS_ready (t : Thread) (n : Nat) (v : Dword) : (t.setS n v).ready = t.ready := by unfold Thread.setS; split <;> rfl
@[simp] theorem Thread.setS_issued (t : Thread) (n : Nat) (v : Dword) : (t.setS n v).issued = t.issued := by unfold Thread.setS; split <;> rfl
@[simp] theorem Thread.setS_age (t : Thread) (n : Nat) (v : Dword) : (t.setS n v).age = t.age := by unfold Thread.setS; split <;> rfl
@[simp] theorem Thread.setS_prio (t : Thread) (n : Nat) (v : Dword) : (t.setS n v).prio = t.prio := by unfold Thread.setS; split <;> rfl
@[simp] theorem Thread.setS_vdepth (t : Thread) (n : Nat) (v : Dword) : (t.setS n v).vdepth = t.vdepth := by unfold Thread.setS; split <;> rfl
@[simp] theorem Thread.setS_replay (t : Thread) (n : Nat) (v : Dword) : (t.setS n v).replay = t.replay := by unfold Thread.setS; split <;> rfl
@[simp] theorem Thread.setS_outstanding (t : Thread) (n : Nat) (v : Dword) : (t.setS n v).outstanding = t.outstanding := by unfold Thread.setS; split <;> rfl
@[simp] theorem Thread.setS_latch (t : Thread) (n : Nat) (v : Dword) : (t.setS n v).latch = t.latch := by unfold Thread.setS; split <;> rfl
@[simp] theorem Thread.setS_yh (t : Thread) (n : Nat) (v : Dword) : (t.setS n v).yh = t.yh := by unfold Thread.setS; split <;> rfl
@[simp] theorem Thread.setS_yieldTo (t : Thread) (n : Nat) (v : Dword) : (t.setS n v).yieldTo = t.yieldTo := by unfold Thread.setS; split <;> rfl
@[simp] theorem Thread.setS_yielding (t : Thread) (n : Nat) (v : Dword) : (t.setS n v).yielding = t.yielding := by unfold Thread.setS; split <;> rfl
@[simp] theorem Thread.setS_depWait (t : Thread) (n : Nat) (v : Dword) : (t.setS n v).depWait = t.depWait := by unfold Thread.setS; split <;> rfl
@[simp] theorem Thread.setS_waited (t : Thread) (n : Nat) (v : Dword) : (t.setS n v).waited = t.waited := by unfold Thread.setS; split <;> rfl
@[simp] theorem Thread.setS_regions (t : Thread) (n : Nat) (v : Dword) : (t.setS n v).regions = t.regions := by unfold Thread.setS; split <;> rfl
@[simp] theorem Thread.setS_remote (t : Thread) (n : Nat) (v : Dword) : (t.setS n v).remote = t.remote := by unfold Thread.setS; split <;> rfl
@[simp] theorem Thread.setS_clause (t : Thread) (n : Nat) (v : Dword) : (t.setS n v).clause = t.clause := by unfold Thread.setS; split <;> rfl
@[simp] theorem Thread.setS_job (t : Thread) (n : Nat) (v : Dword) : (t.setS n v).job = t.job := by unfold Thread.setS; split <;> rfl
@[simp] theorem Thread.setS_ask (t : Thread) (n : Nat) (v : Dword) : (t.setS n v).ask = t.ask := by unfold Thread.setS; split <;> rfl

@[simp] theorem Thread.setP_pc (t : Thread) (n : Nat) (m v : Mask) : (t.setP n m v).pc = t.pc := by unfold Thread.setP; split <;> rfl
@[simp] theorem Thread.setP_v (t : Thread) (n : Nat) (m v : Mask) : (t.setP n m v).v = t.v := by unfold Thread.setP; split <;> rfl
@[simp] theorem Thread.setP_s (t : Thread) (n : Nat) (m v : Mask) : (t.setP n m v).s = t.s := by unfold Thread.setP; split <;> rfl
@[simp] theorem Thread.setP_k (t : Thread) (n : Nat) (m v : Mask) : (t.setP n m v).k = t.k := by unfold Thread.setP; split <;> rfl
@[simp] theorem Thread.setP_xv (t : Thread) (n : Nat) (m v : Mask) : (t.setP n m v).xv = t.xv := by unfold Thread.setP; split <;> rfl
@[simp] theorem Thread.setP_xs (t : Thread) (n : Nat) (m v : Mask) : (t.setP n m v).xs = t.xs := by unfold Thread.setP; split <;> rfl
@[simp] theorem Thread.setP_exm (t : Thread) (n : Nat) (m v : Mask) : (t.setP n m v).exm = t.exm := by unfold Thread.setP; split <;> rfl
@[simp] theorem Thread.setP_live (t : Thread) (n : Nat) (m v : Mask) : (t.setP n m v).live = t.live := by unfold Thread.setP; split <;> rfl
@[simp] theorem Thread.setP_help (t : Thread) (n : Nat) (m v : Mask) : (t.setP n m v).help = t.help := by unfold Thread.setP; split <;> rfl
@[simp] theorem Thread.setP_gst (t : Thread) (n : Nat) (m v : Mask) : (t.setP n m v).gst = t.gst := by unfold Thread.setP; split <;> rfl
@[simp] theorem Thread.setP_origid (t : Thread) (n : Nat) (m v : Mask) : (t.setP n m v).origid = t.origid := by unfold Thread.setP; split <;> rfl
@[simp] theorem Thread.setP_nalloc (t : Thread) (n : Nat) (m v : Mask) : (t.setP n m v).nalloc = t.nalloc := by unfold Thread.setP; split <;> rfl
@[simp] theorem Thread.setP_msup (t : Thread) (n : Nat) (m v : Mask) : (t.setP n m v).msup = t.msup := by unfold Thread.setP; split <;> rfl
@[simp] theorem Thread.setP_gstate (t : Thread) (n : Nat) (m v : Mask) : (t.setP n m v).gstate = t.gstate := by unfold Thread.setP; split <;> rfl
@[simp] theorem Thread.setP_wait (t : Thread) (n : Nat) (m v : Mask) : (t.setP n m v).wait = t.wait := by unfold Thread.setP; split <;> rfl
@[simp] theorem Thread.setP_warg (t : Thread) (n : Nat) (m v : Mask) : (t.setP n m v).warg = t.warg := by unfold Thread.setP; split <;> rfl
@[simp] theorem Thread.setP_cause (t : Thread) (n : Nat) (m v : Mask) : (t.setP n m v).cause = t.cause := by unfold Thread.setP; split <;> rfl
@[simp] theorem Thread.setP_detail (t : Thread) (n : Nat) (m v : Mask) : (t.setP n m v).detail = t.detail := by unfold Thread.setP; split <;> rfl
@[simp] theorem Thread.setP_tlanes (t : Thread) (n : Nat) (m v : Mask) : (t.setP n m v).tlanes = t.tlanes := by unfold Thread.setP; split <;> rfl
@[simp] theorem Thread.setP_cdetail (t : Thread) (n : Nat) (m v : Mask) : (t.setP n m v).cdetail = t.cdetail := by unfold Thread.setP; split <;> rfl
@[simp] theorem Thread.setP_taddrs (t : Thread) (n : Nat) (m v : Mask) : (t.setP n m v).taddrs = t.taddrs := by unfold Thread.setP; split <;> rfl
@[simp] theorem Thread.setP_sleep (t : Thread) (n : Nat) (m v : Mask) : (t.setP n m v).sleep = t.sleep := by unfold Thread.setP; split <;> rfl
@[simp] theorem Thread.setP_ready (t : Thread) (n : Nat) (m v : Mask) : (t.setP n m v).ready = t.ready := by unfold Thread.setP; split <;> rfl
@[simp] theorem Thread.setP_issued (t : Thread) (n : Nat) (m v : Mask) : (t.setP n m v).issued = t.issued := by unfold Thread.setP; split <;> rfl
@[simp] theorem Thread.setP_age (t : Thread) (n : Nat) (m v : Mask) : (t.setP n m v).age = t.age := by unfold Thread.setP; split <;> rfl
@[simp] theorem Thread.setP_prio (t : Thread) (n : Nat) (m v : Mask) : (t.setP n m v).prio = t.prio := by unfold Thread.setP; split <;> rfl
@[simp] theorem Thread.setP_vdepth (t : Thread) (n : Nat) (m v : Mask) : (t.setP n m v).vdepth = t.vdepth := by unfold Thread.setP; split <;> rfl
@[simp] theorem Thread.setP_replay (t : Thread) (n : Nat) (m v : Mask) : (t.setP n m v).replay = t.replay := by unfold Thread.setP; split <;> rfl
@[simp] theorem Thread.setP_outstanding (t : Thread) (n : Nat) (m v : Mask) : (t.setP n m v).outstanding = t.outstanding := by unfold Thread.setP; split <;> rfl
@[simp] theorem Thread.setP_latch (t : Thread) (n : Nat) (m v : Mask) : (t.setP n m v).latch = t.latch := by unfold Thread.setP; split <;> rfl
@[simp] theorem Thread.setP_yh (t : Thread) (n : Nat) (m v : Mask) : (t.setP n m v).yh = t.yh := by unfold Thread.setP; split <;> rfl
@[simp] theorem Thread.setP_yieldTo (t : Thread) (n : Nat) (m v : Mask) : (t.setP n m v).yieldTo = t.yieldTo := by unfold Thread.setP; split <;> rfl
@[simp] theorem Thread.setP_yielding (t : Thread) (n : Nat) (m v : Mask) : (t.setP n m v).yielding = t.yielding := by unfold Thread.setP; split <;> rfl
@[simp] theorem Thread.setP_depWait (t : Thread) (n : Nat) (m v : Mask) : (t.setP n m v).depWait = t.depWait := by unfold Thread.setP; split <;> rfl
@[simp] theorem Thread.setP_waited (t : Thread) (n : Nat) (m v : Mask) : (t.setP n m v).waited = t.waited := by unfold Thread.setP; split <;> rfl
@[simp] theorem Thread.setP_regions (t : Thread) (n : Nat) (m v : Mask) : (t.setP n m v).regions = t.regions := by unfold Thread.setP; split <;> rfl
@[simp] theorem Thread.setP_remote (t : Thread) (n : Nat) (m v : Mask) : (t.setP n m v).remote = t.remote := by unfold Thread.setP; split <;> rfl
@[simp] theorem Thread.setP_bad (t : Thread) (n : Nat) (m v : Mask) : (t.setP n m v).bad = t.bad := by unfold Thread.setP; split <;> rfl
@[simp] theorem Thread.setP_clause (t : Thread) (n : Nat) (m v : Mask) : (t.setP n m v).clause = t.clause := by unfold Thread.setP; split <;> rfl
@[simp] theorem Thread.setP_job (t : Thread) (n : Nat) (m v : Mask) : (t.setP n m v).job = t.job := by unfold Thread.setP; split <;> rfl
@[simp] theorem Thread.setP_ask (t : Thread) (n : Nat) (m v : Mask) : (t.setP n m v).ask = t.ask := by unfold Thread.setP; split <;> rfl

@[simp] theorem Thread.setK_pc (t : Thread) (n j : Nat) (v : BitVec 16) : (t.setK n j v).pc = t.pc := rfl
@[simp] theorem Thread.setK_v (t : Thread) (n j : Nat) (v : BitVec 16) : (t.setK n j v).v = t.v := rfl
@[simp] theorem Thread.setK_s (t : Thread) (n j : Nat) (v : BitVec 16) : (t.setK n j v).s = t.s := rfl
@[simp] theorem Thread.setK_p (t : Thread) (n j : Nat) (v : BitVec 16) : (t.setK n j v).p = t.p := rfl
@[simp] theorem Thread.setK_xv (t : Thread) (n j : Nat) (v : BitVec 16) : (t.setK n j v).xv = t.xv := rfl
@[simp] theorem Thread.setK_xs (t : Thread) (n j : Nat) (v : BitVec 16) : (t.setK n j v).xs = t.xs := rfl
@[simp] theorem Thread.setK_exm (t : Thread) (n j : Nat) (v : BitVec 16) : (t.setK n j v).exm = t.exm := rfl
@[simp] theorem Thread.setK_live (t : Thread) (n j : Nat) (v : BitVec 16) : (t.setK n j v).live = t.live := rfl
@[simp] theorem Thread.setK_help (t : Thread) (n j : Nat) (v : BitVec 16) : (t.setK n j v).help = t.help := rfl
@[simp] theorem Thread.setK_gst (t : Thread) (n j : Nat) (v : BitVec 16) : (t.setK n j v).gst = t.gst := rfl
@[simp] theorem Thread.setK_origid (t : Thread) (n j : Nat) (v : BitVec 16) : (t.setK n j v).origid = t.origid := rfl
@[simp] theorem Thread.setK_nalloc (t : Thread) (n j : Nat) (v : BitVec 16) : (t.setK n j v).nalloc = t.nalloc := rfl
@[simp] theorem Thread.setK_msup (t : Thread) (n j : Nat) (v : BitVec 16) : (t.setK n j v).msup = t.msup := rfl
@[simp] theorem Thread.setK_gstate (t : Thread) (n j : Nat) (v : BitVec 16) : (t.setK n j v).gstate = t.gstate := rfl
@[simp] theorem Thread.setK_wait (t : Thread) (n j : Nat) (v : BitVec 16) : (t.setK n j v).wait = t.wait := rfl
@[simp] theorem Thread.setK_warg (t : Thread) (n j : Nat) (v : BitVec 16) : (t.setK n j v).warg = t.warg := rfl
@[simp] theorem Thread.setK_cause (t : Thread) (n j : Nat) (v : BitVec 16) : (t.setK n j v).cause = t.cause := rfl
@[simp] theorem Thread.setK_detail (t : Thread) (n j : Nat) (v : BitVec 16) : (t.setK n j v).detail = t.detail := rfl
@[simp] theorem Thread.setK_tlanes (t : Thread) (n j : Nat) (v : BitVec 16) : (t.setK n j v).tlanes = t.tlanes := rfl
@[simp] theorem Thread.setK_cdetail (t : Thread) (n j : Nat) (v : BitVec 16) : (t.setK n j v).cdetail = t.cdetail := rfl
@[simp] theorem Thread.setK_taddrs (t : Thread) (n j : Nat) (v : BitVec 16) : (t.setK n j v).taddrs = t.taddrs := rfl
@[simp] theorem Thread.setK_sleep (t : Thread) (n j : Nat) (v : BitVec 16) : (t.setK n j v).sleep = t.sleep := rfl
@[simp] theorem Thread.setK_ready (t : Thread) (n j : Nat) (v : BitVec 16) : (t.setK n j v).ready = t.ready := rfl
@[simp] theorem Thread.setK_issued (t : Thread) (n j : Nat) (v : BitVec 16) : (t.setK n j v).issued = t.issued := rfl
@[simp] theorem Thread.setK_age (t : Thread) (n j : Nat) (v : BitVec 16) : (t.setK n j v).age = t.age := rfl
@[simp] theorem Thread.setK_prio (t : Thread) (n j : Nat) (v : BitVec 16) : (t.setK n j v).prio = t.prio := rfl
@[simp] theorem Thread.setK_vdepth (t : Thread) (n j : Nat) (v : BitVec 16) : (t.setK n j v).vdepth = t.vdepth := rfl
@[simp] theorem Thread.setK_replay (t : Thread) (n j : Nat) (v : BitVec 16) : (t.setK n j v).replay = t.replay := rfl
@[simp] theorem Thread.setK_outstanding (t : Thread) (n j : Nat) (v : BitVec 16) : (t.setK n j v).outstanding = t.outstanding := rfl
@[simp] theorem Thread.setK_latch (t : Thread) (n j : Nat) (v : BitVec 16) : (t.setK n j v).latch = t.latch := rfl
@[simp] theorem Thread.setK_yh (t : Thread) (n j : Nat) (v : BitVec 16) : (t.setK n j v).yh = t.yh := rfl
@[simp] theorem Thread.setK_yieldTo (t : Thread) (n j : Nat) (v : BitVec 16) : (t.setK n j v).yieldTo = t.yieldTo := rfl
@[simp] theorem Thread.setK_yielding (t : Thread) (n j : Nat) (v : BitVec 16) : (t.setK n j v).yielding = t.yielding := rfl
@[simp] theorem Thread.setK_depWait (t : Thread) (n j : Nat) (v : BitVec 16) : (t.setK n j v).depWait = t.depWait := rfl
@[simp] theorem Thread.setK_waited (t : Thread) (n j : Nat) (v : BitVec 16) : (t.setK n j v).waited = t.waited := rfl
@[simp] theorem Thread.setK_regions (t : Thread) (n j : Nat) (v : BitVec 16) : (t.setK n j v).regions = t.regions := rfl
@[simp] theorem Thread.setK_remote (t : Thread) (n j : Nat) (v : BitVec 16) : (t.setK n j v).remote = t.remote := rfl
@[simp] theorem Thread.setK_bad (t : Thread) (n j : Nat) (v : BitVec 16) : (t.setK n j v).bad = t.bad := rfl
@[simp] theorem Thread.setK_clause (t : Thread) (n j : Nat) (v : BitVec 16) : (t.setK n j v).clause = t.clause := rfl
@[simp] theorem Thread.setK_job (t : Thread) (n j : Nat) (v : BitVec 16) : (t.setK n j v).job = t.job := rfl
@[simp] theorem Thread.setK_ask (t : Thread) (n j : Nat) (v : BitVec 16) : (t.setK n j v).ask = t.ask := rfl


/-! ### Register reads after writes -/

theorem Thread.getV_setV (t : Thread) {n m l k : Nat} (v : Word) (hl : l < 64) (hk : k < 64) :
    (t.setV n l v).getV m k = if m = n ∧ k = l then v else t.getV m k := by
  have key : ∀ a b : Nat, (64 * a + k = 64 * b + l) ↔ (a = b ∧ k = l) := by intros; omega
  unfold Thread.setV Thread.getV
  by_cases hn : n < xvBase <;> by_cases hm : m < xvBase
  · simp [hn, hm, tget_tset, key]
  · have : ¬(m = n ∧ k = l) := by omega
    simp [hn, hm, this]
  · have : ¬(m = n ∧ k = l) := by omega
    simp [hn, hm, this]
  · have e : (m - xvBase = n - xvBase) ↔ m = n := by omega
    simp [hn, hm, tget_tset, key, e]

theorem Thread.getS_setS (t : Thread) (n m : Nat) (v : Dword) : (t.setS n v).getS m = if m = n then v else t.getS m := by
  unfold Thread.setS Thread.getS
  by_cases hn : n < xsBase <;> by_cases hm : m < xsBase
  · simp [hn, hm, tget_tset]
  · have : m ≠ n := by omega
    simp [hn, hm, this]
  · have : m ≠ n := by omega
    simp [hn, hm, this]
  · have e : (m - xsBase = n - xsBase) ↔ m = n := by omega
    simp [hn, hm, tget_tset, e]

theorem Thread.getP_setP_same (t : Thread) (n : Nat) (m v : Mask) :
    (t.setP n m v).getP n = if n = 15 then BitVec.allOnes 64 else (t.getP n &&& ~~~m) ||| (v &&& m) := by
  unfold Thread.setP Thread.getP
  by_cases h : n = 15
  · simp [h]
  · simp [h, tget_tset]

theorem Thread.getP_setP_ne (t : Thread) {n k : Nat} (h : k ≠ n) (m v : Mask) : (t.setP n m v).getP k = t.getP k := by
  unfold Thread.setP Thread.getP
  by_cases hn : n = 15
  · simp [hn]
  · by_cases hk : k = 15
    · simp [hk]
    · simp [hn, hk, tget_tset, h]

@[simp] theorem Thread.setV_getS (t : Thread) (n l : Nat) (v : Word) (m : Nat) : (t.setV n l v).getS m = t.getS m := by
  simp [Thread.getS]
@[simp] theorem Thread.setV_getP (t : Thread) (n l : Nat) (v : Word) (m : Nat) : (t.setV n l v).getP m = t.getP m := by
  simp [Thread.getP]
@[simp] theorem Thread.setS_getV (t : Thread) (n : Nat) (v : Dword) (m l : Nat) : (t.setS n v).getV m l = t.getV m l := by
  simp [Thread.getV]
@[simp] theorem Thread.setS_getP (t : Thread) (n : Nat) (v : Dword) (m : Nat) : (t.setS n v).getP m = t.getP m := by
  simp [Thread.getP]
@[simp] theorem Thread.setP_getV (t : Thread) (n : Nat) (a v : Mask) (m l : Nat) : (t.setP n a v).getV m l = t.getV m l := by
  simp [Thread.getV]
@[simp] theorem Thread.setP_getS (t : Thread) (n : Nat) (a v : Mask) (m : Nat) : (t.setP n a v).getS m = t.getS m := by
  simp [Thread.getS]

theorem Thread.bad_setV (t : Thread) (n l : Nat) (v : Word) : ∀ b ∈ (t.setV n l v).bad, b ∈ t.bad := by
  unfold Thread.setV; split
  · intro b hb; exact (List.mem_filter.1 hb).1
  · intro b hb; exact hb

theorem Thread.bad_setS (t : Thread) (n : Nat) (v : Dword) : ∀ b ∈ (t.setS n v).bad, b ∈ t.bad := by
  unfold Thread.setS; split
  · intro b hb; exact (List.mem_filter.1 hb).1
  · intro b hb; exact hb

end Sys2Proof.Machine
end

