-- ==== Sys2Proof/Laws/Issue.lean ====
section
/-!
SUPPORT. Laws of the issue of a word: what each entry of `issue` gives, what the environment of a word that runs is, and what
the end of a word leaves.
-/
namespace Sys2Proof.Machine

/-! ### The environment -/

/-- What a running word's environment is. -/
theorem entry_runs {opc : Nat} {f : Fields} {s : State} {a : Agent} {t : Thread} {e : Env}
    {ports : Tab (List (List Word))} (h : entry opc f s a t = .runs e ports) :
    e.a = a ∧ e.t = t ∧ e.n = s.lanes a ∧ e.act = activeLanes a (s.lanes a) t f ∧ e.act ≠ 0 ∧ e.opc = opc ∧ e.f = f ∧
      checkWord s a t opc f e.act = none := by
  unfold entry at h
  dsimp only at h
  split at h
  · cases h
  · rename_i hact
    split at h
    · cases h
    · rename_i hc
      split at h
      · cases h
      · cases h
      · split at h
        · cases h
        · injection h with h1 h2
          subst h1
          exact ⟨rfl, rfl, rfl, rfl, hact, rfl, rfl, hc⟩

theorem Runs.env {opc : Nat} {f : Fields} {s : State} {e : Env} {ports : Tab (List (List Word))}
    (h : Runs opc f s e ports) :
    s.thread? e.a = some e.t ∧ e.a = s.cur ∧ e.n = s.lanes e.a ∧ e.act ≠ 0 ∧ e.opc = opc ∧ e.f = f ∧ e.bad = 0 := by
  obtain ⟨t, h1, h2, h3⟩ := h
  obtain ⟨ha, ht, hn, -, h4, h5, h6, -⟩ := entry_runs h2
  subst ht
  rw [ha]
  exact ⟨h1, rfl, hn, h4, h5, h6, h3⟩

/-! ### What `issue` answers -/

theorem issue_idle {opc : Nat} {f : Fields} {s : State} {t : Thread} (body : Env → State → Res)
    (ht : s.thread? s.cur = some t) (h : entry opc f s s.cur t = .idle) :
    issue opc f s body = .next (s.setThread s.cur t.advance) := by
  simp [issue, ht, h]

theorem issue_traps {opc : Nat} {f : Fields} {s : State} {t : Thread} {i : Trap} (body : Env → State → Res)
    (ht : s.thread? s.cur = some t) (h : entry opc f s s.cur t = .traps i) :
    issue opc f s body = .next (takeTrap s s.cur (wordOf opc f) i) := by
  simp [issue, ht, h]

theorem issue_noAgent {opc : Nat} {f : Fields} {s : State} (body : Env → State → Res) (ht : s.thread? s.cur = none) :
    issue opc f s body = .fault .noAgent := by
  simp [issue, ht]

theorem issue_runs {opc : Nat} {f : Fields} {s : State} {e : Env} {ports : Tab (List (List Word))}
    (body : Env → State → Res) (h : Runs opc f s e ports) :
    issue opc f s body = .next (settle s e.a (wordOf opc f) e ports (body e s)) := by
  obtain ⟨t, h1, h2, -⟩ := h
  obtain ⟨ha, -⟩ := entry_runs h2
  simp [issue, h1, h2, ha]

/-- A word that runs with a body that is done. -/
theorem issue_ok {opc : Nat} {f : Fields} {s s' : State} {e : Env} {ports : Tab (List (List Word))}
    {body : Env → State → Res} (h : Runs opc f s e ports) (hb : body e s = .ok s') :
    issue opc f s body = .next (wordEnd s' e ports) := by
  have hbad : e.bad = 0 := h.env.2.2.2.2.2.2
  rw [issue_runs body h, hb]
  simp [settle, hbad, wordEnd]

/-- A word that runs with a body that has set the pc or waits. -/
theorem issue_go {opc : Nat} {f : Fields} {s s' : State} {e : Env} {ports : Tab (List (List Word))}
    {body : Env → State → Res} (h : Runs opc f s e ports) (hb : body e s = .go s') :
    issue opc f s body = .next (wordStays s' e ports) := by
  have hbad : e.bad = 0 := h.env.2.2.2.2.2.2
  rw [issue_runs body h, hb]
  simp [settle, hbad, wordStays]

/-- A word that runs with a body that traps. -/
theorem issue_trap {opc : Nat} {f : Fields} {s s' : State} {e : Env} {ports : Tab (List (List Word))} {i : Trap}
    {body : Env → State → Res} (h : Runs opc f s e ports) (hl : NoLate e) (hb : body e s = .trap i s') :
    issue opc f s body = .next (takeTrap s' e.a (wordOf opc f) i) := by
  have hbad : e.bad = 0 := h.env.2.2.2.2.2.2
  rw [issue_runs body h, hb]
  simp only [NoLate] at hl
  simp [settle, hbad, hl]

/-! ### Every row that is a word issues -/

/-- A word that waits for its agent's results issues once they are written, or traps on one that is uncorrectable. -/
theorem issueAfterResults_spec (opc : Nat) (f : Fields) (s : State) (body : Env → State → Res) (h : waitsForResults opc = true) :
    (resultsGood opc s → issueAfterResults opc f s body = issue opc f (settledFor opc s) body) ∧
      (¬resultsGood opc s → issueAfterResults opc f s body = .next (takeTrap s s.cur (wordOf opc f) (Trap.all cECCU 0 0))) := by
  unfold issueAfterResults resultsGood settledFor
  cases ht : s.thread? s.cur with
  | none => simp [h]
  | some t => cases hl : t.late? <;> simp [h, hl]

/-- The execution of a row that is a word is the issue of its opcode and fields, with the body of its row, once the results that it
waits for are written. -/
theorem exec_issue {i : Instr} {opc : Nat} {f : Fields} (h : instrForm i = some (opc, f)) (s : State) (hg : resultsGood opc s) :
    ∃ body, exec i s = issue opc f (settledFor opc s) body := by
  cases i <;> simp only [instrForm, Option.some.injEq, Prod.mk.injEq, reduceCtorEq] at h <;>
    obtain ⟨rfl, rfl⟩ := h <;> unfold exec <;>
    first | exact ⟨_, Eq.refl _⟩ | exact ⟨_, (issueAfterResults_spec _ _ _ _ rfl).1 hg⟩

/-! ### What the end of a word leaves -/

theorem popPorts_threads (s : State) (a : Agent) (opc : Nat) (f : Fields) (p : Tab (List (List Word))) :
    (popPorts s a opc f p).threads = s.threads := by
  unfold popPorts; split
  · rfl
  · split <;> rfl

theorem popPorts_thread? (s : State) (a b : Agent) (opc : Nat) (f : Fields) (p : Tab (List (List Word))) :
    (popPorts s a opc f p).thread? b = s.thread? b := by
  simp [State.thread?, popPorts_threads]

theorem popPorts_mem (s : State) (a : Agent) (opc : Nat) (f : Fields) (p : Tab (List (List Word))) :
    (popPorts s a opc f p).mem = s.mem := by
  unfold popPorts; split
  · rfl
  · split <;> rfl

theorem popPorts_setThread (s : State) (a b : Agent) (t : Thread) (opc : Nat) (f : Fields) (p : Tab (List (List Word))) :
    popPorts (s.setThread b t) a opc f p = (popPorts s a opc f p).setThread b t := by
  unfold popPorts; split
  · rfl
  · simp only [State.setThread_block?, State.setThread_blockNo]
    split <;> rfl

theorem modThread_of {s : State} {a : Agent} {t : Thread} (h : s.thread? a = some t) (g : Thread → Thread) :
    s.modThread a g = s.setThread a (g t) := by
  simp [State.modThread, h]

theorem modThread_mem (s : State) (a : Agent) (g : Thread → Thread) : (s.modThread a g).mem = s.mem := by
  unfold State.modThread; split <;> rfl

/-- The end of a word whose only effect is on its agent's registers. -/
theorem wordEnd_setThread (s : State) (e : Env) (ports : Tab (List (List Word))) (u : Thread) :
    wordEnd (s.setThread e.a u) e ports = regsAfter s e ports u.advance := by
  unfold wordEnd regsAfter
  rw [popPorts_setThread, modThread_of (State.thread?_setThread_same _ _ _)]
  rw [State.setThread_setThread, popPorts_setThread]

theorem wordEnd_modThread {s : State} {e : Env} (h : s.thread? e.a = some e.t) (ports : Tab (List (List Word)))
    (g : Thread → Thread) : wordEnd (s.modThread e.a g) e ports = regsAfter s e ports (g e.t).advance := by
  rw [modThread_of h, wordEnd_setThread]

theorem wordStays_modThread {s : State} {e : Env} (h : s.thread? e.a = some e.t) (ports : Tab (List (List Word)))
    (g : Thread → Thread) : wordStays (s.modThread e.a g) e ports = regsAfter s e ports (g e.t) := by
  rw [modThread_of h]; rfl

end Sys2Proof.Machine
end

