-- ==== Sys2Proof/Laws/Lanes.lean ====
section
/-!
SUPPORT. The law of words whose lanes compute results: `laneWise_result` says once everything that such a word does.
-/
namespace Sys2Proof.Machine

/-! ### Lanes -/

theorem mem_lanesOf {n : Nat} {m : Mask} {l : Nat} : l ∈ lanesOf n m ↔ l < n ∧ m.getLsbD l = true := by
  simp [lanesOf]

theorem lanes_le (s : State) (a : Agent) : s.lanes a ≤ 64 := by
  unfold State.lanes lanesOnCore
  split
  · split
    · exact Nat.le_refl _
    · split <;> decide
  · decide

theorem Runs.lane_lt {opc : Nat} {f : Fields} {s : State} {e : Env} {ports : Tab (List (List Word))}
    (h : Runs opc f s e ports) : ∀ l ∈ e.lanes, l < 64 := by
  intro l hl
  have := (mem_lanesOf.1 hl).1
  have hn := h.env.2.2.1
  have := lanes_le s e.a
  omega

/-! ### Folds of register writes -/

theorem foldl_setV (n : Nat) (val : Nat → Word) (ls : List Nat) (hl : ∀ l ∈ ls, l < 64) (t : Thread) (m k : Nat) (hk : k < 64) :
    (ls.foldl (fun u l => u.setV n l (val l)) t).getV m k = if m = n ∧ k ∈ ls then val k else t.getV m k := by
  induction ls generalizing t with
  | nil => simp
  | cons l r ih =>
    rw [List.foldl_cons, ih (fun x hx => hl x (List.mem_cons_of_mem _ hx)),
      Thread.getV_setV t (val l) (hl l List.mem_cons_self) hk]
    by_cases h1 : m = n
    · subst h1
      by_cases h2 : k ∈ r
      · simp [h2]
      · by_cases h3 : k = l
        · subst h3; simp [h2]
        · simp [h2, h3]
    · simp [h1]

theorem foldl_setV2 (n : Nat) (lo hi : Nat → Word) (ls : List Nat) (hl : ∀ l ∈ ls, l < 64) (t : Thread) (m k : Nat)
    (hk : k < 64) :
    (ls.foldl (fun u l => (u.setV n l (lo l)).setV (n + 1) l (hi l)) t).getV m k =
      if m = n ∧ k ∈ ls then lo k else if m = n + 1 ∧ k ∈ ls then hi k else t.getV m k := by
  induction ls generalizing t with
  | nil => simp
  | cons l r ih =>
    have h64 := hl l List.mem_cons_self
    rw [List.foldl_cons, ih (fun x hx => hl x (List.mem_cons_of_mem _ hx)),
      Thread.getV_setV _ (hi l) h64 hk, Thread.getV_setV _ (lo l) h64 hk]
    by_cases h2 : k ∈ r
    · by_cases h1 : m = n
      · simp [h1, h2]
      · by_cases h3 : m = n + 1
        · simp [h2, h3]
        · simp [h1, h2, h3]
    · by_cases h4 : k = l
      · subst h4
        by_cases h1 : m = n
        · subst h1; simp [h2]
        · by_cases h3 : m = n + 1
          · subst h3; simp [h2]
          · simp [h1, h2, h3]
      · simp [h2, h4]

/-- A fold of writes that keep a part of the registers keeps it. -/
theorem foldl_same {τ σ : Type} (p : Thread → τ) (g : Thread → σ → Thread) (hg : ∀ u x, p (g u x) = p u) (l : List σ) :
    ∀ t, p (l.foldl g t) = p t := by
  induction l with
  | nil => intro t; rfl
  | cons x r ih => intro t; rw [List.foldl_cons, ih, hg]

theorem foldl_bad {σ : Type} (g : Thread → σ → Thread) (hg : ∀ u x, ∀ b ∈ (g u x).bad, b ∈ u.bad) (l : List σ) :
    ∀ t, ∀ b ∈ (l.foldl g t).bad, b ∈ t.bad := by
  induction l with
  | nil => intro t b hb; exact hb
  | cons x r ih => intro t b hb; exact hg t x b (ih _ b hb)

/-! ### The results of a word -/

theorem foldl_append (F : Nat × Dword × Flags → Writes) (rs : List (Nat × Dword × Flags)) : ∀ A : Writes,
    rs.foldl (fun acc x => acc.append (F x)) A =
      { vw := A.vw ++ rs.flatMap fun x => (F x).vw, sw := A.sw ++ rs.flatMap fun x => (F x).sw,
        pw := A.pw ++ rs.flatMap fun x => (F x).pw, kw := A.kw ++ rs.flatMap fun x => (F x).kw } := by
  induction rs with
  | nil => intro A; simp
  | cons x r ih => intro A; rw [List.foldl_cons, ih]; simp [Writes.append, List.append_assoc]

/-- The results of every active lane of a word. -/
def laneWrites (e : Env) (w : Nat) (g : Nat → Dword × Flags) : Writes :=
  if e.f.d.isS then laneWrite e.f.d w 0 (g e.low).1
  else ((e.lanes.map fun l => (l, g l)).foldl (fun acc x => acc.append (laneWrite e.f.d w x.1 x.2.1)) Writes.none)

/-- Registers that differ in results only. -/
theorem sameOutside_trans {t u v : Thread} (h1 : sameOutside t u) (h2 : sameOutside u v) : sameOutside t v := by
  cases t; cases u; cases v
  simp only [sameOutside, Thread.mk.injEq] at *
  simp_all

theorem sameOutside_refl (t : Thread) : sameOutside t t := rfl

theorem sameOutside_setV (t : Thread) (n l : Nat) (v : Word) : sameOutside t (t.setV n l v) := by
  unfold Thread.setV sameOutside; split <;> rfl

theorem sameOutside_setS (t : Thread) (n : Nat) (v : Dword) : sameOutside t (t.setS n v) := by
  unfold Thread.setS sameOutside; split <;> rfl

theorem sameOutside_setP (t : Thread) (n : Nat) (m v : Mask) : sameOutside t (t.setP n m v) := by
  unfold Thread.setP sameOutside; split <;> rfl

theorem foldl_sameOutside {σ : Type} (g : Thread → σ → Thread) (hg : ∀ u x, sameOutside u (g u x)) (l : List σ) :
    ∀ t, sameOutside t (l.foldl g t) := by
  induction l with
  | nil => intro t; exact sameOutside_refl t
  | cons x r ih => intro t; exact sameOutside_trans (hg t x) (ih _)

/-- The registers after results without codebook writes differ in results only, and lose no poison they did not have. -/
theorem applyW_sameOutside (t : Thread) (w : Writes) (hk : w.kw = []) :
    sameOutside t (t.applyW w) ∧ (t.applyW w).gst = t.gst ∧ ∀ b ∈ (t.applyW w).bad, b ∈ t.bad := by
  unfold Thread.applyW
  simp only [hk, List.foldl_nil]
  refine ⟨?_, ?_, ?_⟩
  · refine sameOutside_trans (foldl_sameOutside (fun (u : Thread) (x : Nat × Word) => u.setV (x.1 / 64) (x.1 % 64) x.2)
      (fun u x => sameOutside_setV u _ _ _) w.vw t) ?_
    refine sameOutside_trans (foldl_sameOutside (fun (u : Thread) (x : Nat × Dword) => u.setS x.1 x.2)
      (fun u x => sameOutside_setS u _ _) w.sw _) ?_
    exact foldl_sameOutside (fun (u : Thread) (x : Nat × Mask × Mask) => u.setP x.1 x.2.1 x.2.2)
      (fun u x => sameOutside_setP u _ _ _) w.pw _
  · rw [foldl_same Thread.gst _ (fun u (x : Nat × Mask × Mask) => Thread.setP_gst u _ _ _),
      foldl_same Thread.gst _ (fun u (x : Nat × Dword) => Thread.setS_gst u _ _),
      foldl_same Thread.gst _ (fun u (x : Nat × Word) => Thread.setV_gst u _ _ _)]
  · intro b hb
    rw [foldl_same Thread.bad _ (fun u (x : Nat × Mask × Mask) => Thread.setP_bad u _ _ _)] at hb
    have := foldl_bad _ (fun u (x : Nat × Dword) => Thread.bad_setS u _ _) _ _ b hb
    exact foldl_bad _ (fun u (x : Nat × Word) => Thread.bad_setV u _ _ _) _ _ b this

theorem laneWrites_kw (e : Env) (w : Nat) (g : Nat → Dword × Flags) : (laneWrites e w g).kw = [] := by
  have h1 : ∀ l v, (laneWrite e.f.d w l v).kw = [] := by
    intro l v; unfold laneWrite; split
    · dsimp only; split <;> rfl
    · dsimp only; split <;> rfl
    · rfl
    · rfl
    · rfl
    · rfl
  unfold laneWrites; split
  · exact h1 _ _
  · rw [foldl_append]; simp [h1, Writes.none]

/-- The results of a word stand in its destination, and nowhere else. -/
theorem laneWrites_values (e : Env) (w : Nat) (g : Nat → Dword × Flags) (hl : ∀ l ∈ e.lanes, l < 64) :
    LaneValues e (e.t.applyW (laneWrites e w g)) w g := by
  have hv : ∀ n : Nat, e.f.d.isS = false → vIdx e.f.d = n →
      (∀ l v, laneWrite e.f.d w l v =
        if w = 64 then { Writes.none with vw := [(64 * n + l, v.setWidth 32), (64 * (n + 1) + l, v.extractLsb' 32 32)] }
        else { Writes.none with vw := [(64 * n + l, v.setWidth 32)] }) →
      (∀ l ∈ e.lanes, (e.t.applyW (laneWrites e w g)).getV n l = (g l).1.setWidth 32 ∧
        (w = 64 → (e.t.applyW (laneWrites e w g)).getV (n + 1) l = (g l).1.extractLsb' 32 32)) ∧
      (∀ m l, l < 64 → ¬(l ∈ e.lanes ∧ (m = n ∨ w = 64 ∧ m = n + 1)) →
        (e.t.applyW (laneWrites e w g)).getV m l = e.t.getV m l) ∧
      (e.t.applyW (laneWrites e w g)).s = e.t.s ∧ (e.t.applyW (laneWrites e w g)).xs = e.t.xs ∧
        (e.t.applyW (laneWrites e w g)).p = e.t.p := by
    intro n hS _ hw
    have hW : e.t.applyW (laneWrites e w g) =
        if w = 64 then
          e.lanes.foldl (fun u l => (u.setV n l ((g l).1.setWidth 32)).setV (n + 1) l ((g l).1.extractLsb' 32 32)) e.t
        else e.lanes.foldl (fun u l => u.setV n l ((g l).1.setWidth 32)) e.t := by
      have hfold : laneWrites e w g =
          { vw := e.lanes.flatMap fun l => (laneWrite e.f.d w l (g l).1).vw, sw := [], pw := [], kw := [] } := by
        unfold laneWrites
        rw [hS, if_neg (by simp), foldl_append]
        simp only [hw, List.flatMap_map, Writes.none, List.nil_append]
        by_cases h : w = 64 <;> simp [h]
      rw [hfold]
      unfold Thread.applyW
      simp only [List.foldl_nil, hw]
      generalize e.t = t0
      have hd : ∀ a l : Nat, l < 64 → (64 * a + l) / 64 = a ∧ (64 * a + l) % 64 = l := by intros; omega
      by_cases h : w = 64
      · simp only [h, if_true]
        revert hl t0
        generalize e.lanes = ls
        intro hl
        induction ls with
        | nil => intro t0; rfl
        | cons l r ih =>
          intro t0
          have h1 := hd n l (hl l List.mem_cons_self)
          have h2 := hd (n + 1) l (hl l List.mem_cons_self)
          simp only [List.flatMap_cons, List.foldl_append, List.foldl_cons, List.foldl_nil, h1, h2]
          exact ih (fun x hx => hl x (List.mem_cons_of_mem _ hx)) _
      · simp only [h, if_false]
        revert hl t0
        generalize e.lanes = ls
        intro hl
        induction ls with
        | nil => intro t0; rfl
        | cons l r ih =>
          intro t0
          have h1 := hd n l (hl l List.mem_cons_self)
          simp only [List.flatMap_cons, List.foldl_append, List.foldl_cons, List.foldl_nil, h1]
          exact ih (fun x hx => hl x (List.mem_cons_of_mem _ hx)) _
    rw [hW]
    by_cases h : w = 64
    · simp only [h, if_true, true_and]
      refine ⟨?_, ?_, ?_, ?_, ?_⟩
      · intro l hm
        rw [foldl_setV2 _ _ _ _ hl _ _ _ (hl l hm), foldl_setV2 _ _ _ _ hl _ _ _ (hl l hm)]
        simp [hm]
      · intro m l hlt hno
        rw [foldl_setV2 _ _ _ _ hl _ _ _ hlt]
        by_cases hm : l ∈ e.lanes
        · have h1 : m ≠ n := fun h' => hno ⟨hm, Or.inl h'⟩
          have h2 : m ≠ n + 1 := fun h' => hno ⟨hm, Or.inr h'⟩
          simp [h1, h2]
        · simp [hm]
      · exact foldl_same Thread.s _ (fun u l => by simp) _ _
      · exact foldl_same Thread.xs _ (fun u l => by simp) _ _
      · exact foldl_same Thread.p _ (fun u l => by simp) _ _
    · simp only [h, if_false, false_and, or_false]
      refine ⟨?_, ?_, ?_, ?_, ?_⟩
      · intro l hm
        rw [foldl_setV _ _ _ hl _ _ _ (hl l hm)]
        simp [hm]
      · intro m l hlt hno
        rw [foldl_setV _ _ _ hl _ _ _ hlt]
        by_cases hm : l ∈ e.lanes
        · have h1 : m ≠ n := fun h' => hno ⟨hm, h'⟩
          simp [h1]
        · simp [hm]
      · exact foldl_same Thread.s _ (fun u l => by simp) _ _
      · exact foldl_same Thread.xs _ (fun u l => by simp) _ _
      · exact foldl_same Thread.p _ (fun u l => by simp) _ _
  have hs : ∀ n : Nat, e.f.d.isS = true → (∀ v, laneWrite e.f.d w 0 v = { Writes.none with sw := [(n, v)] }) →
      (e.t.applyW (laneWrites e w g)).getS n = (g e.low).1 ∧
      (∀ m, m ≠ n → (e.t.applyW (laneWrites e w g)).getS m = e.t.getS m) ∧
      (e.t.applyW (laneWrites e w g)).v = e.t.v ∧ (e.t.applyW (laneWrites e w g)).xv = e.t.xv ∧
        (e.t.applyW (laneWrites e w g)).p = e.t.p := by
    intro n hS hw
    have hW : e.t.applyW (laneWrites e w g) = e.t.setS n (g e.low).1 := by
      unfold laneWrites
      rw [hS, if_pos rfl, hw]
      simp [Thread.applyW, Writes.none]
    rw [hW]
    refine ⟨by simp [Thread.getS_setS], fun m hm => by simp [Thread.getS_setS, hm], ?_, ?_, ?_⟩ <;> simp
  have ho : e.f.d.isS = false → (∀ l v, laneWrite e.f.d w l v = Writes.none) →
      e.t.applyW (laneWrites e w g) = e.t := by
    intro hS hw
    unfold laneWrites
    rw [hS, if_neg (by simp), foldl_append]
    have hz : ∀ {β : Type} (l : List (Nat × Dword × Flags)), (l.flatMap fun _ => ([] : List β)) = [] := by
      intro β l; induction l with
      | nil => rfl
      | cons x r ih => simp [List.flatMap_cons, ih]
    simp only [hw, Writes.none, Thread.applyW, hz, List.nil_append, List.foldl_nil]
  unfold LaneValues
  split
  · rename_i n hd; exact hv _ (by rw [hd]; rfl) rfl (by intro l v; rw [hd]; rfl)
  · rename_i n hd; exact hv _ (by rw [hd]; rfl) rfl (by intro l v; rw [hd]; rfl)
  · rename_i n hd; exact hs _ (by rw [hd]; rfl) (by intro v; rw [hd]; rfl)
  · rename_i n hd; exact hs _ (by rw [hd]; rfl) (by intro v; rw [hd]; rfl)
  · rename_i n hd
    have hS : e.f.d.isS = false := by rw [hd]; rfl
    have hW : e.t.applyW (laneWrites e w g) =
        e.lanes.foldl (fun u l => u.setP n.toNat (bitMask l) (if (g l).1 = 0 then 0 else bitMask l)) e.t := by
      have hfold : laneWrites e w g =
          { vw := [], sw := [], pw := e.lanes.map fun l => (n.toNat, bitMask l, if (g l).1 = 0 then 0 else bitMask l),
            kw := [] } := by
        unfold laneWrites
        rw [hS, if_neg (by simp), foldl_append, hd]
        simp [laneWrite, List.flatMap_map, Writes.none]
        induction e.lanes with
        | nil => rfl
        | cons l r ih => simp [ih]
      rw [hfold]
      simp [Thread.applyW, List.foldl_map]
    have hn15 : n.toNat = 15 ↔ n = 15#4 := by
      constructor
      · intro h; apply BitVec.eq_of_toNat_eq; simpa using h
      · intro h; simp [h]
    have hb : ∀ i j : Nat, j < 64 → (bitMask i).getLsbD j = decide (i = j) := by
      intro i j hj
      simp [bitMask, hj]
      by_cases h : i = j
      · subst h; simp
      · by_cases h2 : j < i
        · simp [h2, h]
        · have : j - i ≠ 0 := by omega
          simp [h, this]
    rw [hW]
    refine ⟨?_, ?_, ?_, ?_, ?_, ?_⟩
    · intro l hlt
      generalize e.t = t0
      generalize e.lanes = ls
      by_cases h15 : n = 15#4
      · have hp : ∀ u : Thread, u.getP n.toNat = BitVec.allOnes 64 := fun u => by
          unfold Thread.getP; rw [if_pos (hn15.2 h15)]
        rw [hp, if_pos h15, BitVec.getLsbD_allOnes]
        simp [hlt]
      · have h15' : n.toNat ≠ 15 := fun h => h15 (hn15.1 h)
        simp only [h15, if_false]
        induction ls generalizing t0 with
        | nil => simp
        | cons k r ih =>
          rw [List.foldl_cons, ih, Thread.getP_setP_same]
          by_cases hr : l ∈ r
          · simp [hr]
          · by_cases hk : l = k
            · subst hk
              by_cases hz : (g l).1 = 0
              · simp [hr, hz, h15', hb, hlt, -BitVec.getLsbD_eq_getElem]
              · have hz' : ¬(g l).1 = 0#64 := hz
                simp [hr, hz', h15', hb, hlt, -BitVec.getLsbD_eq_getElem]
            · have hk' : ¬ k = l := fun h => hk h.symm
              by_cases hz : (g k).1 = 0
              · simp [hr, hk, hz, h15', hb, hlt, hk', -BitVec.getLsbD_eq_getElem]
              · simp [hr, hk, h15', hb, hlt, hk', -BitVec.getLsbD_eq_getElem]
    · intro m hm
      exact foldl_same (fun u : Thread => u.getP m) _ (fun u l => Thread.getP_setP_ne u hm _ _) _ _
    · exact foldl_same Thread.v _ (fun u l => by simp) _ _
    · exact foldl_same Thread.xv _ (fun u l => by simp) _ _
    · exact foldl_same Thread.s _ (fun u l => by simp) _ _
    · exact foldl_same Thread.xs _ (fun u l => by simp) _ _
  · rename_i h1 h2 h3 h4 h5
    have : ∀ l v, laneWrite e.f.d w l v = Writes.none := by
      intro l v; unfold laneWrite; split
      · exact absurd ‹_› (h1 _)
      · exact absurd ‹_› (h2 _)
      · exact absurd ‹_› (h3 _)
      · exact absurd ‹_› (h4 _)
      · exact absurd ‹_› (h5 _)
      · rfl
    have hS : e.f.d.isS = false := by
      cases hd : e.f.d <;> first | rfl | exact absurd hd (h3 _) | exact absurd hd (h4 _)
    rw [ho hS this]
    exact ⟨rfl, rfl, rfl, rfl, rfl⟩

/-! ### Flags -/

theorem bitMask_ne_zero {l : Nat} (h : l < 64) : bitMask l ≠ 0 := by
  intro h0
  have := congrArg (fun m : Mask => m.getLsbD l) h0
  simp [bitMask, BitVec.getLsbD_shiftLeft, h, -BitVec.getLsbD_eq_getElem] at this

/-- No enabled flag, no trap. -/
theorem fpTrap_none {e : Env} {fl : List (Nat × Flags)} (h : ∀ x ∈ fl, x.2 &&& ((e.t.gst >>> 16) &&& 0x1F#32) = 0) :
    fpTrap e fl = none := by
  unfold fpTrap
  have hf : ∀ m : Mask,
      fl.foldl (fun m x => if x.2 &&& ((e.t.gst >>> 16) &&& 0x1F#32) = 0 then m else m ||| bitMask x.1) m = m := by
    induction fl with
    | nil => intro m; rfl
    | cons x r ih =>
      intro m
      rw [List.foldl_cons, if_pos (h x List.mem_cons_self)]
      exact ih (fun y hy => h y (List.mem_cons_of_mem _ hy)) m
  simp only [hf, if_true]

/-- The flag list of a word whose lanes compute `g`. -/
def laneFlags (e : Env) (g : Nat → Dword × Flags) : List (Nat × Flags) :=
  if e.f.d.isS then e.lanes.map fun l => (l, (g e.low).2) else e.lanes.map fun l => (l, (g l).2)

theorem laneFlags_or (e : Env) (g : Nat → Dword × Flags) :
    (laneFlags e g).foldl (fun m x => m ||| x.2) (0 : Flags) = raised e g := by
  unfold laneFlags raised laneFor
  split <;> simp [List.foldl_map, *]

theorem laneFlags_none {e : Env} {g : Nat → Dword × Flags} (h : NoFlagTrap e g) : fpTrap e (laneFlags e g) = none := by
  apply fpTrap_none
  intro x hx
  unfold laneFlags at hx
  unfold NoFlagTrap laneFor at h
  split at hx
  · obtain ⟨l, hl, rfl⟩ := List.mem_map.1 hx; simpa [*] using h l hl
  · obtain ⟨l, hl, rfl⟩ := List.mem_map.1 hx; simpa [*] using h l hl

theorem laneWise_eq (e : Env) (s : State) (w : Nat) (g : Nat → Dword × Flags) :
    laneWise e s w g = finishWith e s (laneWrites e w g) (laneFlags e g) := by
  unfold laneWise laneWrites laneFlags
  split
  · rfl
  · simp [List.map_map, Function.comp_def]

/-- A word whose body computes a result per lane completes with those results (everything such a word does). -/
theorem laneWise_result {opc : Nat} {f : Fields} {s : State} {e : Env} {ports : Tab (List (List Word))} {w : Nat}
    {g : Nat → Dword × Flags} {body : Env → State → Res} (h : Runs opc f s e ports) (hn : NoFlagTrap e g)
    (hb : body e s = laneWise e s w g) : LaneResult s e ports w g (issue opc f s body) := by
  have ht := h.env.1
  have hk := laneWrites_kw e w g
  have hs := applyW_sameOutside e.t (laneWrites e w g) hk
  have hbody : body e s = .ok (complete e s (laneWrites e w g) (raised e g) 0 0 []) := by
    rw [hb, laneWise_eq]
    unfold finishWith
    rw [laneFlags_none hn, laneFlags_or]
  rw [issue_ok h hbody]
  unfold complete
  rw [wordEnd_modThread ht]
  refine ⟨{ (e.t.applyW (laneWrites e w g)) with gst := e.t.gst ||| raised e g }, ?_, rfl, ?_, hs.2.2, ?_⟩
  · exact laneWrites_values e w g h.lane_lt
  · exact hs.1
  · by_cases hla : e.f.la = 0 ∨ e.replay?.isSome = true
    · simp only [if_pos hla]
    · simp only [if_neg hla]
      refine ⟨_, rfl, rfl, rfl, ?_, rfl⟩
      dsimp only

/-- The trap of a word that would raise an enabled flag (R70): no result is written and no flag is set. -/
theorem laneWise_trap {opc : Nat} {f : Fields} {s : State} {e : Env} {ports : Tab (List (List Word))} {w : Nat}
    {g : Nat → Dword × Flags} {body : Env → State → Res} {i : Trap} (h : Runs opc f s e ports) (hl : NoLate e)
    (hf : fpTrap e (laneFlags e g) = some i) (hb : body e s = laneWise e s w g) :
    issue opc f s body = .next (takeTrap s e.a (wordOf opc f) i) := by
  refine issue_trap h hl ?_
  rw [hb, laneWise_eq]
  unfold finishWith
  rw [hf]

end Sys2Proof.Machine
end

