-- ==== Sys2Proof/Laws/Memory.lean ====
section
/-!
SUPPORT. Laws of memory: every operation on it keeps its canonical form, reads after writes at home, and the operations that
leave it as it is.
-/
namespace Sys2Proof.Machine

theorem reset_memory_wf : Memory.wf State.reset.mem := rfl

theorem putHome_wf {s : State} (p : Nat) (v : Byte) (h : Memory.wf s.mem) : Memory.wf (s.putHome p v).mem :=
  twf_tset unlistedByte p v h

theorem putHomes_wf (bs : List Byte) : ∀ {s : State} (p : Nat), Memory.wf s.mem → Memory.wf (s.putHomes p bs).mem := by
  induction bs with
  | nil => intro s p h; exact h
  | cons b r ih => intro s p h; exact ih (p + 1) (putHome_wf p b h)

theorem putHome64_wf {s : State} (p : Nat) (v : Dword) (h : Memory.wf s.mem) : Memory.wf (s.putHome64 p v).mem :=
  putHomes_wf _ p h

/-- A fold of steps that each keep a property keeps it. -/
theorem foldl_keeps {σ τ : Type} (P : σ → Prop) (g : σ → τ → σ) (hg : ∀ u x, P u → P (g u x)) (l : List τ) :
    ∀ s, P s → P (l.foldl g s) := by
  induction l with
  | nil => intro s h; exact h
  | cons x r ih => intro s h; exact ih _ (hg s x h)

/-! ### The lines of a cache -/

theorem setTags_mem (s : State) (c : CacheAt) (ts : List Tag) : (s.setTags c ts).mem = s.mem := by cases c <;> rfl
theorem touchLine_mem (s : State) (c : CacheAt) (line : Nat) : (s.touchLine c line).mem = s.mem := setTags_mem ..
theorem addLine_mem (s : State) (c : CacheAt) (t : Tag) : (s.addLine c t).mem = s.mem := setTags_mem ..
theorem loseLine_mem (s : State) (c : CacheAt) (line : Nat) : (s.loseLine c line).mem = s.mem := setTags_mem ..
theorem purgeL1_mem (s : State) (c : Nat) : (s.purgeL1 c).mem = s.mem := rfl
theorem purgeRdc_mem (s : State) (d : Nat) : (s.purgeRdc d).mem = s.mem := rfl

/-- An allocation keeps the canonical form where taking a line out keeps it. -/
theorem allocate_wf {s : State} (c : CacheAt) (t : Tag) (pin : Bool) (leave : State → Tag → State)
    (hl : ∀ (u : State) x, Memory.wf u.mem → Memory.wf (leave u x).mem) (h : Memory.wf s.mem) :
    Memory.wf (s.allocate c t pin leave).2.mem := by
  unfold State.allocate; split
  · dsimp only; rw [touchLine_mem]; exact h
  · dsimp only; rw [addLine_mem]; exact h
  · dsimp only; rw [addLine_mem, loseLine_mem]; exact hl _ _ h
  · exact h

theorem useL2_mem (s : State) (line ret cidx : Nat) (pin : Bool) : (s.useL2 line ret cidx pin).mem = s.mem := by
  unfold State.useL2 State.allocate; split <;> simp only [touchLine_mem, addLine_mem, loseLine_mem]

theorem dropL1_mem (s : State) (c p : Nat) : (s.dropL1 c p).mem = s.mem := rfl
theorem dropRdc_mem (s : State) (d p : Nat) : (s.dropRdc d p).mem = s.mem := rfl
theorem dropCleanL1_mem (s : State) (c : Nat) (f : Nat → Bool) : (s.dropCleanL1 c f).mem = s.mem := rfl
theorem dropCleanRdc_mem (s : State) (d : Nat) (f : Nat → Bool) : (s.dropCleanRdc d f).mem = s.mem := rfl

theorem writeBackByte_wf {s : State} (d p : Nat) (h : Memory.wf s.mem) : Memory.wf (s.writeBackByte d p).mem := by
  unfold State.writeBackByte; split
  · split
    · dsimp only; rw [useL2_mem]; exact putHome_wf _ _ h
    · exact h
  · exact h

theorem writeBackRdc_wf {s : State} (d : Nat) (f : Nat → Bool) (h : Memory.wf s.mem) : Memory.wf (s.writeBackRdc d f).mem :=
  foldl_keeps (fun u : State => Memory.wf u.mem) _ (fun _ p hu => writeBackByte_wf d p hu) _ s h

theorem useRdc_wf {s : State} (d line ret cidx : Nat) (h : Memory.wf s.mem) : Memory.wf (s.useRdc d line ret cidx).2.mem :=
  allocate_wf _ _ _ _ (fun u _ hu => by dsimp only; rw [dropCleanRdc_mem]; exact writeBackRdc_wf (s := u) _ _ hu) h

theorem putBelow_wf {s : State} (d p : Nat) (v : Byte) (ret cidx : Nat) (h : Memory.wf s.mem) :
    Memory.wf (s.putBelow d p v ret cidx).mem := by
  unfold State.putBelow; split
  · dsimp only
    split
    · exact useRdc_wf _ _ _ _ h
    · rw [useL2_mem]; exact putHome_wf _ _ (useRdc_wf _ _ _ _ h)
  · rw [useL2_mem]; exact putHome_wf _ _ h

theorem fillBelow_mem (s : State) (d p : Nat) : (s.fillBelow d p).mem = s.mem := by
  unfold State.fillBelow; split
  · split
    · rfl
    · split <;> rfl
  · rfl

/-! ### The SC order's places -/

theorem raiseClock_mem (s : State) (c : Nat) (t : BitVec 48) : (s.raiseClock c t).mem = s.mem := by
  unfold State.raiseClock; split <;> rfl

theorem reply_mem (s : State) (c : Nat) (p : ScPlace) : (s.reply c p).mem = s.mem := raiseClock_mem ..

theorem setGreatest_mem (s : State) (p : ScPlace) (x : ScTime) : (s.setGreatest p x).mem = s.mem := by cases p <;> rfl

theorem foldl_setGreatest_mem (ps : List ScPlace) (x : ScTime) :
    ∀ s : State, (ps.foldl (fun u p => u.setGreatest p x) s).mem = s.mem := by
  induction ps with
  | nil => intro s; rfl
  | cons p r ih => intro s; rw [List.foldl_cons, ih, setGreatest_mem]

theorem scTick_mem (s : State) (c : Nat) (ps seen : List ScPlace) : (s.scTick c ps seen).mem = s.mem := by
  unfold State.scTick; dsimp only; rw [foldl_setGreatest_mem]; rfl

/-! ### Releases and acquires -/

theorem forwardByte_wf {s : State} (c p : Nat) (h : Memory.wf s.mem) : Memory.wf (s.forwardByte c p).mem := by
  unfold State.forwardByte; split
  · split
    · dsimp only; rw [reply_mem]; exact putBelow_wf _ _ _ _ _ h
    · exact h
  · exact h

theorem forwardL1_wf {s : State} (c : Nat) (f : Nat → Bool) (h : Memory.wf s.mem) : Memory.wf (s.forwardL1 c f).mem :=
  foldl_keeps (fun u : State => Memory.wf u.mem) _ (fun _ p hu => forwardByte_wf c p hu) _ s h

theorem useL1_wf {s : State} (c line ret cidx : Nat) (pin : Bool) (h : Memory.wf s.mem) :
    Memory.wf (s.useL1 c line ret cidx pin).2.mem :=
  allocate_wf _ _ _ _ (fun u _ hu => by dsimp only; rw [dropCleanL1_mem]; exact forwardL1_wf (s := u) _ _ hu) h

theorem spadWrite_mem (s : State) (b off : Nat) (bs : List Byte) : (spadWrite s b off bs).mem = s.mem := by
  unfold spadWrite; split <;> rfl

theorem performPosted_mem (s : State) (f : Posted → Bool) : (s.performPosted f).mem = s.mem := by
  unfold State.performPosted; split
  · rfl
  · have h : ∀ (l : List Posted) (u : State), (l.foldl (fun u x => spadWrite u x.block x.off x.bytes) u).mem = u.mem := by
      intro l
      induction l with
      | nil => intro u; rfl
      | cons x r ih => intro u; rw [List.foldl_cons, ih, spadWrite_mem]
    exact h _ _

theorem releaseIn_wf {s : State} (c : Nat) (sc : Scope) (z : Nat → Bool) (h : Memory.wf s.mem) :
    Memory.wf (s.releaseIn c sc z).mem := by
  have h1 : Memory.wf (if sc.leavesCore then (s.performPosted fun x => x.core = c).forwardL1 c (fun _ => true) else s).mem := by
    split
    · exact forwardL1_wf _ _ (by rw [performPosted_mem]; exact h)
    · exact h
  unfold State.releaseIn
  dsimp only
  split
  · exact writeBackRdc_wf _ _ h1
  · exact h1

theorem acquireIn_mem (s : State) (c : Nat) (sc : Scope) (z : Nat → Bool) : (s.acquireIn c sc z).mem = s.mem := by
  unfold State.acquireIn; dsimp only; split <;> split <;> rfl

theorem release_wf {s : State} (c : Nat) (sc : Scope) (h : Memory.wf s.mem) : Memory.wf (s.release c sc).mem :=
  releaseIn_wf c sc _ h

theorem acquire_mem (s : State) (c : Nat) (sc : Scope) : (s.acquire c sc).mem = s.mem := acquireIn_mem s c sc _

theorem before_wf {s : State} (c o : Nat) (sc : Scope) (ps seen : List ScPlace) (h : Memory.wf s.mem) :
    Memory.wf (s.before c o sc ps seen).mem := by
  have h1 : Memory.wf (if o = 3 then s.scTick c ps seen else s).mem := by
    split
    · rw [scTick_mem]; exact h
    · exact h
  unfold State.before; dsimp only
  split
  · exact release_wf _ _ h1
  · exact h1

theorem after_mem (s : State) (c o : Nat) (sc : Scope) : (s.after c o sc).mem = s.mem := by
  unfold State.after; split
  · exact acquire_mem _ _ _
  · rfl

/-! ### Accesses -/

theorem prepare_wf {s : State} (c p : Nat) (pl : Place) (h : Memory.wf s.mem) : Memory.wf (s.prepare c p pl).mem := by
  unfold State.prepare
  split
  · exact h
  · rw [dropCleanL1_mem]; exact forwardL1_wf _ _ h
  · dsimp only
    split
    · rw [purgeRdc_mem, dropCleanRdc_mem]; exact writeBackRdc_wf _ _ (by rw [dropCleanL1_mem]; exact forwardL1_wf _ _ h)
    · rw [dropCleanL1_mem]; exact forwardL1_wf _ _ h

theorem fill_mem (s : State) (c p : Nat) (pl : Place) : (s.fill c p pl).mem = s.mem := by
  unfold State.fill
  split
  · split
    · rfl
    · simp [fillBelow_mem]
  · exact fillBelow_mem _ _ _
  · rfl

theorem putAt_wf {s : State} (c p : Nat) (pl : Place) (k : Cls) (v : Byte) (h : Memory.wf s.mem) :
    Memory.wf (s.putAt c p pl k v).mem := by
  unfold State.putAt
  split
  · exact h
  · exact putBelow_wf _ _ _ _ _ h
  · exact putHome_wf _ _ h

theorem useBelow_wf {s : State} (c p n : Nat) (pl : Place) (k : Cls) (load : Bool) (h : Memory.wf s.mem) :
    Memory.wf (s.useBelow c p n pl k load).mem := by
  unfold State.useBelow
  dsimp only
  split
  · split
    · rw [reply_mem, useL2_mem]; exact h
    · rw [reply_mem]; split
      · exact useRdc_wf _ _ _ _ h
      · rw [useL2_mem]; exact useRdc_wf _ _ _ _ h
  · rw [reply_mem, useL2_mem]; exact h

theorem approach_wf {s : State} (c p n : Nat) (pl : Place) (k : Cls) (load : Bool) (h : Memory.wf s.mem) :
    Memory.wf (s.approach c p n pl k load).mem := by
  unfold State.approach
  dsimp only
  generalize hu : (if pl = .l1 ∧ (k.noL1 = false ∨ s.holds (.l1 c) (lineOf p) = true) then
    (s.useL1 c (lineOf p) k.ret k.cidx).2 else s) = u
  have h1 : Memory.wf u.mem := by
    subst hu; split
    · exact useL1_wf _ _ _ _ _ h
    · exact h
  split
  · exact h1
  · exact useBelow_wf _ _ _ _ _ _ h1

/-- A fold of steps that each leave memory as it is leaves it. -/
theorem foldl_mem {τ : Type} (g : State → τ → State) (hg : ∀ u x, (g u x).mem = u.mem) (s : State) (l : List τ) :
    (l.foldl g s).mem = s.mem :=
  foldl_keeps (fun u : State => u.mem = s.mem) g (fun u x h => (hg u x).trans h) l s rfl

theorem fetchBelow_mem (s : State) (d p q n : Nat) : (s.fetchBelow d p q n).mem = s.mem := by
  unfold State.fetchBelow; split
  · split
    · rw [foldl_mem _ (fun u x => fillBelow_mem u d x), dropCleanRdc_mem]
    · rfl
  · rfl

theorem fetchUnit_mem (s : State) (c p : Nat) (pl : Place) (q n : Nat) : (s.fetchUnit c p pl q n).mem = s.mem := by
  unfold State.fetchUnit; split
  · split
    · rw [foldl_mem _ (fun u x => fill_mem u c x .l1), dropCleanL1_mem, fetchBelow_mem]
    · rfl
  · exact fetchBelow_mem ..
  · rfl

theorem readyUnits_wf {s : State} (c : Nat) (pl : Place) (p n : Nat) (h : Memory.wf s.mem) :
    Memory.wf (s.readyUnits c pl p n).mem :=
  foldl_keeps (fun u : State => Memory.wf u.mem) _ (fun _ q hu => by rw [fetchUnit_mem]; exact prepare_wf c q _ hu) _ s h

theorem writeAt_wf (c : Nat) (pl : Place) (k : Cls) (bs : List Byte) :
    ∀ {s : State} (p : Nat), Memory.wf s.mem → Memory.wf (s.writeAt c pl k p bs).mem := by
  induction bs with
  | nil => intro s p h; exact h
  | cons b r ih =>
    intro s p h
    unfold State.writeAt
    exact ih (p + 1) (putAt_wf c p _ k b (prepare_wf c p _ h))

/-- A load keeps the canonical form. -/
theorem loadBytes_wf (c : Nat) (pl : Place) (k : Cls) (n : Nat) {s : State} (p : Nat) (h : Memory.wf s.mem) :
    Memory.wf (s.loadBytes c pl k p n).2.mem :=
  readyUnits_wf c pl p n (approach_wf c p n pl k true h)

/-- A store keeps the canonical form. -/
theorem storeBytes_wf (c : Nat) (pl : Place) (k : Cls) (bs : List Byte) {s : State} (p : Nat) (h : Memory.wf s.mem) :
    Memory.wf (s.storeBytes c pl k p bs).mem :=
  writeAt_wf c pl k bs p (approach_wf c p bs.length pl k false h)

theorem setPteBit_wf {s : State} (a b p : Nat) (h : Memory.wf s.mem) : Memory.wf (s.setPteBit a b p).mem := by
  unfold State.setPteBit; dsimp only; split
  · exact putHome64_wf _ _ h
  · exact h

theorem setTlb_mem (s : State) (b : TlbAt) (l : List TlbEnt) : (s.setTlb b l).mem = s.mem := by
  cases b <;> rfl

theorem replyTo_mem (s : State) (b : TlbAt) (p : Nat) : (s.replyTo b p).mem = s.mem := by
  cases b <;> first | exact reply_mem .. | rfl

theorem cacheEntry_wf {s : State} (b : TlbAt) (e : TlbEnt) (h : Memory.wf s.mem) : Memory.wf (s.cacheEntry b e).mem := by
  unfold State.cacheEntry; dsimp only
  rw [setTlb_mem]
  exact foldl_keeps (fun u : State => Memory.wf u.mem) _ (fun _ p hu => by rw [replyTo_mem]; exact setPteBit_wf _ _ _ hu) _ s h

theorem dirtyEntry_wf {s : State} (b : TlbAt) (e : TlbEnt) (h : Memory.wf s.mem) : Memory.wf (s.dirtyEntry b e).mem := by
  unfold State.dirtyEntry; dsimp only
  split
  · exact h
  · split
    · rw [setTlb_mem, replyTo_mem]; exact setPteBit_wf _ _ _ h
    · exact h

/-- What a translation leaves keeps the canonical form. -/
theorem touch_wf {s : State} (b : TlbAt) (acc : Acc) (x : Xlat) (h : Memory.wf s.mem) : Memory.wf (s.touch b acc x).mem := by
  unfold State.touch
  split
  · dsimp only
    split
    · apply dirtyEntry_wf; split
      · exact h
      · exact cacheEntry_wf _ _ h
    · split
      · exact h
      · exact cacheEntry_wf _ _ h
  · exact h

theorem writePieces_wf (ps : List (Nat × Nat)) :
    ∀ {s : State} (bs : List Byte), Memory.wf s.mem → Memory.wf (writePieces s bs ps).mem := by
  induction ps with
  | nil => intro s bs h; exact h
  | cons x r ih => obtain ⟨p, n⟩ := x; intro s bs h; exact ih _ (putHomes_wf _ p h)

/-! ### Reads after writes at home -/

theorem homeByte_putHome (s : State) (p q : Nat) (v : Byte) :
    (s.putHome p v).homeByte q = if q = p then v else s.homeByte q := by
  simp [State.homeByte, State.putHome, tget_tset]

theorem homeByte_putHomes (bs : List Byte) : ∀ (s : State) (p q : Nat),
    (s.putHomes p bs).homeByte q = if p ≤ q ∧ q < p + bs.length then bs.getD (q - p) 0 else s.homeByte q := by
  induction bs with
  | nil =>
    intro s p q
    have : ¬(p ≤ q ∧ q < p + ([] : List Byte).length) := by simp
    simp only [this, if_false]; rfl
  | cons b r ih =>
    intro s p q
    simp only [State.putHomes, ih, homeByte_putHome]
    by_cases h1 : q = p
    · subst h1
      simp [show ¬(q + 1 ≤ q) by omega]
    · by_cases h2 : p + 1 ≤ q ∧ q < p + 1 + r.length
      · have h3 : p ≤ q ∧ q < p + (b :: r).length := by simp; omega
        have h4 : q - p = (q - (p + 1)) + 1 := by omega
        simp only [h2, h3, and_self, if_true, h4, List.getD_cons_succ]
      · have h3 : ¬(p ≤ q ∧ q < p + (b :: r).length) := by simp at h2 ⊢; omega
        simp only [h2, h3, if_false, h1]

/-- Where `firstPoison` finds nothing, no byte stands in a poisoned line; else it gives the first byte that does. -/
theorem firstPoison_spec (s : State) (p n : Nat) :
    match firstPoison s p n with
    | none => ∀ i, i < n → s.poisoned (p + i) = false
    | some j => j < n ∧ s.poisoned (p + j) = true ∧ ∀ i, i < j → s.poisoned (p + i) = false := by
  have at' (i : Nat) : lineOf (p + i) = lineOf p + (p % 128 + i) / 128 := by unfold lineOf; omega
  unfold firstPoison State.poisoned
  simp only
  generalize hk : (if n = 0 then 0 else (p % 128 + n + 127) / 128) = k
  have ink (i : Nat) (h : i < n) : (p % 128 + i) / 128 < k := by split at hk <;> omega
  cases h : (List.range k).find? fun i => s.badLines.contains (lineOf p + i) with
  | none =>
    intro i hi
    have := List.find?_eq_none.mp h _ (List.mem_range.mpr (ink i hi))
    rw [at']; simpa using this
  | some l =>
    obtain ⟨hl, hb, hall⟩ := List.find?_range_eq_some.mp h
    have first (i : Nat) (h : (p % 128 + i) / 128 < l) : s.badLines.contains (lineOf (p + i)) = false := by
      rw [at']; simpa using hall _ h
    have hb := List.mem_range.mp hb
    dsimp only [Option.map]
    refine ⟨by split at hk <;> omega, ?_, fun i hi => first i (by omega)⟩
    rw [at', show (p % 128 + (128 * l - p % 128)) / 128 = l by omega]; exact hl

end Sys2Proof.Machine
end

