-- ==== Sys2Proof/Tests/Slice0.lean ====
section
/-!
SUPPORT. Tests of the model: ill-formed terms that the check refuses, words of the spec that decode, one word of every row that
completes, results that the spec works out, and states and operands that meet the hypotheses of the obligations. Every test is of
one step.
-/

open Sys2Proof Sys2Proof.Machine

namespace Sys2Proof.Tests

set_option Elab.async false

/-! ### Small states -/

/-- A package in which the agent that runs an opcode is the one that moves. -/
def stand (opc : Nat) : State :=
  { State.reset.withFetchWord 96 (opc * 2 ^ 88) with cur := agentFor opc, agenda := [] }

/-- A state whose moving agent has changed. -/
def me (g : Thread → Thread) (s : State) : State := s.modThread s.cur g

def setS (n : Nat) (v : Dword) (s : State) : State := me (fun t => t.setS n v) s
def setV (n l : Nat) (v : Word) (s : State) : State := me (fun t => t.setV n l v) s
def fillV (n : Nat) (v : Nat → Word) (s : State) : State := me (fun t => (List.range 32).foldl (fun u l => u.setV n l (v l)) t) s
def setP (n : Nat) (m : Mask) (s : State) : State := me (fun t => t.setP n (BitVec.allOnes 64) m) s
def lanes (m : Mask) (s : State) : State := me (fun t => { t with exm := m }) s
/-- The moving group is in a handler. -/
def handler (s : State) : State := me (fun t => { t with gst := t.gst ||| 0x80000000 }) s
def onBlock (g : Block → Block) (s : State) : State := (s.block? 0).elim s fun k => s.setBlock 0 (g k)
def onCore (c : Nat) (g : Core → Core) (s : State) : State := s.setCore c (g (s.core c))
def onDie (d : Nat) (g : Die → Die) (s : State) : State := s.setDie d (g (s.die d))

/-- How an instruction ends for its agent: past its word, at another pc, on a trap with its detail and cause detail, in a wait,
gone, or in a fault or refusal. -/
inductive End where
  | past | goes (pc : Nat) | trap (cause detail cdetail : Nat) | waits (w : Wait) | gone | odd
  deriving DecidableEq, Repr

def endOf (i : Instr) (s : State) : End :=
  match exec i s with
  | .next u =>
    match s.thread? s.cur, u.thread? s.cur with
    | some t, some v =>
      if v.wait = .fault ∨ v.wait = .kern then .trap v.cause.toNat v.detail.toNat v.cdetail.toNat
      else if v.wait ≠ .none then .waits v.wait
      else if v.pc = t.pc + 12 then .past else .goes v.pc.toNat
    | _, _ => .gone
  | _ => .odd

/-- A value of the state after an instruction. -/
def after {α : Type} (i : Instr) (s : State) (g : State → α) : Option α :=
  match exec i s with
  | .next u => some (g u)
  | _ => none

/-- A value of the moving agent's registers after an instruction. -/
def regs {α : Type} (i : Instr) (s : State) (g : Thread → α) : Option α :=
  (after i s fun u => (u.thread? s.cur).map g).join

/-- The word issues normally: the checkable form of `Runs` and `NoLate`. -/
def issues (opc : Nat) (f : Fields) (s : State) : Bool :=
  match s.thread? s.cur with
  | some t =>
    match entry opc f s s.cur t with
    | .runs e _ => e.bad = 0 && e.t.late?.isNone
    | _ => false
  | none => false

theorem issues_runs {opc f s} (h : issues opc f s = true) : ∃ e ports, Runs opc f s e ports ∧ NoLate e := by
  unfold issues at h
  split at h
  · rename_i t ht
    split at h
    · rename_i e p he
      simp only [Bool.and_eq_true, decide_eq_true_eq, Option.isNone_iff_eq_none] at h
      exact ⟨e, p, ⟨t, ht, he, h.1⟩, h.2⟩
    · exact absurd h (by simp)
  · exact absurd h (by simp)

/-- The environment in which a word runs. -/
def envOf (opc : Nat) (f : Fields) (s : State) : Option Env :=
  match s.thread? s.cur with
  | some t =>
    match entry opc f s s.cur t with
    | .runs e _ => some e
    | _ => none
  | none => none

/-- A word decodes, issues normally where its agent stands at it, and goes on past it. -/
def completes (w : BitVec 96) : Bool :=
  match decodeWord w, fieldsOf w with
  | .ok i, some f => issues (opcodeOf w) f (stand (opcodeOf w)) && endOf i (stand (opcodeOf w)) = .past
  | _, _ => false

/-! ### Ill-formed instructions -/

/-- One ill-formed term for each check of a field: a reserved type, a count past the entry's, an immediate too wide for the type,
two immediates, a destination of a wrong kind, an odd pair, a third operand that is no predicate, an `FN` that the row lacks, a hint
where none is allowed, and another row's opcode. -/
theorem test_illFormed :
    ([.fadd (plain 15 (.v 1) (.v 2) (.v 3) 0x28 0),
      .iadd (plain 15 (.v 1) (.v 2) (.v 3) 1 0),
      .iadd (plain 15 (.v 1) (.v 2) .immS 0x20 0x12345),
      .iadd (plain 15 (.v 1) .immS .immS 0 0),
      .iadd (plain 15 (.p 1) (.v 2) (.v 3) 0 0),
      .iadd (plain 15 (.v 1) (.v 2) (.v 4) 0x10 0),
      .sel (plain 15 (.v 1) (.v 2) (.v 3) 0 4),
      .icmp { plain 15 (.p 1) (.v 2) (.v 3) 0 0 with fn := 6 },
      .nop { plain 15 .absent .absent .absent 0 0 with la := 1 },
      .pxfer { plain 15 (.s 10) (.s 2) (.s 9) 0 0 with la := 1 },
      .iadd (plain 15 (.s 1) (.v 2) (.s 3) 0 0),
      .split { plain 3 (.s 1) (.p 2) .absent 0 0 with gn := true },
      .pcurSt (plain 15 (.s 1) .absent .absent 0 0),
      .mma (plain 15 (.t 4) (.t 1) (.v 2) 0 0),
      .reservedOpcode 0] : List Instr).all (fun i => !i.wf) = true := by decide +kernel

/-- A well-formed term beside each of them. -/
theorem test_wellFormed :
    ([.fadd (plain 15 (.v 1) (.v 2) (.v 3) 0x10 0), .iadd (plain 15 (.v 1) (.v 2) .immS 0x20 0x7FFF),
      .iadd (plain 15 (.v 2) (.v 4) (.v 6) 0x10 0), .sel (plain 15 (.v 1) (.v 2) (.v 3) 0 0x604),
      .icmp { plain 15 (.p 1) (.v 2) (.v 3) 0 0 with fn := 5 }, .split (plain 15 (.s 1) (.p 2) .absent 0 0),
      .mma (plain 15 (.t 4) (.t 1) (.t 2) 0 0), .reservedOpcode (0x35 <<< 88), .boot, .blockEnd 3] : List Instr).all
        Instr.wf = true := by decide +kernel

/-! ### Words that the spec writes out -/

/-- A word decodes to an instruction. -/
def decodes (w : BitVec 96) (i : Instr) : Bool := (decodeWord w).toOption = some i

/-- R9, R83, R90: integer words, built field by field from the encoding of R9: `?P15 IADD V6, V6, 1`, `ICMP.LT P3, V4, V5`,
`MOVI.HI S6, 0x01234567`. -/
theorem test_decode_integer :
    (decodes 0x00078000600DC00000000001#96 (.iadd (plain 15 (.v 6) (.v 6) .immS 0 1)) &&
      decodes 0x1A2780603008014000000000#96 (.icmp { plain 15 (.p 3) (.v 4) (.v 5) 0 0 with fn := 2 }) &&
      decodes 0x1D1780406E03FFD801234567#96 (.movi { plain 15 (.s 6) .immZ .absent 0x18 0x01234567 with fn := 1 })) = true := by
  decide +kernel

/-- R12 and 01: `?!P3 FFMA.RZ V8, V9, V10, V8` with `KA`, and `FMUL S11, S11, 0.0625`. -/
theorem test_decode_float :
    (decodes 0x230984008012028200000008#96
        (.ffma { plain 3 (.v 8) (.v 9) (.v 10) 2 8 with gn := true, ka := true }) &&
      decodes 0x22078040B817C0403D800000#96 (.fmul (plain 15 (.s 11) (.s 11) .immZ 0 0x3D800000))) = true := by decide +kernel

/-- R103, R105: `VACS2.N16 V40, V10, V11, V12, P4` and `BENC.F8P V41, V40, 4, 0`. -/
theorem test_decode_packed :
    (decodes 0x4A478002801402F00000000C#96 (.vacs2 { plain 15 (.v 40) (.v 10) (.v 11) 0x30 12 with fn := 4 }) &&
      decodes 0x4E0780029051FFE000000004#96 (.benc (plain 15 (.v 41) (.v 40) .absent 0x20 4))) = true := by decide +kernel

/-- R113: `?P2 BRA` to the word itself less 60 and `NOP`. -/
theorem test_decode_control :
    (decodes 0x6101007FFFFFFFC0FFFFFFC4#96 (.bra (plain 2 .absent .absent .absent 0 0xFFFFFFC4)) &&
      decodes 0x6007807FFFFFFFC000000000#96 (.nop (plain 15 .absent .absent .absent 0 0))) = true := by decide +kernel

/-- R130, R131, built from the encoding of R9: `SHFL.IDX V2, V1, V3` and `BALLOT S10, P2`. -/
theorem test_decode_crossLane :
    (decodes 0x80078000200200C000000000#96 (.shfl (plain 15 (.v 2) (.v 1) (.v 3) 0 0)) &&
      decodes 0x83078040AC05FFC000000000#96 (.ballot (plain 15 (.s 10) (.p 2) .absent 0 0))) = true := by decide +kernel

/-- R150, R312, R313: `ST.CORE.REL [S6+0x10], V3`, `ATOM2.CLU V6, [S4+0x10], V7` and `RDCI.WBI S8, 4096`. -/
theorem test_decode_memory :
    (decodes 0xA1278000380DFFCA00000010#96 (.st { plain 15 (.v 3) (.s 6) .absent 0xA 0x10 with fn := 2 }) &&
      decodes 0xA7078000680801D200000010#96 (.atom2 (plain 15 (.v 6) (.s 4) (.v 7) 0x12 0x10)) &&
      decodes 0xAF27807FF811C04000001000#96 (.rdci { plain 15 .absent (.s 8) .immZ 0 0x1000 with fn := 2 })) = true := by
  decide +kernel

/-- R253: `CLENT V10, V12`. -/
theorem test_decode_clause :
    decodes 0xB007807FF014030000000000#96 (.clent (plain 15 .absent (.v 10) (.v 12) 0 0)) = true := by decide +kernel

/-- R203, R206: `MMA T4, T1, T2` and `LRADD T2, T2, T3`. -/
theorem test_decode_matrix :
    (decodes 0xC50780544A83508000000000#96 (.mma (plain 15 (.t 4) (.t 1) (.t 2) 0 0)) &&
      decodes 0xC80780542A8550C000000000#96 (.lradd (plain 15 (.t 2) (.t 2) (.t 3) 0 0))) = true := by decide +kernel

/-- R232, R283: `PXFER.SPAD.MEM S10, S2, S9` and `VIEW.DEPTH.CENTER T5, S4, S5`. -/
theorem test_decode_phraseAndView :
    (decodes 0xD3178040A805024000000000#96 (.pxfer { plain 15 (.s 10) (.s 2) (.s 9) 0 0 with fn := 1 }) &&
      decodes 0xDB078054580901400000000F#96 (.view (plain 15 (.t 5) (.s 4) (.s 5) 0 0xF))) = true := by decide +kernel

/-- R329, R370, R390: `TLBI.VA S4, S5`, `QCTL.SETR S20, S6, S21` and `NSIG S20, S4, S6`. -/
theorem test_decode_package :
    (decodes 0xE007807FF809014000000000#96 (.tlbiVa (plain 15 .absent (.s 4) (.s 5) 0 0)) &&
      decodes 0xE6178041480D054000000000#96 (.qctlSetr { plain 15 (.s 20) (.s 6) (.s 21) 0 0 with fn := 1 }) &&
      decodes 0xE8078041480901800000000F#96 (.nsig (plain 15 (.s 20) (.s 4) (.s 6) 0 0xF))) = true := by decide +kernel

/-! ### One word of each row, which issues normally and goes on

No trap of a flag is enabled in the state where a word stands: with the rows of lanes, these words witness the obligations that say
`RowsComplete`. -/

/-- R83 to R91: `iadd`, `isub`, `imul`, `imulh`, `imad`, `imadw`, `iabs`, `ineg`, `imin`, `imax`, `isad`, `and`, `or`, `xor`,
`andn`, `shl`, `shr`, `sar`, `rot`, `bfx`, `bfi`, `popc`, `clz`, `ctz`, `brev`, `prmb`, `icmp`, `sel`, `mov`, `movi`, `lea`,
`iclmp`. -/
theorem test_integer_complete :
    ([0x00078000C008018000000000, 0x01078000C008018000000000, 0x02078000C008018000000000, 0x03078000C008018000000000,
      0x04078000C008018000000000, 0x05078000C008018000000000, 0x06078000C009FFC000000000, 0x07078000C009FFC000000000,
      0x08078000C008018000000000, 0x09078000C008018000000000, 0x0A078000C008018000000000, 0x0B078000C008018000000000,
      0x0C078000C008018000000000, 0x0D078000C008018000000000, 0x0E078000C008018000000000, 0x0F078000C008018000000000,
      0x10078000C008018000000000, 0x11078000C008018000000000, 0x12078000C008018000000000, 0x13078000C008018000000000,
      0x14078000C008018000000000, 0x15078000C009FFC000000000, 0x16078000C009FFC000000000, 0x17078000C009FFC000000000,
      0x18078000C009FFC000000000, 0x19078000C008018000000000, 0x1A0780603008018000000000, 0x1B078000C008018000000604,
      0x1C078000C009FFC000000000, 0x1D078000CE03FFC000000000, 0x1E078000C008019000000000, 0x1F078000C008018000000000] : List (BitVec 96)).all
      completes = true := by decide +kernel

/-- R93 to R100: `fadd`, `fsub`, `fmul`, `ffma`, `fmin`, `fmax`, `fcmp`, `fclass`, `fdiv`, `fsqrt`, `frcp`, `frsq`, `fexp2`,
`flog2`, `fsin`, `fcos`, `frnd`, `cvt`, `cvtfi`, `cvtif`, `fdot2`. -/
theorem test_float_complete :
    ([0x20078000C008018000000000, 0x21078000C008018000000000, 0x22078000C008018000000000, 0x23078000C008018000000000,
      0x24078000C008018000000000, 0x25078000C008018000000000, 0x260780603008018000000000, 0x27078000C009FFC000000000,
      0x28078000C008018000000000, 0x29078000C009FFC000000000, 0x2A078000C009FFC000000000, 0x2B078000C009FFC000000000,
      0x2C078000C009FFC000000000, 0x2D078000C009FFC000000000, 0x2E078000C009FFC000000000, 0x2F078000C009FFC000000000,
      0x30078000C009FFC000000000, 0x31078000C009FFC000000000, 0x32078000C009FFC000000000, 0x33078000C009FFC000000000,
      0x34078000C008018800000000] : List (BitVec 96)).all
      completes = true := by decide +kernel

/-- R101 to R111: `hadd2`, `hsub2`, `hmul2`, `hfma2`, `hmin2`, `hmax2`, `iadd2`, `isub2`, `imin2`, `imax2`, `vacs2`, `pack2`,
`unpk2`, `bdec`, `benc`, `cbld`, `amax`, `scl`. -/
theorem test_packed_complete :
    ([0x40078000C008018800000000, 0x41078000C008018800000000, 0x42078000C008018800000000, 0x43078000C008018800000000,
      0x44078000C008018800000000, 0x45078000C008018800000000, 0x46078000C00801A800000000, 0x47078000C00801A800000000,
      0x48078000C00801A800000000, 0x49078000C00801A800000000, 0x4A078000C00801A800000000, 0x4B078000C008018800000000,
      0x4C078000C009FFC800000000, 0x4D078000C008018000000000, 0x4E078000C009FFC800000000, 0x500780641009FFC000000000,
      0x51078000C009FFC800000000, 0x52078000C008018000000000] : List (BitVec 96)).all
      completes = true := by decide +kernel

/-- R113 to R128: `nop`, `bra`, `brz`, `call`, `loop`, `exit`, `split`, `pand`, `por`, `pxor`, `pset`, `pmov`, `yield`,
`sleep`, `getsr`, `setsr`, `sysc`. -/
theorem test_control_complete :
    ([0x6007807FFFFFFFC000000000, 0x6107807FFFFFFFC000000000, 0x6307807FF809FFC000000000, 0x640780414FFFFFC000000000,
      0x660780414FFFFFC000000000, 0x6707807FFFFFFFC000000000, 0x680780414C03FFC000000000, 0x6B0780603C03808000000000,
      0x6C0780603C03808000000000, 0x6D0780603C03808000000000, 0x6E0780603809FFC000000000, 0x6F0780414C03FFC000000000,
      0x7007807FFFFFFFC000000000, 0x7107807FF809FFC000000000, 0x720780414D0BFFC000000000, 0x730780690E03FFC00000000F,
      0x75078000C009FFC000000000] : List (BitVec 96)).all
      completes = true := by decide +kernel

/-- R130 to R135: `shfl`, `bcast`, `vote`, `ballot`, `matchLanes`, `gred`, `gscan`, `qxch`, `ddx`, `ddy`, `regrp`. -/
theorem test_crossLane_complete :
    ([0x80078000C008018000000000, 0x810780414009018000000000, 0x820780603C03FFC000000000, 0x830780414C03FFC000000000,
      0x84078000C009FFC000000000, 0x850780414009FFC000000000, 0x86078000C009FFC000000000, 0x87078000C009FFC000000000,
      0x88078000C009FFC000000000, 0x89078000C009FFC000000000, 0x8A078000C009FFC000000000] : List (BitVec 96)).all
      completes = true := by decide +kernel

/-- R152 to R170, R312, R313: `ld`, `st`, `lds`, `sts`, `ldk`, `atom2`, `fence`, `lock`, `unlock`, `bari`,
`bara`, `rdci`. -/
theorem test_memory_complete :
    ([0xA00780414809FFC000000000, 0xA10780414809FFC000000000, 0xA2078000C008018000000000, 0xA30780414809FFC000000000,
      0xA40780641809FFC000000000, 0xA707807FF008018200000000,
      0xA807807FFFFFFFC000000000, 0xA9078000C008018000000000, 0xAA07807FF008018000000000, 0xAC07807FFE03FFC00000000F,
      0xAD07807FFFFFFFC000000000, 0xAF07807FF809018000000000] : List (BitVec 96)).all
      completes = true := by decide +kernel

/-- R253 to R256: `cltry`, `clabtRst`. -/
theorem test_clause_complete :
    ([0xB10780414809018000000000, 0xB317807FF008018000000000] : List (BitVec 96)).all
      completes = true := by decide +kernel

/-- R198 to R200: `tdef`, `tstat`, `trel`. -/
theorem test_tileAndMatrix_complete :
    ([0xC00780543809FFC000000000, 0xC30780414A83FFC000000000, 0xC40780543FFFFFC000000000] : List (BitVec 96)).all
      completes = true := by decide +kernel

/-- R230 to R239, R283 to R286: `phrs`, `bseal`, `bwait`, `pxfer`, `ploop`, `pqpsh`, `parrv`, `pcur`, `pcurSt`, `view`,
`vstat`, `vcan`. -/
theorem test_phraseAndView_complete :
    ([0xCF07807FF809018000000000, 0xD007807FFFFFFFC000000000, 0xD107807FFFFFFFC000000000, 0xD35780414809018000000000,
      0xD61780414809FFC000000000, 0xD74780501809018000000000, 0xD807807FFFFFFFC000000000, 0xDA0780414809FFC000000000,
      0xDA1780414FFFFFC000000000, 0xDB0780543809018000000000, 0xDC0780414A83FFC000000000, 0xDD0780543FFFFFC000000000] : List (BitVec 96)).all
      completes = true := by decide +kernel

/-- R330, R331, R370 to R374, R391: `tlbiVa`, `tlbiAsid`, `tlbiAll`, `tfence`, `fbpop`, `launch`, `join`, `ctxsPart`,
`ctxsFull`, `ctxsRest`, `ctxsRsm`, `nsig`. -/
theorem test_package_complete :
    ([0xE007807FF809018000000000, 0xE017807FF809FFC000000000, 0xE027807FFFFFFFC000000000, 0xE107807FFFFFFFC000000000,
      0xE30780414809018000000000, 0xE40780414009FFC000000000, 0xE507807FF809FFC000000004, 0xE70780414809018000000000,
      0xE71780414809FFC000000000, 0xE72780414809018000000000, 0xE74780414809018000000000, 0xE807807FF808018000000000] : List (BitVec 96)).all
      completes = true := by decide +kernel

/-! ### Words that need more than an empty package -/

/-- A `READY` tile of `D32` elements, one row and one column, with its slots. -/
def oneTile (n : Nat) (s : State) : State :=
  onBlock (fun k => k.setTile n { Tile.blank with st := .ready, sbase := 16 * n, nslot := 16, fmt := .d32, rows := 1, cols := 1 }) s

/-- A tile in the hands of the matrix unit. -/
def busyTile (n : Nat) (s : State) : State := onBlock (fun k => k.setTile n { k.tile n with st := .filling, by' := .matrix }) s

/-- Queue 0 belongs to the context of the group. -/
def ownQueue (st : BitVec 3) (s : State) : State :=
  s.setQueue 0 { s.queue 0 with qcfg := 0x0001000000000004, qstate := st }

/-- The context 1 has a vector base and routes every cause. -/
def vectored (s : State) : State := (s.putHome64 0x5010 0x20000).putHome64 0x5018 0xFFFFFFFF

/-- The word issues normally, no result is outstanding for its trap, and the condition holds where it runs: the checkable form of the
hypotheses of the statements about one word. -/
def meets (opc : Nat) (f : Fields) (s : State) (p : Env → Bool) : Bool :=
  match envOf opc f s with
  | some e => e.bad = 0 && e.t.late?.isNone && p e
  | none => false

/-- A word that meets a condition ends in a way. -/
def ends (opc : Nat) (i : Instr) (s : State) (x : End) : Bool :=
  match instrForm i with
  | some (o, f) => o = opc && issues opc f s && endOf i s = x
  | none => false

/-- An instruction or event leads to a state with a property. -/
def leads (i : Instr) (s : State) (p : State → Bool) : Bool :=
  match exec i s with
  | .next u => p u
  | _ => false

/-- The words of the jumps: R112 to R117. Witness of `BranchWordsMoveThePc`. -/
theorem test_jumps :
    ([ends 0x60 (.nop (plain 15 .absent .absent .absent 0 0)) (stand 0x60) .past,
      ends 0x62 (.brx (plain 15 .absent (.s 4) .absent 0 8)) (setS 4 0x100 (stand 0x62)) (.goes 0x108),
      ends 0x65 (.ret (plain 15 .absent (.s 4) .absent 0 0)) (setS 4 0x200 (stand 0x65)) (.goes 0x200),
      ends 0x61 (.bra (plain 15 .absent .absent .absent 0 0xFFFFFFC4)) (stand 0x61) (.goes 0xFFD0),
      regs (.call (plain 15 (.s 20) .absent .absent 0 0x34)) (stand 0x64) (fun t => (t.pc, t.getS 20)) = some (0x10040, 0x1000C),
      ends 0x66 (.loop (plain 15 (.s 20) .absent .absent 0 0xFFFFFFF4)) (setS 20 2 (stand 0x66)) (.goes 0x10000),
      ends 0x66 (.loop (plain 15 (.s 20) .absent .absent 0 0xFFFFFFF4)) (setS 20 1 (stand 0x66)) .past,
      ends 0x63 (.brz (plain 15 .absent (.s 4) .absent 0 0x54)) (stand 0x63) (.goes 0x10060),
      ends 0x63 (.brz (plain 15 .absent (.s 4) .absent 0 0x54)) (setS 4 1 (stand 0x63)) .past,
      ends 0x63 (.brz (plain 15 .absent (.p 3) .absent 0 0x54)) (stand 0x63) (.goes 0x10060),
      ends 0x63 (.brz (plain 15 .absent (.p 3) .absent 0 0x54)) (setP 3 1 (stand 0x63)) .past] : List Bool).all id = true := by
  decide +kernel

/-- A target that is no multiple of 4 traps `MISALIGN` at the branch: R112. Witness of `BranchWordsMoveThePc`. -/
theorem test_badTargets :
    ([ends 0x61 (.bra (plain 15 .absent .absent .absent 0 2)) (stand 0x61) (.trap cMISALIGN 0 3),
      ends 0x65 (.ret (plain 15 .absent (.s 4) .absent 0 0)) (setS 4 0x202 (stand 0x65)) (.trap cMISALIGN 0 3),
      ends 0x62 (.brx (plain 15 .absent (.s 4) .absent 0 1)) (setS 4 0x200 (stand 0x62)) (.trap cMISALIGN 0 3),
      ends 0x64 (.call (plain 15 (.s 20) .absent .absent 0 2)) (stand 0x64) (.trap cMISALIGN 0 3),
      ends 0x63 (.brz (plain 15 .absent (.s 4) .absent 0 2)) (stand 0x63) (.trap cMISALIGN 0 3),
      ends 0x66 (.loop (plain 15 (.s 20) .absent .absent 0 2)) (stand 0x66) (.trap cMISALIGN 0 3)] : List Bool).all id = true := by
  decide +kernel

/-- Words whose effect is a trap: R126, R127. Witness of `TrapWordsRaiseTheirCauses`. -/
theorem test_trapWords :
    (let sysc (k : BitVec 4) : Instr := .sysc { plain 15 (.v 2) (.v 4) .absent 0 3 with fn := k }
     let small : State := me (fun t => { t with nalloc := 32 }) (stand 0x75)
     [ends 0x74 (.trap (plain 15 .absent .absent .absent 0 7)) (stand 0x74) (.trap cTRAPI 7 0),
      ends 0x76 (.bkpt (plain 15 .absent .absent .absent 0 9)) (stand 0x76) (.trap cBKPT 9 0),
      ends 0x75 (sysc 15) (stand 0x75) (.trap cSYSCALL 3 0),
      ends 0x75 (sysc 2) (stand 0x75) .past,
      ends 0x75 (sysc 15) (handler (stand 0x75)) (.trap cPROT 0 0),
      ends 0x75 (.sysc { plain 15 (.v 2) (.v 1017) .absent 0 3 with fn := 15 }) (stand 0x75) (.trap cREGRANGE 0 1017),
      ends 0x75 (.sysc { plain 15 (.v 32) (.v 24) .absent 0 3 with fn := 15 }) small (.trap cREGRANGE 0 32),
      ends 0x75 (.sysc { plain 15 (.v 32) (.v 28) .absent 0 3 with fn := 2 }) small .past] : List Bool).all id = true := by decide +kernel

/-- A handler that may return: R76, R128. -/
def inHandler (dest m : Dword) : State := setS (xsBase + 1) dest (setS (xsBase + 2) m (handler (stand 0x77)))

/-- `ERET`: to `XS1` with the mask of `XS2` within `LIVE`, `SUP` cleared; the traps of R128. Witness of `EretReturns`. -/
theorem test_eret :
    (let i : Instr := .eret (plain 15 .absent .absent .absent 0 0)
     [ends 0x77 i (inHandler 0x300 5) (.goes 0x300),
      regs i (inHandler 0x300 0xF00000005) (fun t => (t.pc, t.exm, t.sup)) = some (0x300, 5, false),
      ends 0x77 i (inHandler 0x300 0) (.trap cILLOP 0 0),
      ends 0x77 i (inHandler 0x302 5) (.trap cMISALIGN 0 3),
      endOf i (stand 0x77) = .trap cPROT 0 0] : List Bool).all id = true := by decide +kernel

/-- Entry to a handler saves the cause, the pc and the masks, and goes to the base + 256 times the cause: R74. Witness of
`TrapEntersGroupHandler`, on a compute core and on a system core, outside a handler and in one. -/
theorem test_entry :
    (let i : Instr := .trap (plain 15 .absent .absent .absent 0 7)
     let g (t : Thread) := (t.pc, t.getS xsBase, t.getS (xsBase + 1), t.getS (xsBase + 2), t.sup)
     let kern (s : State) : State := lanes 1 (onBlock (fun k => { k with core := systemCore0, physical := true }) s)
     [regs i (vectored (stand 0x74)) g = some (0x20D00, 0x70000000D, 0x1000C, 0xFFFFFFFFFFFFFFFF, true),
      regs i (kern (stand 0x74)) g = some (0xD00, 0x70000000D, 0x1000C, 0x100000001, true),
      regs i (handler (kern (stand 0x74))) (fun t => t.pc) = some 0x4000,
      endOf i (vectored (handler (stand 0x74))) = .trap cTRAPI 7 0,
      endOf (.bkpt (plain 15 .absent .absent .absent 0 9)) (vectored (stand 0x76)) = .trap cBKPT 9 0,
      endOf (.paddr (plain 15 (.s 1) (.s 4) (.s 8) 0 0)) (setS 4 1 (stand 0xD2)) = .trap cMISALIGN 0 0,
      endOf i ((vectored (stand 0x74)).putHome64 0x5010 0x20002) = .trap cMISALIGN 0 3,
      regs i ((vectored (stand 0x74)).putHome64 0x5010 0x20002) (fun t => t.pc) = some 0x10000,
      after i (stand 0x74) (fun s => (s.die 0).fbuf.length) = some 1,
      after (.bkpt (plain 15 .absent .absent .absent 0 9)) (stand 0x76) (fun s => (s.die 0).fbuf.length) = some 0] :
       List Bool).all id = true := by decide +kernel

/-- A matrix stream enters its handler, parks in it, and returns: R192. Witness of `StreamTrapsAndReturns`. -/
theorem test_streamTraps :
    (let s (sup : Bool) : State := { me (fun t => ({ t with msup := sup } : Thread).setS 61 0x300) (stand 0xC5) with cur := .mstream 0 }
     let i : Instr := .trap (plain 15 .absent .absent .absent 0 7)
     let e : Instr := .eret (plain 15 .absent .absent .absent 0 0)
     [regs i (vectored (s false)) (fun t => (t.pc, t.getS 60, t.getS 61, t.getS 62, t.msup)) =
        some (0x22D00, 0x70000000D, 0x1000C, 0, true),
      endOf i (vectored (s true)) = .trap cTRAPI 7 0, regs i (s false) (fun t => t.pc) = some 0x10000,
      after i (s false) (fun u => (u.die 0).fbuf.map fun r => r.agent) = some [1],
      endOf i ((vectored (s false)).putHome64 0x5010 0x20002) = .trap cMISALIGN 0 3,
      endOf (.bkpt (plain 15 .absent .absent .absent 0 9)) (vectored (s false)) = .trap cBKPT 9 0,
      endOf e (s true) = .goes 0x300, issues 0x77 (plain 15 .absent .absent .absent 0 0) (s true),
      endOf e (setS 61 0x301 (s true)) = .trap cMISALIGN 0 3] : List Bool).all id = true := by decide +kernel

/-- A fault buffer takes a record, and a full one holds it: R321, R322. Witness of `FaultBufferHoldsWhenFull`. -/
theorem test_faultBuffer :
    (let r : FaultRec := FaultRec.blank
     let full : State := onDie 3 (fun x => { x with fbuf := List.replicate 4096 r }) State.reset
     [((postFault State.reset 3 r).die 3).fbuf.length = 1, ((postFault State.reset 3 r).die 3).intpend.getLsbD 1,
      ((postFault full 3 r).die 3).held.length = 1, ((postFault full 3 r).die 3).intpend.getLsbD 2,
      ((postFault full 3 r).die 3).fbovf] : List Bool).all id = true := by decide +kernel

/-! ### Masks, predicates and lanes -/

/-- The table of R120, from the mask 0xF: `SPLIT` keeps the lanes with the predicate, `FLIP` the others saved, `MERGE` all; jumps and
traps where a mask would be empty. Witness of `MaskWordsSetMasks`. -/
theorem test_masks :
    (let sp (x : BitVec 32) : Instr := .split (plain 15 (.s 1) (.p 2) .absent 0 x)
     let fl (x : BitVec 32) : Instr := .flip (plain 15 .absent (.s 1) .absent 0 x)
     let me' : Instr := .merge (plain 15 .absent (.s 1) .absent 0 0)
     let on (opc : Nat) (m saved : Mask) : State := setS 1 saved (setP 2 0x5 (lanes m (stand opc)))
     [ends 0x68 (sp 0x24) (on 0x68 0xF 0) .past, regs (sp 0x24) (on 0x68 0xF 0) (fun t => (t.exm, t.getS 1)) = some (5, 0xF),
      ends 0x68 (sp 0x24) (on 0x68 0xA 0) (.goes 0x10030), ends 0x68 (sp 0x22) (on 0x68 0xA 0) (.trap cMISALIGN 0 3),
      ends 0x69 (fl 0x24) (on 0x69 0x5 0xF) .past, regs (fl 0x24) (on 0x69 0x5 0xF) (fun t => t.exm) = some 0xA,
      ends 0x69 (fl 0x24) (on 0x69 0xF 0xF) (.goes 0x10030), ends 0x69 (fl 0x22) (on 0x69 0xF 0xF) (.trap cMISALIGN 0 3),
      ends 0x69 (fl 0x24) (on 0x69 0xF 0x100000000) (.trap cILLOP 0 0),
      ends 0x6A me' (on 0x6A 0x5 0xF) .past, regs me' (on 0x6A 0x5 0xF) (fun t => t.exm) = some 0xF,
      ends 0x6A me' (on 0x6A 0x5 0) (.trap cILLOP 0 0),
      endOf (.split { plain 3 (.s 1) (.p 2) .absent 0 0 with gn := true }) (on 0x68 0xF 0) = .trap cILLOP 0 0] :
       List Bool).all id = true := by decide +kernel

/-- The masks of reset and of a launched group are kept. Witness of `MaskWritersKeepMasks`. -/
theorem test_masksKept : (stand 0x68).masksKept ∧ (stand 0x68).lanesKept := by
  unfold State.masksKept Thread.masksKept State.lanesKept Thread.hasLane
  decide +kernel

/-- `EXIT`: some lanes, all lanes, the saved mask, and its traps: R63, R121, R122, R192, R237. Witness of `ExitLeavesLanes`. -/
theorem test_exit :
    (let ex (gp : BitVec 4) : Instr := .exit (plain gp .absent .absent .absent 0 0)
     let sv (x : BitVec 32) : Instr := .exit { plain 15 .absent (.s 1) .absent 0 x with fn := 1 }
     let s (m : Mask) : State := setP 2 0x1 (lanes m (stand 0x67))
     let ms : State := { stand 0xC5 with cur := .mstream 0 }
     let ap : State := { stand 0xD2 with cur := .phrase 0 0 }
     [ends 0x67 (ex 2) (s 0xF) .past, regs (ex 2) (s 0xF) (fun t => (t.exm, t.live)) = some (0xE, 0xFFFFFFFE),
      issues 0x67 (plain 15 .absent .absent .absent 0 0) (s 0xFFFFFFFF),
      after (ex 15) (s 0xFFFFFFFF) (fun u => (u.thread? u.cur).map (fun t => (t.gstate, t.live))) = some (some (.ended, 0)),
      ends 0x67 (sv 0x24) (setS 1 0xF0 (s 0xF)) (.goes 0x10030),
      regs (sv 0x24) (setS 1 0xFF (s 0xF)) (fun t => (t.exm, t.live)) = some (0xF0, 0xFFFFFFF0),
      ends 0x67 (sv 0x22) (setS 1 0xF0 (s 0xF)) (.trap cMISALIGN 0 3),
      ends 0x67 (sv 0x24) (setS 1 0xF (s 0xF)) (.trap cILLOP 0 0), ends 0x67 (ex 15) (s 0xF) (.trap cILLOP 0 0),
      ends 0x67 (ex 15) (handler (s 0xF)) (.trap cPROT 0 0),
      issues 0x67 (plain 15 .absent .absent .absent 0 0) ms,
      after (ex 15) ms (fun u => (u.block? 0).map (fun k => k.msEnded)) = some (some true),
      issues 0x67 (plain 15 .absent .absent .absent 0 0) ap,
      after (ex 15) ap (fun u => (u.block? 0).map (fun k => k.apEnded)) = some (some true)] : List Bool).all id = true := by
  decide +kernel

/-- Predicate words: R117 to R119's masks in lanes 0 to 3, and a write to `P15`. Witness of `PredicateWords` and of
`PredicateFifteenIsHardWired`. -/
theorem test_predicates :
    (let f (n : BitVec 4) (d : BitVec 4) : Fields := { plain 15 (.p d) (.p 1) (.p 2) 0 0 with fn := n }
     let s (opc : Nat) : State := setP 2 0x5 (setP 1 0x3 (lanes 0xF (stand opc)))
     let low (i : Instr) (opc : Nat) : Option Mask := regs i (s opc) (fun t => t.getP 3 &&& 0xFF)
     [low (.pand (f 0 3)) 0x6B = some 1, low (.pand (f 2 3)) 0x6B = some 2, low (.por (f 0 3)) 0x6C = some 7,
      low (.pxor (f 1 3)) 0x6D = some 0x9, issues 0x6B (f 0 3) (s 0x6B), issues 0x6C (f 0 3) (s 0x6C), issues 0x6D (f 0 3) (s 0x6D),
      regs (.pand (f 0 15)) (s 0x6B) (fun t => t.getP 15) = some (BitVec.allOnes 64),
      low (.pset (plain 15 (.p 3) (.immZ) .absent 0 0x6A)) 0x6E = some 0xA,
      ends 0x6E (.pset (plain 15 (.p 15) (.immZ) .absent 0 0x6A)) (s 0x6E) .past,
      ends 0x1A (.icmp (plain 15 (.p 15) (.v 1) (.v 2) 0 0)) (s 0x1A) .past,
      regs (.pmov (plain 15 (.s 9) (.p 2) .absent 0 0)) (s 0x6F) (fun t => t.getS 9) = some 5,
      issues 0x6F (plain 15 (.s 9) (.p 2) .absent 0 0) (s 0x6F)] : List Bool).all id = true := by decide +kernel

/-- `SLEEP`, `YIELD` and the special registers: R64 to R70, R123 to R125. Witness of `WaitAndSpecialRegisterWords`, and of its traps. -/
theorem test_special :
    (let sl (n : BitVec 32) : Instr := .sleep (plain 15 .absent .immZ .absent 0 n)
     let set (r : BitVec 6) (v : BitVec 32) : Instr := .setsr (plain 15 (.sr r) .immZ .absent 0 v)
     let blk (i : Instr) (g : Block → Word) : Option (Option Word) := after i (stand 0x73) (fun u => (u.block? 0).map g)
     let kern : State := onBlock (fun k => { k with core := systemCore0, physical := true }) (lanes 1 (stand 0x73))
     [ends 0x70 (.yield (plain 15 .absent .absent .absent 0 0)) (stand 0x70) .past,
      ends 0x71 (sl 0) (stand 0x71) .past, ends 0x71 (sl 5) (stand 0x71) (.waits .sleep),
      regs (sl 5) (stand 0x71) (fun t => t.sleep) = some 5, regs (sl 0xFFFFFFFF) (stand 0x71) (fun t => t.sleep) = some 1048576,
      blk (set 0x0A 77) (fun k => k.tol) = some (some 77), blk (set 0x0B 33) (fun k => k.vc) = some (some 32),
      blk (set 0x0B 32) (fun k => k.vc) = some (some 32), blk (set 0x0C 0xFFFFFFFF) (fun k => k.tctl) = some (some 0x1F05),
      ends 0x73 (set 0x10 0x3) (stand 0x73) .past, regs (set 0x10 0x3) (stand 0x73) (fun t => t.exm) = some 3,
      ends 0x73 (set 0x10 0) (stand 0x73) (.trap cILLOP 0 0),
      regs (set 0x13 0xFFFFFFFF) (stand 0x73) (fun t => t.gst) = some 0x001F01FF,
      issues 0x73 (plain 15 (.sr 8) .immZ .absent 0 9) kern, issues 0x73 (plain 15 (.sr 9) .immZ .absent 0 9) kern,
      after (set 9 100) kern (fun u => (u.core systemCore0).progwin) = some 100,
      regs (.getsr (plain 15 (.v 4) (.sr 0x10) .absent 0 0)) (stand 0x72) (fun t => t.getV 4 3) = some 0xFFFFFFFF,
      ends 0x72 (.getsr (plain 15 (.v 4) (.sr 0x10) .absent 0 0)) (stand 0x72) .past,
      ends 0x72 (.getsr (plain 15 (.v 4) (.sr 0x03) .absent 0 0)) (stand 0x72) .past,
      ends 0x72 (.getsr (plain 15 (.v 5) (.sr 0x10) .absent 0 0)) (onBlock (fun k => { k with core := firmwareCore }) (stand 0x72))
        (.trap cILLOP 0 0)] : List Bool).all id = true := by
  decide +kernel

/-! ### Results that the spec works out -/

/-- The value of lane `l` of register `n`, and the flags, after an instruction. -/
def lane (i : Instr) (s : State) (n l : Nat) : Option (Word × BitVec 32) := regs i s (fun t => (t.getV n l, t.gst))

/-- R84, R86, R88, R90: a wrap and a saturation, shifts by the width and more, the permutation that R88 works out, and the halves of
R90. -/
theorem test_integerResults :
    (let two (opc : Nat) (a b : Word) : State := setV 2 3 b (setV 1 3 a (stand opc))
     let f (mod : BitVec 6) : Fields := plain 15 (.v 4) (.v 1) (.v 2) mod 0
     [lane (.iadd (f 0)) (two 0 0x7FFFFFFF 1) 4 3 = some (0x80000000, 0),
      lane (.iadd (f 4)) (two 0 0x7FFFFFFF 1) 4 3 = some (0x7FFFFFFF, fSATF),
      lane (.shl (f 0)) (two 0x0F 5 32) 4 3 = some (0, 0), lane (.sar (f 0)) (two 0x11 0x80000000 99) 4 3 = some (0xFFFFFFFF, 0),
      lane (.rot (f 0)) (two 0x12 0x80000001 33) 4 3 = some (3, 0),
      lane (.imulh (f 0)) (two 3 0xFFFFFFFF 2) 4 3 = some (0xFFFFFFFF, 0),
      lane (.prmb { f 0 with x := 3 }) (setV 3 3 0x2F1A0805 (two 0x19 0x44332211 0x88776655)) 4 3 = some (0xFFCC0066, 0),
      regs (.movi { plain 15 (.s 6) .immZ .absent 0x18 0x01234567 with fn := 1 }) (setS 6 0x1111111189ABCDEF (stand 0x1D))
        (fun t => t.getS 6) = some 0x0123456789ABCDEF,
      regs (.movi (plain 15 (.s 6) .immZ .absent 0x18 0x89ABCDEF)) (setS 6 0x0123456711111111 (stand 0x1D)) (fun t => t.getS 6) =
        some 0x0123456789ABCDEF] : List Bool).all id = true := by decide +kernel

/-- R93 to R99: the sum of R93's rounding, a division by zero and of zeros, the root of a negative number, and conversions. -/
theorem test_floatResults :
    (let two (opc : Nat) (a b : Word) : State := lanes 8 (setV 2 3 b (setV 1 3 a (stand opc)))
     let f : Fields := plain 15 (.v 4) (.v 1) (.v 2) 0 0
     let u : Fields := plain 15 (.v 4) (.v 1) .absent 0 0
     [lane (.fadd f) (two 0x20 0x3F800000 0x33800000) 4 3 = some (0x3F800000, fIX),
      lane (.fsub f) (two 0x21 0x7F800000 0x7F800000) 4 3 = some (0x7FC00000, fIV),
      lane (.fdiv f) (two 0x28 0x3F800000 0x80000000) 4 3 = some (0xFF800000, fDZ),
      lane (.fdiv f) (two 0x28 0 0) 4 3 = some (0x7FC00000, fIV),
      lane (.fsqrt u) (two 0x29 0xBF800000 0) 4 3 = some (0x7FC00000, fIV), lane (.fsqrt u) (two 0x29 0x40800000 0) 4 3 = some (0x40000000, 0),
      lane (.frcp u) (two 0x2A 0x40800000 0) 4 3 = some (0x3E800000, 0), lane (.fexp2 u) (two 0x2C 0xC0000000 0) 4 3 = some (0x3E800000, 0),
      lane (.flog2 u) (two 0x2D 0x41000000 0) 4 3 = some (0x40400000, 0)] : List Bool).all id = true := by decide +kernel

/-- A word that raises an enabled flag traps `FPEXC` in the lanes that would raise it: R70. Witness of `EnabledFlagsTrap`. -/
theorem test_enabledFlags :
    (let on (s : State) : State := me (fun t => { t with gst := 0x001F0000 }) s
     let two (opc : Nat) (a b : Word) : State := on (setV 2 3 b (setV 1 3 a (stand opc)))
     let f : Fields := plain 15 (.v 4) (.v 1) (.v 2) 0 0
     [ends 0x28 (.fdiv f) (lanes 0xC (setV 2 2 0x3F800000 (two 0x28 0x3F800000 0))) (.trap cFPEXC 0 fDZ.toNat),
      after (.fdiv f) (lanes 0xC (setV 2 2 0x3F800000 (two 0x28 0x3F800000 0)))
        (fun s => (s.thread? s.cur).map (fun t => (t.tlanes, t.gst))) = some (some (8, 0x001F0000)),
      ends 0x2B (.frsq (plain 15 (.v 4) (.v 1) .absent 0 0)) (lanes 8 (two 0x2B 0xBF800000 0)) (.trap cFPEXC 0 fIV.toNat),
      ends 0x40 (.hadd2 { f with mod := 0x10 }) (lanes 8 (two 0x40 0x7C007C00 0xFC003C00)) (.trap cFPEXC 0 fIV.toNat)] :
       List Bool).all id = true := by decide +kernel

/-- The packed results of R102 and R103. Witness of `PackedWordsComplete`. -/
theorem test_packedResults :
    (let two (opc : Nat) (a b : Word) : State := setV 5 3 b (setV 4 3 a (stand opc))
     let f (n : BitVec 4) (mod : BitVec 6) : Fields := { plain 15 (.v 3) (.v 4) (.v 5) mod 0 with fn := n }
     let v : Fields := { plain 15 (.v 40) (.v 10) (.v 11) 0x30 12 with fn := 4 }
     let s : State := fillV 12 (fun _ => 0x00020000) (fillV 11 (fun _ => 0x00020002) (fillV 10 (fun _ => 0x00030003) (lanes 3 (stand 0x4A))))
     [lane (.iadd2 (f 1 0x30)) (two 0x46 0xFFF00001 0x00200002) 3 3 = some (0xFFFF0003, fSATF),
      lane (.iadd2 (f 2 0x28)) (two 0x46 0x00050010 0x01000020) 3 3 = some (0x00250110, 0),
      issues 0x4A v s,
      regs (.vacs2 v) s (fun t => (t.getV 40 1, (t.getP 4).getLsbD 1, (t.getP 5).getLsbD 1)) = some (0x00020003, false, true)] :
       List Bool).all id = true := by decide +kernel

/-- The block that R111 works out: lanes 0 to 3 hold 3.0, −0.75, 100.0 and 0.1. -/
def fourValues (opc : Nat) : State :=
  setV 40 0 0x40400000 (setV 40 1 0xBF400000 (setV 40 2 0x42C80000 (setV 40 3 0x3DCCCCCD (fillV 2 (fun _ => 2) (stand opc)))))

/-- That block encoded, in `V41`. -/
def encoded (opc : Nat) : State := setV 41 0 0x04007E04 (setV 41 1 0x2D7CC454 (fourValues opc))

/-- The round trip of R111. -/
theorem test_blockRoundTrip :
    (let benc : Instr := .benc (plain 15 (.v 41) (.v 40) .absent 0x20 4)
     let bdec : Instr := .bdec (plain 15 (.v 42) (.v 41) (.v 2) 0 0)
     [lane benc (lanes 3 (fourValues 0x4E)) 41 0 = some (0x04007E04, fIX), lane benc (lanes 3 (fourValues 0x4E)) 41 1 = some (0x2D7CC454, fIX),
      lane benc (lanes 0x10000 (fourValues 0x4E)) 41 16 = some (0, 0),
      lane bdec (lanes 0x10008 (encoded 0x4D)) 42 3 = some (0x42C00000, 0), lane bdec (lanes 0x10008 (encoded 0x4D)) 42 16 = some (0, 0)] :
       List Bool).all id = true := by decide +kernel

/-- The words on blocks, and their traps: R105 to R111. Witness of `BlockWordsComplete`. -/
theorem test_blockWords :
    (let bdec : Instr := .bdec (plain 15 (.v 42) (.v 41) (.v 2) 0 0)
     let reqb (m : BitVec 6) (sc : BitVec 32) : Instr := .reqb (plain 15 (.v 42) (.v 41) .immZ m sc)
     let one (opc : Nat) : State := lanes 1 (encoded opc)
     let c4 : State := setV 41 0 0x04007E05 (one 0x4F)
     let half : Instr := .bdec (plain 15 (.v 42) (.v 41) (.v 2) 0x10 0)
     let mixed (opc : Nat) : State := lanes 0x10001 (setV 41 16 0x04007E08 (setV 41 0 0x0400C804 (encoded opc)))
     let enabled (s : State) : State := me (fun t => { t with gst := 0x001F0000 }) s
     [ends 0x4D bdec (one 0x4D) .past, ends 0x4D bdec (setV 41 0 0x04007E08 (one 0x4D)) (.trap cBLKFMT 0 0),
      ends 0x4F (reqb 0 126) (one 0x4F) .past, ends 0x4F (reqb 0 1) (one 0x4F) .past, ends 0x4F (reqb 0 254) (one 0x4F) .past,
      ends 0x4F (reqb 0 0) (one 0x4F) (.trap cBLKFMT 0 0), ends 0x4F (reqb 0 255) (one 0x4F) (.trap cBLKFMT 0 0),
      ends 0x4F (reqb 2 126) c4 (.trap cILLOP 0 0), ends 0x4F (reqb 0 126) (mixed 0x4F) (.trap cBLKFMT 0 0),
      endOf (reqb 0 1) (enabled (mixed 0x4F)) = .trap cFPEXC 0 (fOF ||| fIX).toNat,
      regs (reqb 0 1) (enabled (mixed 0x4F)) (fun t => t.tlanes) = some 1,
      endOf half (enabled (mixed 0x4D)) = .trap cFPEXC 0 (fOF ||| fIX).toNat, regs half (enabled (mixed 0x4D)) (fun t => t.tlanes) = some 1,
      ends 0x50 (.cbld (plain 15 (.k 1) (.v 41) .absent 0 0)) (encoded 0x50) .past,
      regs (.cbld (plain 15 (.k 1) (.v 41) .absent 0 0)) (encoded 0x50) (fun t => (t.getK 1 0, t.getK 1 1, t.getK 1 2)) =
        some (0x7E04, 0x0400, 0xC454),
      issues 0x51 (plain 15 (.v 41) (.v 40) .absent 0x20 4) (fourValues 0x51), issues 0x52 (plain 15 (.v 41) (.v 40) .immS 0 3) (fourValues 0x52),
      lane (.scl (plain 15 (.v 41) (.v 40) .immS 0 3)) (fourValues 0x52) 41 0 = some (0x41C00000, 0)] : List Bool).all id = true := by
  decide +kernel

/-- The group of R131: `LIVE` = 0x00FFFFBF, `EXM` = 0xF, `V1` = 100 + l, `V3` the indices, `P2` in lanes 2, 3 and 5. -/
def voters (opc : Nat) : State :=
  setP 2 0x2C (setV 3 0 5 (setV 3 1 6 (setV 3 2 27 (setV 3 3 3 (fillV 1 (fun l => BitVec.ofNat 32 (100 + l))
    (me (fun t => { t with live := 0x00FFFFBF, exm := 0xF }) (stand opc)))))))

/-- Cross-lane results of R131 to R134. -/
theorem test_crossLane :
    (let shfl : Instr := .shfl (plain 15 (.v 2) (.v 1) (.v 3) 0 0)
     let scan (opc : Nat) : State := setV 4 0 0x3F800000 (setV 4 1 0x33800000 (setV 4 2 0x33800000 (setV 4 3 0x3F800000 (lanes 0xF (stand opc)))))
     let quad (opc : Nat) (live : Mask) : State :=
       setV 3 0 0x3F800000 (setV 3 1 0x40800000 (setV 3 2 0x40000000 (setV 3 3 0x41000000
         (me (fun t => { t with live := live, exm := live &&& 0xF }) (stand opc)))))
     let q (i : Instr) (s : State) (n : Nat) : Option (List Word × BitVec 32) := regs i s (fun t => ((List.range 4).map (t.getV n), t.gst))
     let ddx : Instr := .ddx (plain 15 (.v 20) (.v 3) .absent 0 0)
     let ddy : Instr := .ddy (plain 15 (.v 21) (.v 3) .absent 0 0)
     [q shfl (voters 0x80) 2 = some ([105, 0, 0, 103], 0),
      regs (.ballot (plain 15 (.s 10) (.p 2) .absent 0 0)) (voters 0x83) (fun t => t.getS 10) = some 0xC,
      q (.gscan { plain 15 (.v 5) (.v 4) .absent 0 0 with fn := 6 }) (scan 0x86) 5 = some ([0x3F800000, 0x3F800000, 0x3F800000, 0x40000000], fIX),
      regs (.gred { plain 15 (.s 30) (.v 4) .absent 0 0 with fn := 6 }) (scan 0x85) (fun t => t.getS 30) = some 0x40000000,
      q ddx (quad 0x88 0xF) 20 = some ([0x40400000, 0x40400000, 0x40C00000, 0x40C00000], 0),
      q ddy (quad 0x89 0xF) 21 = some ([0x3F800000, 0x40800000, 0x3F800000, 0x40800000], 0),
      q ddx (quad 0x88 0xD) 20 = some ([0, 0, 0x40C00000, 0x40C00000], fQDERR),
      q ddy (quad 0x89 0xD) 21 = some ([0x3F800000, 0, 0x3F800000, 0], fQDERR)] : List Bool).all id = true := by decide +kernel

/-- The regrouping that R135 works out. Witness of `RegroupSortsLanes`. -/
theorem test_regroup :
    (let f : Fields := plain 15 (.v 9) (.v 8) .absent 0 0
     let s : State := setV 8 0 3 (setV 8 1 1 (setV 8 2 3 (setV 8 3 0 (setV 8 4 9 (setV 8 5 1 (lanes 0x2F (stand 0x8A)))))))
     let six (g : Thread → Nat → Word) : Option (List Word) := regs (.regrp f) s (fun t => (List.range 6).map (g t))
     [meets 0x8A f s (fun e => trising e.t.v && trising e.t.xv && trising e.t.origid && e.t.origid.all (fun x => x.1 < 64)),
      six (fun t => t.getV 8) = some [0, 1, 1, 3, 9, 3], six (fun t => t.getV 9) = some [3, 1, 5, 0, 0, 2],
      six (fun t l => tget 0 l t.origid) = some [3, 1, 5, 0, 4, 2]] : List Bool).all id = true := by decide +kernel

/-! ### Memory -/

/-- Lanes 0 and 1 stand at two addresses in the pair `V4`, with data in `V12` and `V6`. -/
def atTwo (opc : Nat) (x y : Dword) : State :=
  setV 4 0 (x.setWidth 32) (setV 5 0 ((x >>> 32).setWidth 32) (setV 4 1 (y.setWidth 32) (setV 5 1 ((y >>> 32).setWidth 32)
    (setV 12 0 0x11223344 (setV 12 1 0x55667788 (setV 6 0 7 (setV 6 1 9 (lanes 3 (stand opc)))))))))

/-- The caches of a package that has just been placed are empty. -/
theorem test_cachesRising (c d : Nat) : trising ((stand 0xA0).core c).l1 = true ∧ trising ((stand 0xA0).die d).rdc = true := by
  constructor <;> rfl

/-- Every lane passes and is of memory: the checkable form of `AllPass`. -/
def passes (m : MemOp) (e : Env) (s : State) : Bool :=
  (m.check e s).bad.isEmpty && (m.check e s).ok.all fun x => (devPlace x.2).isNone && !pcieSpace x.2

/-- A doubleword in the L1 or memory, as the core of the moving agent reads it. -/
def reads (a : Nat) (n : Nat) (s : State) : Nat := leNat ((s.loadBytes (s.coreNo s.cur) (placeOf (s.coreNo s.cur) .core) Cls.plain a n).1)

/-- Stores and loads of both kinds of destination: R152 to R156. Witness of `LoadWordsComplete`, `StoreWordsComplete` and
`StoreThenLoadReturnsBytes`. -/
theorem test_loadsAndStores :
    (let st : Fields := plain 15 (.v 12) (.v 4) .absent 0x02 0
     let ld : Fields := plain 15 (.v 20) (.v 4) .absent 0x02 0
     let ss : Fields := plain 15 (.s 20) (.s 4) .absent 0x03 8
     let mem (s : State) : State := s.putHome64 0x20000 0x8877665544332211
     [meets 0xA1 st (atTwo 0xA1 0x20000 0x20004) (fun e => passes (stShape e) e (atTwo 0xA1 0x20000 0x20004)),
      after (.st st) (atTwo 0xA1 0x20000 0x20004) (reads 0x20000 8) = some 0x5566778811223344,
      after (.st st) (atTwo 0xA1 0x20000 0x20000) (reads 0x20000 8) = some 0x55667788,
      meets 0xA0 ld (mem (atTwo 0xA0 0x20000 0x20004)) (fun e => passes (ldShape e) e (mem (atTwo 0xA0 0x20000 0x20004))),
      regs (.ld ld) (mem (atTwo 0xA0 0x20000 0x20004)) (fun t => (t.getV 20 0, t.getV 20 1)) = some (0x44332211, 0x88776655),
      regs (.ld ss) (setS 4 0x1FFF8 (mem (stand 0xA0))) (fun t => t.getS 20) = some 0x8877665544332211,
      after (.st ss) (setS 4 0x1FFF8 (setS 20 0x0102030405060708 (stand 0xA1))) (reads 0x20000 8) = some 0x0102030405060708] :
       List Bool).all id = true := by decide +kernel

/-- Lanes that fail: the others store, the lowest cause is taken, and the failing lanes are kept for the replay: R162, R164. Witness of
`FailingLanesTrapAndReplay`. -/
theorem test_failingLanes :
    (let st : Fields := plain 15 (.v 12) (.v 4) .absent 0x02 0
     let ld : Fields := plain 15 (.v 20) (.v 4) .absent 0x02 0
     let bad (opc : Nat) : State := atTwo opc 0x20000 0x40000000
     let rep (t : Thread) := (t.tlanes, t.replay.map (fun r => (r.lanes, r.pc, r.armed)), tget 0 1 t.taddrs)
     [endOf (.st st) (bad 0xA1) = .trap cPAGEF 2 1, issues 0xA1 st (bad 0xA1), after (.st st) (bad 0xA1) (reads 0x20000 4) = some 0x11223344,
      regs (.st st) (bad 0xA1) rep = some (2, some (2, 0x10000, false), 0x40000000),
      endOf (.ld ld) (bad 0xA0) = .trap cPAGEF 2 0, issues 0xA0 ld (bad 0xA0), regs (.ld ld) (bad 0xA0) rep = some (2, some (2, 0x10000, false), 0x40000000),
      endOf (.st st) (atTwo 0xA1 0x20000 0x20002) = .trap cMISALIGN 0 1] : List Bool).all id = true := by decide +kernel

/-- The scratchpad, codebook loads and atomics: R157 to R159, R245. Witness of `LoadWordsComplete`, `StoreWordsComplete` and
`AtomicWordsComplete`. -/
theorem test_atomics :
    (let at' (n : BitVec 32) : Fields := plain 15 (.v 20) (.v 4) (.v 6) 0x02 (n <<< 24)
     let rd : Fields := plain 15 .absent (.v 4) (.v 6) 0x02 0
     let mem (s : State) : State := s.putHome64 0x20000 0x100
     let at2 (opc : Nat) : State := mem (atTwo opc 0x20000 0x20000)
     [meets 0xA5 (at' 0) (at2 0xA5) (fun e => passes (atomShape e .atomic) e (at2 0xA5)),
      ends 0xA5 (.atom (at' 0)) (at2 0xA5) .past, ends 0xA6 (.red rd) (at2 0xA6) .past,
      regs (.atom (at' 0)) (at2 0xA5) (fun t => (t.getV 20 0, t.getV 20 1)) = some (0x100, 0x107),
      after (.atom (at' 0)) (at2 0xA5) (reads 0x20000 4) = some 0x110,
      regs (.atom (at' 8)) (at2 0xA5) (fun t => (t.getV 20 0, t.getV 20 1)) = some (0x100, 7),
      meets 0xA6 rd (at2 0xA6) (fun e => passes (atomShape e .red) e (at2 0xA6)), after (.red rd) (at2 0xA6) (reads 0x20000 4) = some 0x110,
      meets 0xA7 rd (at2 0xA7) (fun e => passes { atomShape e .atomic with size := 4 } e (at2 0xA7)),
      meets 0xA4 (plain 15 (.k 1) (.s 4) .absent 0x20 0) (setS 4 0x20000 (mem (stand 0xA4))) (fun e =>
        passes { who := e.act, once := true, off24 := false, acc := .read, size := 32, data := true } e (setS 4 0x20000 (mem (stand 0xA4)))),
      regs (.ldk (plain 15 (.k 1) (.s 4) .absent 0x20 0)) (setS 4 0x20000 (mem (stand 0xA4))) (fun t => t.getK 1 0) = some 0x100] :
       List Bool).all id = true := by decide +kernel

/-- A request of `ATOM2` of another group whose low half is performed is ended before an atomic on its word: R310, R336. Witness of
`AtomicWordsComplete`. -/
theorem test_openRequest :
    (let x : Part := { lane := 0, va := 0x20002, phys := 0x20002, page := (0x20000, 4096), off := 2, len := 2, b := 0x3F80, d := 0, lanes := [0] }
     let j : MemJob := {
       opc := 0xA7, f := plain 15 .absent (.v 4) (.v 6) 0x02 0, act := 1, parts := [x], got := [], zero := [], late := 0, ecode := 0, addrs := [],
       fail := none, stale := false }
     let s : State := (stand 0xA5).putHome64 0x20000 0x40003F80
     let u : State := { s with threads := s.threads ++ [(.group 1 0, { Thread.launch 0x20000 8 1 0 with job := some j })] }
     let half (n : Nat) : State := u.endRequests (.group 0 0) 0x20000 n
     [(j.openHalf 0x20000 4).map (fun x => x.phys) = some 0x20002, j.openHalf 0x20004 4 = none, s.endRequests (.group 0 0) 0x20000 4 = s,
      (half 4).home64 0x20000 = 0x40403F80, ((half 4).thread? (.group 1 0)).any fun t => t.job.any fun j => j.parts.isEmpty] :
       List Bool).all id = true := by decide +kernel

/-- The scratchpad windows of the block's own core. Witness of `LoadWordsComplete` and `StoreWordsComplete`. -/
theorem test_scratchpad :
    (let st : Fields := plain 15 (.v 12) (.v 4) .absent 0x02 0
     let ld : Fields := plain 15 (.v 20) (.v 4) .absent 0x02 0
     let own (opc : Nat) (f : Fields) (s : State) : Bool := meets opc f s (fun e =>
       (scratchFates (scratchShape e) e s).2.isEmpty && ((scratchShape e).lanes e).all fun l => !isRemote s e.a ((scratchShape e).addr e l))
     let spad (s : State) : State := onBlock (fun k => { k with spad := [(0, 0x11), (5, 0x22)] }) s
     [own 0xA3 st (atTwo 0xA3 0 4092), after (.sts st) (atTwo 0xA3 0 4092) (fun u => (u.block? 0).map fun k =>
        ((List.range 4).map fun q => tget 0 q k.spad, (List.range 4).map fun q => tget 0 (4092 + q) k.spad)) =
        some (some ([0x44, 0x33, 0x22, 0x11], [0x88, 0x77, 0x66, 0x55])),
      own 0xA2 ld (spad (atTwo 0xA2 0 4)), regs (.lds ld) (spad (atTwo 0xA2 0 4)) (fun t => (t.getV 20 0, t.getV 20 1)) =
        some (0x11, 0x2200),
      endOf (.sts st) (atTwo 0xA3 0 4096) = .trap cPROT 2 1] : List Bool).all id = true := by decide +kernel

/-- Fences, pins and ranges: R160, R161, R312, R313. Witness of `FencesPinsAndPrefetches`. -/
theorem test_lines :
    (let lk : Fields := plain 15 (.v 20) (.v 4) .absent 0 0
     let un : Fields := plain 15 .absent (.v 4) .absent 0 0
     let rd : Fields := plain 15 .absent (.s 4) (.s 6) 0 0
     let pass (opc : Nat) (f : Fields) (acc : Acc) (s : State) : Bool := meets opc f s (fun e => (((lineShape e acc).check e s).bad).isEmpty)
     let len (n : Dword) : State := setS 4 0x20000 (setS 6 n (stand 0xAF))
     [pass 0xA9 lk .read (atTwo 0xA9 0x20000 0x20004), regs (.lock lk) (atTwo 0xA9 0x20000 0x20004) (fun t => (t.getV 20 0, t.getV 20 1)) =
        some (2, 1),
      regs (.lock lk) (onCore 0 (fun c => { c with pins := [(0x400, 1)] }) (atTwo 0xA9 0x20000 0x20004)) (fun t => t.getV 20 0) = some 1,
      after (.unlock un) (onCore 0 (fun c => { c with pins := [(0x400, 1)] }) (atTwo 0xAA 0x20000 0x20004)) (fun u => (u.core 0).pins) =
        some [],
      pass 0xAA un .unlock (atTwo 0xAA 0x20000 0x20004), endOf (.unlock un) (atTwo 0xAA 0x20000 0x20004) = .past,
      ends 0xA8 (.fence (plain 15 .absent .absent .absent 0 0)) (stand 0xA8) .past,
      issues 0xAB un (atTwo 0xAB 0x20000 0x40000000), endOf (.prf un) (lanes 1 (atTwo 0xAB 0x20000 0)) = .past,
      ends 0xAF (.rdci rd) (len 0) .past, ends 0xAF (.rdci rd) (len 1) .past, ends 0xAF (.rdci rd) (len 0x40000001) (.trap cILLOP 0 0),
      issues 0xAF rd (len 0x40000000)] : List Bool).all id = true := by decide +kernel

/-! ### Barriers and clauses -/

/-- Barrier 0 of the block. -/
def bar0 (b : Barrier) (s : State) : State := onBlock (fun k => k.setBar 0 b) s

/-- Counts at their bounds, arrivals, waits: R167 to R171. Witness of `BarrierWordsComplete`. -/
theorem test_barriers :
    (let bari (n : BitVec 32) : Instr := .bari (plain 15 .absent .immZ .absent 0 n)
     let bara (m : BitVec 6) (n : BitVec 32) : Instr := .bara (plain 15 .absent .immZ .absent m n)
     let barw : Instr := .barw (plain 15 .absent .absent .absent 0 0)
     let b (exp cnt : Nat) (tv tp : Mask) : Barrier := { exp := exp, cnt := cnt, ph := false, arr := 0, tv := tv, tp := tp }
     let see (s : State) := (s.block? 0).map fun k => k.bar 0
     let evictedAt (s : State) : State := me (fun t => { t with gstate := .evicted, wait := .bar, warg := 0 }) s
     [ends 0xAC (bari 1) (stand 0xAC) .past, ends 0xAC (bari 65535) (stand 0xAC) .past, ends 0xAC (bari 0) (stand 0xAC) (.trap cILLOP 0 0),
      ends 0xAC (bari 65536) (stand 0xAC) (.trap cILLOP 0 0),
      ends 0xAD (bara 0 1) (bar0 (b 2 0 0 0) (stand 0xAD)) .past,
      after (bara 0 1) (bar0 (b 2 0 0 0) (stand 0xAD)) see = some (some { exp := 2, cnt := 1, ph := false, arr := 1, tv := 1, tp := 0 }),
      after (bara 0 1) (bar0 (b 2 1 0 0) (stand 0xAD)) see = some (some { exp := 2, cnt := 0, ph := true, arr := 0, tv := 1, tp := 0 }),
      ends 0xAD (bara 0 0) (bar0 (b 2 0 0 0) (stand 0xAD)) (.trap cILLOP 0 0), ends 0xAD (bara 0 3) (bar0 (b 2 0 0 0) (stand 0xAD)) (.trap cILLOP 0 0),
      ends 0xAD (bara 1 1) (bar0 (b 2 0 0 0) (stand 0xAD)) (.waits .bar), ends 0xAD (bara 1 1) (bar0 (b 2 1 0 0) (stand 0xAD)) .past,
      after (bara 1 1) (bar0 (b 2 1 0 0) (stand 0xAD)) see = some (some { exp := 2, cnt := 0, ph := true, arr := 0, tv := 0, tp := 0 }),
      (let u : State := evictedAt (bar0 (b 2 1 1 0) (stand 0xAD))
       (u.block? 0).any fun k => (endEvicted u 0 0 k).barDone = 0 &&
         (let q := endEvicted u 0 0 (k.setBar 0 { b 2 0 1 0 with ph := true })
          q.barDone = 1 && (q.bar 0).tv = 0)),
      ends 0xAE barw (bar0 (b 2 0 0 0) (stand 0xAE)) (.waits .bar), ends 0xAE barw (bar0 (b 2 0 1 1) (stand 0xAE)) .past,
      (match exec (.barrierRelease (.group 0 0)) (me (fun t => { t with wait := .bar, gstate := .parked }) (bar0 (b 2 0 1 1) (stand 0xAE))) with
        | .next u => (u.thread? (.group 0 0)).map (fun t => (t.wait, t.pc)) = some (.none, 0x1000C)
        | _ => false)] : List Bool).all id = true := by decide +kernel

/-- One lane that asks for the key 2 (a die key), with the key's entry on die 0. -/
def keyed (opc : Nat) (x : List KeyEnt) : State :=
  setV 4 0 2 (onDie 0 (fun d => { d with keys := x }) (lanes 1 (stand opc)))

/-- The key 2 of the context 1. -/
def key2 (n : Word) (p : Bool) (h : Option Holder) (w : List Waiter) : KeyEnt :=
  { key := 2, asid := 1, nseq := n, poison := p, holder := h, waiters := w }

/-- The table of R254, row by row, and the words on it: R253 to R256. Witness of `ClauseEntryWordsComplete`. -/
theorem test_clauseEntry :
    (let h : Holder := { block := 0, grp := 0, origid := 0 }
     let g : Holder := { block := 9, grp := 0, origid := 0 }
     let s : State := stand 0xB0
     let full : State := onDie 0 (fun d => { d with keys := List.replicate 8 (key2 0 false (some h) []) }) s
     let clent (q : BitVec 32) : Instr := .clent (plain 15 .absent (.v 4) .immZ 0 q)
     let two (opc : Nat) : State := setV 4 1 3 (lanes 3 (keyed opc [key2 0 false none [], { key2 5 false none [] with key := 3 }]))
     let cltry (q : BitVec 32) : Instr := .cltry (plain 15 (.p 3) (.v 4) .immZ 0 q)
     [evaluate s (key2 5 true none []) h 5 = .failed cCLPOISON 1, evaluate s (key2 5 false (some h) []) h 5 = .entered false,
      evaluate s (key2 5 false none []) h 5 = .entered true, evaluate full (key2 5 false none []) h 5 = .failed cQUOTA 1,
      evaluate s (key2 5 false none []) h 4 = .failed cCLDEAD 2, evaluate s (key2 0 false none []) h 0x80000000 = .failed cCLDEAD 2,
      evaluate s (key2 0 false none []) h 0x7FFFFFFF = .waits, evaluate s (key2 5 false (some g) []) h 5 = .waits,
      evaluate s (key2 5 false none []) h 6 = .waits,
      ends 0xB0 (clent 0) (keyed 0xB0 []) .past, ends 0xB0 (clent 1) (keyed 0xB0 []) (.waits .clause),
      after (clent 0) (keyed 0xB0 []) (fun u => (u.findKey 0 1 2).map (fun x => x.holder)) = some (some (some h)),
      ends 0xB0 (clent 0) (keyed 0xB0 [key2 0 true none []]) (.trap cCLPOISON 1 0),
      ends 0xB1 (cltry 0) (keyed 0xB1 []) .past, regs (cltry 0) (keyed 0xB1 []) (fun t => t.getP 3) = some 1,
      ends 0xB0 (clent 0) (two 0xB0) (.trap cCLDEAD 2 0), regs (clent 0) (two 0xB0) (fun t => (t.tlanes, tget 0 1 t.taddrs)) = some (3, 3),
      after (clent 0) (two 0xB0) (fun u => (u.findKey 0 1 2).map (fun x => x.holder)) = some (some none),
      ends 0xB1 (cltry 0) (two 0xB1) (.trap cCLDEAD 2 0),
      after (cltry 0) (two 0xB1) (fun u => (u.findKey 0 1 2).map (fun x => (x.holder, x.nseq))) = some (some (none, 0)),
      regs (cltry 1) (keyed 0xB1 []) (fun t => t.getP 3) = some 0,
      ends 0xB0 (clent 1) (me (fun t => { t with help := 1 }) (keyed 0xB0 [])) .past,
      ends 0xB1 (cltry 1) (me (fun t => { t with help := 1 }) (keyed 0xB1 [])) .past] : List Bool).all id = true := by decide +kernel

/-- A second group that waits on the key 2 in `CLENT`. -/
def withWaiter (s : State) : State :=
  let t := { Thread.launch 0x20000 8 1 0 with
             wait := .clause, gstate := .parked, clause := some { word := 0, act := 1, made := [], fails := [], keys := [(0, 2)], redo := false } }
  { s with threads := s.threads ++ [(.group 1 0, t)],
           blocks := s.blocks ++ [(1, { Block.launch 1 wideGrid 0 1 0 0 0 0 with asid := 1 })] }

/-- Leaving, aborting and resetting: R255, R256. Witness of `ClauseLeaveWordsComplete`, its last clause too. -/
theorem test_clauseLeave :
    (let h : Holder := { block := 0, grp := 0, origid := 0 }
     let w : Waiter := { block := 1, grp := 0, lane := 0, origid := 0, seq := 6, cycles := 0 }
     let cllv : Instr := .cllv (plain 15 .absent (.v 4) .absent 0 0)
     let clabt : Instr := .clabt (plain 15 .absent (.v 4) .absent 0 0)
     let rst : Instr := .clabtRst { plain 15 .absent (.v 4) .immZ 0 8 with fn := 1 }
     let held (opc : Nat) (w : List Waiter) : State := keyed opc [key2 5 false (some h) w]
     let see (s : State) := (s.findKey 0 1 2).map fun x => (x.nseq, x.poison, x.holder)
     [ends 0xB2 cllv (held 0xB2 []) .past, after cllv (held 0xB2 []) see = some (some (6, false, none)),
      ends 0xB3 clabt (held 0xB3 []) .past, after clabt (held 0xB3 []) see = some (some (6, true, none)),
      ends 0xB3 rst (held 0xB3 []) .past, after rst (held 0xB3 []) see = some (some (8, false, none)),
      ends 0xB3 rst (keyed 0xB3 []) .past,
      ends 0xB3 rst (keyed 0xB3 (List.replicate 8192 { key2 0 false (some h) [] with key := 4 })) (.trap cQUOTA 2 0),
      (envOf 0xB3 { plain 15 .absent (.v 4) .immZ 0 8 with fn := 1 } (keyed 0xB3 [])).any (fun e =>
        match resetEntries e (keyed 0xB3 []) with
        | .ok (some u) => (resetSpilled e u).toOption.isSome
        | _ => false),
      ends 0xB2 cllv (keyed 0xB2 []) (.trap cCLPOISON 3 0), ends 0xB3 clabt (keyed 0xB3 [key2 5 false none []]) (.trap cCLPOISON 3 0),
      ends 0xB2 cllv (withWaiter (held 0xB2 [w])) .past,
      after cllv (withWaiter (held 0xB2 [w])) see = some (some (6, false, some { block := 1, grp := 0, origid := 0 })),
      (after cllv (withWaiter (held 0xB2 [w])) fun u => (u.thread? (.group 1 0)).map fun t => (t.pc, t.wait)) =
        some (some (0x2000C, .none))] : List Bool).all id = true := by decide +kernel

/-- The clause events, and a cycle of two groups: R257, R258. Witness of `ClauseEventsComplete`. -/
theorem test_clauseEvents :
    (let h : Holder := { block := 0, grp := 0, origid := 0 }
     let g : Holder := { block := 1, grp := 0, origid := 0 }
     let w (b c : Nat) : Waiter := { block := b, grp := 0, lane := 0, origid := 0, seq := 1, cycles := c }
     let held (c : Nat) : State := withWaiter (me
       (fun t => { t with wait := .clause, gstate := .parked, clause := some { word := 0, act := 1, made := [], fails := [], keys := [(0, 3)], redo := false } })
       (keyed 0xB0 [key2 0 false (some h) [w 1 c], { key2 0 false (some g) [w 0 c] with key := 3 }]))
     let trapped (o : Host.Outcome State Fault Refusal) : Bool := match o with
       | .next u => (u.thread? (.group 0 0)).any fun t => t.wait = .fault ∧ t.cause = 9 ∧ t.detail = 1 ∧ t.cdetail = 2
       | _ => false
     let same (o : Host.Outcome State Fault Refusal) (s : State) : Bool := match o with
       | .next u => u = s
       | _ => false
     let leads' (o : Host.Outcome State Fault Refusal) (p : State → Bool) : Bool := match o with
       | .next u => p u
       | _ => false
     let redone (s : State) : State := me (fun t => { t with clause := t.clause.map fun c => { c with redo := true } }) s
     [trapped (exec (.deadlockWalk (.group 0 0) 0) (held 65536)), same (exec (.deadlockWalk (.group 0 0) 0) (held 65535)) (held 65535),
      (match exec (.clauseRequest (.group 0 0) 0) (redone (held 0)) with
        | .next u => (u.thread? (.group 0 0)).any fun t => t.wait = .none && t.pc = 0x10000
        | _ => false),
      (let own : Waiter := { w 0 0 with seq := 5 }
       let waits (p : Bool) : State := me
         (fun t => { t with wait := .clause, gstate := .parked, clause := some { word := 0, act := 1, made := [], fails := [], keys := [(0, 2)], redo := false } })
         (keyed 0xB0 [key2 5 p none [own]])
       leads' (exec (.clauseRequest (.group 0 0) 0) (waits false)) (fun u =>
         u.findKey 0 1 2 = some (key2 5 false (some h) []) &&
           (u.thread? (.group 0 0)).any fun t => t.wait = .none && t.pc = 0x1000C && t.clause.isNone) &&
         leads' (exec (.clauseRequest (.group 0 0) 0) (waits true)) (fun u =>
           (u.thread? (.group 0 0)).any fun t => t.cause.toNat = cCLPOISON && t.detail = 1 && t.tlanes = 1)),
      same (exec (.clauseRequest (.group 0 0) 0) (held 0)) (held 0), same (exec (.clauseRequest (.group 0 0) 0) (stand 0xB0)) (stand 0xB0)] :
       List Bool).all id = true := by decide +kernel

/-- A cycle of two groups is the first that a walk finds: R257. Witness of the last clauses of `ClauseEventsComplete`. -/
theorem test_cycleFirst :
    ∃ s path, path.length = 2 ∧ cycleFirst s 0 0 64 (edgesOf s 0 0) path := by
  let w (b : Nat) : Waiter := { block := b, grp := 0, lane := 0, origid := 0, seq := 1, cycles := 0 }
  let h (b : Nat) : Holder := { block := b, grp := 0, origid := 0 }
  let x : KeyEnt := key2 0 false (some (h 1)) [w 0]
  let y : KeyEnt := { key2 0 false (some (h 0)) [w 1] with key := 3 }
  refine ⟨keyed 0xB0 [x, y], [⟨0, x, w 0, h 1⟩, ⟨0, y, w 1, h 0⟩], rfl, [], [], 0, ?_, rfl, by decide, ?_⟩
  · decide +kernel
  · rw [if_neg (by decide)]
    refine ⟨[], [], 0, ?_, rfl, by decide, ?_⟩
    · decide +kernel
    · rw [if_pos (by decide)]

/-! ### Tiles and the matrix unit -/

/-- `TDEF`, `TLD`, `TST`, `TSTAT` and `TREL`: R178 to R187, R198 to R200. Witness of `TileWordsComplete`. -/
theorem test_tileWords :
    (let tdef (n : BitVec 6) : Instr := .tdef (plain 15 (.t n) (.s 4) .absent 0 0)
     let tld : Instr := .tld (plain 15 (.v 12) (.t 1) (.s 6) 0 0)
     let tst : Instr := .tst (plain 15 (.t 1) (.v 4) (.s 6) 0 0)
     let tstat : Instr := .tstat (plain 15 (.s 20) (.t 1) .absent 0 0)
     let trel : Instr := .trel (plain 15 (.t 1) .absent .absent 0 0)
     let def' (a : Dword) (s : State) : State := setS 4 a s
     let crowd (s : State) : State := onBlock (fun k => k.setTile 2 { Tile.blank with st := .ready, sbase := 0, nslot := 1020 }) s
     let fill (s : State) : State := setV 4 0 0x3F800000 s
     let lrf (s : State) : State := onBlock (fun k => k.setTile 1 { Tile.blank with st := .ready, fmt := .lrf }) s
     [ends 0xC0 (tdef 3) (def' 0 (stand 0xC0)) .past, ends 0xC0 (tdef 3) (def' 0x3FF (stand 0xC0)) .past,
      ends 0xC0 (tdef 3) (def' 0x1000000 (stand 0xC0)) (.trap cILLOP 0 0), ends 0xC0 (tdef 3) (def' 0x10000 (stand 0xC0)) (.trap cILLOP 0 0),
      ends 0xC0 (tdef 3) (def' 0x400 (stand 0xC0)) (.trap cILLOP 0 0),
      ends 0xC0 (tdef 1) (oneTile 1 (stand 0xC0)) (.trap cTILESTATE 0 0x101), ends 0xC0 (tdef 3) (crowd (stand 0xC0)) (.trap cSLOTFULL 0 16),
      ends 0xC1 tld (lanes 3 (oneTile 1 (stand 0xC1))) .past, ends 0xC1 tld (setS 6 32 (lanes 3 (oneTile 1 (stand 0xC1)))) .past,
      ends 0xC1 tld (busyTile 1 (stand 0xC1)) (.waits .tile), ends 0xC1 tld (stand 0xC1) (.trap cTILESTATE 0 0x101),
      ends 0xC2 tst (lanes 1 (fill (oneTile 1 (stand 0xC2)))) .past,
      after tst (lanes 1 (fill (oneTile 1 (stand 0xC2)))) (fun u => (u.block? 0).map (fun k => k.elem (k.tile 1) 0 0)) =
        some (some 0x3F800000),
      ends 0xC2 tst (busyTile 1 (stand 0xC2)) (.waits .tile), ends 0xC2 tst (lrf (stand 0xC2)) (.trap cTILESTATE 0 0x102),
      ends 0xC2 tst (stand 0xC2) (.trap cTILESTATE 0 0x101),
      ends 0xC3 tstat (oneTile 1 (stand 0xC3)) .past,
      regs tstat (oneTile 1 (stand 0xC3)) (fun t => t.getS 20) = some 0x8000021000000000,
      ends 0xC4 trel (oneTile 1 (stand 0xC4)) .past, ends 0xC4 trel (stand 0xC4) .past, ends 0xC4 trel (busyTile 1 (stand 0xC4)) (.trap cTILESTATE 0 0x101),
      (match exec (.tileWaitRelease (.group 0 0)) (me (fun t => { t with wait := .tile, warg := 1, gstate := .parked }) (oneTile 1 (stand 0xC1))) with
        | .next u => (u.thread? (.group 0 0)).map (fun t => t.wait) = some .none
        | _ => false)] : List Bool).all id = true := by decide +kernel

/-- A matrix stream whose word has entered the queue, with leave or without. -/
def queued (opc : Nat) (f : Fields) (leave : Bool) (s : State) : State :=
  onBlock (fun k => { k with mq := some { opc := opc, f := f, pc := 0x10000, asked := leave, leave := leave } })
    (me (fun t => { t with gstate := .parked, wait := .own }) s)

/-- Each matrix instruction enters the queue; a head asks for leave, is granted, completes, or traps: R189, R190. Witness of
`MatrixWordsQueueGrantAndComplete`. -/
theorem test_matrixUnit :
    (let f : Fields := plain 15 (.t 3) (.t 1) (.t 2) 0 0
     let three (s : State) : State := oneTile 3 (oneTile 1 (oneTile 2 s))
     let one (n : Nat) (s : State) : State := onBlock (fun k => { k with slots := tset 0 (256 * 16 * n + 3) 0x3F (tset 0 (256 * 16 * n + 2) 0x80 k.slots) }) s
     let s : State := onBlock (fun k => { k with vc := 32 }) (one 1 (one 2 (three (stand 0xC5))))
     let grant (s : State) : Option State := match exec (.matrixGrant 0) s with
       | .next u => some u
       | _ => none
     [issues 0xC5 f s, after (.mma f) s (fun u => (u.block? 0).map (fun k => k.mq.map (fun m => m.opc))) = some (some (some 0xC5)),
      (grant (queued 0xC5 f false s)).map (fun u => (u.die 0).leaves.length) = some 1,
      (grant (queued 0xC5 f true s)).map (fun u => ((u.core 0).mx.isSome, (u.block? 0).map (fun k => (k.tile 3).st))) = some (true, some .filling),
      ((s.block? 0).bind fun k => ((mxGrant k 0xC5 f 0 0).toOption).map fun w => w.bytes.take 4) =
        some [(0x3000, 0), (0x3001, 0), (0x3002, 0x80), (0x3003, 0x3F)],
      (grant (queued 0xC5 f true (stand 0xC5))).map (fun u => (u.thread? (.mstream 0)).map (fun t => (t.cause.toNat, t.cdetail))) =
        some (some (cTILESTATE, 0x301))] : List Bool).all id = true := by decide +kernel

/-- A completion writes the result and frees the unit. Witness of `MatrixWordsQueueGrantAndComplete`. -/
theorem test_matrixComplete :
    (let t : Tile := { Tile.blank with st := .ready, rows := 1, cols := 1, rcap := 7 }
     let j : MxJob := { block := 0, dst := some (3, t), bytes := [(9, 5)], flags := 1, cbs := [], cycles := 4 }
     let s : State := onCore 0 (fun c => { c with mx := some j }) (stand 0xC5)
     leads (.matrixComplete 0) s fun u =>
       (u.core 0).mx = none && (u.block? 0).map (fun k => ((k.tile 3).rcap, tget 0 9 k.slots, k.tctl)) = some (7, 5, 1)) = true := by
  decide +kernel

/-- Grants of the other matrix instructions on tiles of fitting formats: R191 to R197. Witness of the clauses of `MatrixResults`. -/
theorem test_matrixResults :
    (let f (x : BitVec 32) : Fields := plain 15 (.t 3) (.t 1) (.t 2) 0 x
     let lrf (n r : Nat) : Tile := { Tile.blank with st := .ready, fmt := .lrf, rcap := 8, rank := r, rows := 2, cols := 2, sbase := 100 + 8 * n, nslot := r }
     let k : Block := Block.launch 0 wideGrid 0 0 0 0 0 0
     let dense (n : Nat) (k : Block) : Block :=
       k.setTile n { Tile.blank with st := .ready, sbase := 16 * n, nslot := 16, fmt := .d32, rows := 2, cols := 2, rcap := 8 }
     let kd : Block := dense 1 (dense 2 (dense 3 k))
     let kl : Block := ((k.setTile 1 (lrf 1 1)).setTile 2 (lrf 2 1)).setTile 3 (lrf 3 2)
     let ok (k : Block) (opc : Nat) (f : Fields) (va vb : Dword) : Bool := (mxGrant k opc f va vb).toOption.isSome
     let spad (bs : List (Nat × Byte)) (k : Block) : Block := { k with spad := bs, spadBytes := 4096 }
     let err (k : Block) (opc : Nat) (f : Fields) (va vb : Dword) : Option (Nat × Dword) :=
       match mxGrant k opc f va vb with
       | .error i => some (i.cause, i.cdetail)
       | .ok _ => none
     let q (bs : List (Nat × Byte)) (va vb : Dword) : Option (Nat × Dword) := err (spad bs kd) 0xC6 (f 1) va vb
     let two : Block := (kd.setTile 1 (lrf 1 1)).setTile 2 (dense 2 kd |>.tile 2)
     let low3 (k : Block) (n : Nat) : Block := k.setTile 3 { lrf 3 n with rcap := n }
     [ok (spad [] kd) 0xC6 (f 1) 0 64, q [] 32 64 = some (cMISALIGN, 0), (q [] 0x100000000 64).map Prod.fst = some cPROT,
      q [(0, 8)] 0 128 = some (cBLKFMT, 0), q [(0, 4), (1, 127), (64, 4), (65, 127), (128, 1), (129, 127), (192, 1), (193, 127)] 0 128 =
        some (cBLKFMT, 0),
      (placeRun two 3 1).toOption.isSome, ok two 0xC7 (f 0) 0 0, ok kl 0xC7 (f 0) 0 0, ok kl 0xC9 (f 0) 0 0,
      ok { kd.setTile 2 (lrf 2 1) with ns := 1024 } 0xC7 (f 0) 0 0,
      err (low3 kl 1) 0xC8 (f 0) 0 0 = some (cRANKOVF, 2), ok { low3 kl 1 with tctl := 1 } 0xC8 (f 0) 0 0,
      err { kl with ns := 15 } 0xCA (f 0) 0 0 = some (cSLOTFULL, 16), err kl 0xCE { f 0 with fn := 1 } 16 0 = some (cILLOP, 0),
      err kl 0xCE { f 0 with fn := 1 } 1 0 = some (cRANKOVF, 2), kd.badSlots.isEmpty && kl.badSlots.isEmpty, ok kd 0xC5 (f 0) 0 0, (placeRun kd 3 0).toOption.isSome, ok kd 0xCB (f 0) 0 0,
      (placeRun kd 3 2).toOption.isSome, ok kd 0xCB (f 2) 0 0, (placeRun kl 3 2).toOption.isSome, ok kl 0xC8 (f 0) 0 0,
      (placeRun kl 3 16).toOption.isSome, ok kl 0xCA (f 0) 0 0, ok kd 0xCD (f 0) 0 0, ok kd 0xCC (f 0) 0 0,
      ok kl 0xCE { f 0 with fn := 1 } 2 0, ok kl 0xCE { f 0 with fn := 1 } 15 0, ok kd 0xCE (f 0) 0 0, ok kd 0xCE (f 0) 4064 0] : List Bool).all id = true := by
  decide +kernel

/-! ### Phrase engines -/

/-- A flat layout of 64 bytes at 0x30000, and an index layout of one row, as records at 0x20000 and 0x20080. -/
def layouts (s : State) : State :=
  let s := (((s.putHome64 0x20000 0x10000).putHome64 0x20008 0x30000).putHome64 0x20010 64).putHome64 0x20028 1
  ((((s.putHome64 0x20080 0x10003).putHome64 0x20088 0x30000).putHome64 0x20090 1).putHome64 0x200D0 0x30800).putHome64 0x200D8 4

/-- `PHRS`, `BSEAL`, `BWAIT` and their waits: R219, R221, R231 to R233. Witness of `GroupPhraseWordsComplete`. -/
theorem test_groupPhrase :
    (let phrs (x : BitVec 32) : Instr := .phrs (plain 15 .absent (.s 4) (.s 6) 0 x)
     let bseal (d : Opd) : Instr := .bseal (plain 15 d .absent .absent 0 0)
     let bwait (d : Opd) (n : BitVec 32) : Instr := .bwait (plain 15 d .absent .absent 0 n)
     let sealed (n : Nat) (s : State) : State :=
       onBlock (fun k => { k with batches := [(0, { ob := { num := 20, status := 0 }, acc := 0,
                                                     sealedB := List.replicate n { num := 7, status := 0 } })] }) s
     let r : PReq := { block := 0, grp := 0, prog := 0x40, recAddr := 3, vals := [5], lane := 0, batch := 1 }
     let queued (n : Nat) (s : State) : State := onCore 0 (fun c => { c with preq := List.replicate n r }) s
     let waiting (w : Wait) (n : BitVec 6) (s : State) : State := me (fun t => { t with gstate := .parked, wait := w, warg := n }) s
     let ready (i : Instr) (s : State) (w : Wait) : Bool := leads i s fun u => (u.thread? (.group 0 0)).map (fun t => t.wait) = some w
     [ends 0xCF (phrs 15) (stand 0xCF) .past, leads (phrs 15) (stand 0xCF) (fun u => (u.core 0).preq.length = 1),
      ends 0xCF (phrs 0) (stand 0xCF) .past, ends 0xCF (phrs 15) (queued 255 (stand 0xCF)) .past,
      ends 0xCF (phrs 15) (queued 256 (stand 0xCF)) (.waits .batch), ends 0xCF (phrs 15) (setS 4 2 (stand 0xCF)) (.trap cMISALIGN 0 3),
      ends 0xCF (.phrs (plain 15 (.v 1017) (.s 4) (.s 6) 0 0x8F)) (stand 0xCF) (.trap cREGRANGE 0 1017),
      ends 0xCF (.phrs (plain 15 (.v 1016) (.s 4) (.s 6) 0 0x8F)) (stand 0xCF) .past,
      ends 0xCF (.phrs (plain 15 (.v 1017) (.s 4) (.s 6) 0 0x80)) (stand 0xCF) .past,
      ends 0xD0 (bseal .absent) (stand 0xD0) .past, ends 0xD0 (bseal (.s 9)) (sealed 14 (stand 0xD0)) .past,
      ends 0xD0 (bseal (.s 9)) (sealed 15 (stand 0xD0)) (.waits .batch),
      ends 0xD1 (bwait .absent 0) (stand 0xD1) .past, ends 0xD1 (bwait (.s 9) 1) (sealed 1 (stand 0xD1)) .past,
      ends 0xD1 (bwait .absent 1) (sealed 2 (stand 0xD1)) (.waits .batch),
      ready (.bwaitRelease (.group 0 0)) (waiting .batch 1 (sealed 1 (stand 0xD1))) .none,
      ready (.bwaitRelease (.group 0 0)) (waiting .batch 1 (sealed 2 (stand 0xD1))) .batch,
      ready (.queuePortWake (.group 0 0)) (waiting .queue 3 (onBlock (fun k => { k with ports := [(3, [[1]])] }) (stand 0xD1))) .none,
      ready (.queuePortWake (.group 0 0)) (waiting .queue 3 (stand 0xD1)) .queue,
      leads (.phraseRequestStart 0) (queued 1 (stand 0xCF)) (fun u => (u.thread? (.phrase 0 16)).map (fun t => (t.pc, t.getS 0, t.getS 1)) =
        some (0x40, 3, 5))] : List Bool).all id = true := by decide +kernel

/-- The words of access programs: R230 to R239. Witness of `AccessWordsComplete`. -/
theorem test_accessWords :
    (let own (g : PCtx → PCtx) (s : State) : State := onCore 0 (fun c => { c with pctx := c.pctx.map fun x => (x.1, g x.2) }) s
     let at' (opc : Nat) : State := setS 4 0x20000 (setS 8 0x30 (setS 12 1 (setS 14 0x20080 (layouts (stand opc)))))
     let xfer (fn : BitVec 4) (d a : Opd) : Fields := { plain 15 d a (.s 12) 0 0 with fn := fn }
     let slots (i : Instr) (s : State) : Option Nat := after i s fun u => ((u.core 0).pctx.map fun x => x.2.slots.length).sum
     let slot : PhSlot := { opc := 0xD3, f := xfer 5 (.s 8) (.s 9), pc := 0, stopped := false, locked := true, n := 4, cursor := 1, esz := 1,
                            dst := .spad 0x30, src := .spad 0, order := 0, asked := false, leave := false, sent := none }
     let busy (s : State) : State := own (fun p => { p with slots := [(0, slot)], last := some (0, 4, 0), nextOrder := 1 }) s
     let loop : Fields := { plain 15 (.s 20) (.s 24) .absent 0 0xFFFFFFF4 with fn := 1 }
     let port (n : Nat) (s : State) : State := onBlock (fun k => { k with ports := [(3, List.replicate n [1])] }) s
     let push : Instr := .pqpsh (xfer 4 (.q 3) (.s 8))
     let wide (s : State) : State := onDie 0 (fun d => { d with locks := List.replicate 4096 { asid := 1, lo := 0, hi := 0, write := false, owner := .port } }) s
     let fills (n : Dword) : Option (Option (TState × Filler)) := after (.pxfer (xfer 6 (.t 3) (.s 9))) (oneTile 3 (setS 12 n (at' 0xD3)))
       fun u => (u.block? 0).map fun k => ((k.tile 3).st, (k.tile 3).by')
     [ends 0xD7 push (port 3 (at' 0xD7)) .past, ends 0xD7 push (port 4 (at' 0xD7)) (.waits .queue),
      leads (.queuePortWake (.phrase 0 0)) (me (fun t => { t with gstate := .parked, wait := .queue, warg := 3 }) (port 3 (at' 0xD7)))
        (fun u => (u.thread? (.phrase 0 0)).map (fun t => t.wait) = some .none),
      ends 0xD3 (.pxfer (xfer 1 (.s 8) (.s 4))) (wide (setS 12 64 (at' 0xD3))) (.waits .lockTable),
      fills 1 = some (some (.filling, .phrase)),
      slots (.pxfer (xfer 1 (.s 8) (.s 4))) (setS 12 64 (at' 0xD3)) = some 1, slots (.pxfer (xfer 5 (.s 8) (.s 9))) (setS 12 0 (at' 0xD3)) = some 0,
      slots (.pgath (xfer 1 (.s 8) (.s 14))) (at' 0xD4) = some 1, slots (.pscat (xfer 4 (.s 14) (.s 8))) (at' 0xD5) = some 1,
      slots (.pqpsh (xfer 4 (.q 3) (.s 8))) (at' 0xD7) = some 1,
      regs (.paddr (plain 15 (.s 20) (.s 4) (.s 30) 0 0)) (setS 30 5 (at' 0xD2)) (fun t => t.getS 20) = some 0x30005,
      ends 0xD6 (.ploop loop) (setS 24 2 (stand 0xD6)) (.goes 0x10000), ends 0xD6 (.ploop loop) (setS 20 1 (setS 24 2 (stand 0xD6))) .past,
      ends 0xD8 (.parrv (plain 15 .absent .absent .absent 0 0)) (stand 0xD8) .past,
      ends 0xD8 (.parrv (plain 15 .absent .absent .absent 0 0)) (busy (stand 0xD8)) (.waits .own),
      ends 0xD8 (.parrv (plain 15 .absent .absent .absent 2 0)) (stand 0xD8) (.waits .bar),
      ends 0xD8 (.parrv (plain 15 .absent .absent .absent 1 0)) (own (fun p => { p with launched := true }) (stand 0xD8)) (.trap cQERR 7 0),
      ends 0xD9 (.pend (plain 15 .absent .absent .absent 0 0)) (busy (stand 0xD9)) (.waits .own),
      issues 0xD9 (plain 15 .absent .absent .absent 0 0) (stand 0xD9),
      leads (.pend (plain 15 .absent .absent .absent 0 0)) (stand 0xD9) (fun u => (u.block? 0).map (fun k => k.apEnded) = some true),
      endOf (.pend (plain 15 .absent .absent .absent 0 0)) (own (fun p => { p with launched := true }) (stand 0xD9)) = .gone,
      ends 0xDA (.pcur (plain 15 (.s 20) (.s 4) .absent 0 0)) (setS 4 1 (busy (stand 0xDA))) .past,
      regs (.pcur (plain 15 (.s 20) (.s 4) .absent 0 0)) (setS 4 1 (busy (stand 0xDA))) (fun t => t.getS 20) = some 1,
      ends 0xDA (.pcur (plain 15 (.s 20) (.s 4) .absent 0 0)) (setS 4 2 (busy (stand 0xDA))) (.waits .pcur)] : List Bool).all id = true := by
  decide +kernel

/-- One transfer of four bytes within the window, from lock to end: R215, R216, R224. Witness of `TransferEventsComplete`. -/
theorem test_transfer :
    (let f : Fields := { plain 15 (.s 8) (.s 9) (.s 12) 0 0 with fn := 5 }
     let slot (locked leave : Bool) (cur : Nat) : PhSlot :=
       { opc := 0xD3, f := f, pc := 0, stopped := false, locked := locked, n := 4, cursor := cur, esz := 1,
         dst := .spad 0x30, src := .spad 0, order := 0, asked := leave, leave := leave, sent := none }
     let own (p : PhSlot) (s : State) : State :=
       onBlock (fun k => { k with spad := [(0, 7), (3, 9)] })
         (onCore 0 (fun c => { c with pctx := c.pctx.map fun x => (x.1, { x.2 with slots := [(0, p)], last := some (0, 4, 0), nextOrder := 1 }) }) s)
     let waiting (w : Wait) (s : State) : State := me (fun t => { t with gstate := .parked, wait := w, warg := 1 }) s
     let ready (i : Instr) (s : State) (w : Wait) : Bool := leads i s fun u => (u.thread? (.phrase 0 0)).map (fun t => t.wait) = some w
     let u0 (s : State) : Option PCtx := s.pctx 0 0
     let push (s : State) : State := onBlock (fun k => { k with ports := [(3, List.replicate 4 [1])] })
       (own { slot true true 0 with opc := 0xD7, dst := .port 3 } s)
     let out (d : Endpoint) (s : State) : State := onBlock (fun k => { k with resident := false }) (own { slot true true 0 with dst := d } s)
     let runs (s : State) : Bool := ((u0 s).map fun p => runsOn s 0 0 0 p) = some true
     [runs (own (slot true true 0) (stand 0xD3)), runs (out (.tile 3 0) (stand 0xD3)), !runs (out (.spad 0x30) (stand 0xD3)),
      leads (.phraseChunk 0 0 0) (push (stand 0xD3)) (fun u => (u.thread? (.phrase 0 0)).map (fun t => (t.wait, t.warg)) = some (.queue, 3)),
      leads (.phraseChunk 0 0 0) (own { slot true true 0 with sent := some 1 } (stand 0xD3)) (fun u =>
        u = own { slot true true 0 with sent := some 1 } (stand 0xD3)),
      ready (.rangeLockRegister 0 0 0) (waiting .lockTable (own (slot false false 0) (stand 0xD3))) .none,
      ready (.phraseContextResume 0 0) (waiting .own (own (slot true false 0) (stand 0xD3))) .none,
      ready (.phraseContextResume 0 0) (waiting .lockTable (own (slot true false 0) (stand 0xD3))) .lockTable,
      leads (.phraseChunk 0 0 0) (own (slot true false 0) (stand 0xD3)) (fun u => (u.die 0).leaves.length = 1),
      leads (.phraseChunk 0 0 0) (own (slot true true 0) (stand 0xD3)) (fun u => (u.block? 0).map (fun k =>
        (tget 0 0x30 k.spad, tget 0 0x33 k.spad, tget 0 0x34 k.spad)) = some (7, 9, 0)),
      leads (.phraseTransferComplete 0 0 0) (own (slot true false 4) (stand 0xD3)) (fun u =>
        (u.core 0).pctx.map (fun x => x.2.slots.length) = [0]),
      leads (.phraseTransferComplete 0 0 0) (own (slot true false 3) (stand 0xD3)) (fun u =>
        (u.core 0).pctx.map (fun x => x.2.slots.length) = [1])] : List Bool).all id = true := by decide +kernel

/-! ### Views and translation -/

/-- A camera of parallel rays with depths from 0 to 1, at 0x20000. -/
def camera (s : State) : State := s.putHome64 0x20050 0x3F80000000000000

/-- A view of level 1 into tile 3, one pixel, at a phase. -/
def aView (p : VPhase) : View :=
  { block := 0, grp := 0, tile := 3, die := 0, pc := 0, level := 1, asid := 1, prio := 0, grid := 0, camAddr := 0x20000,
    cam := readBytes (camera State.reset).homeByte 0x20000 128, cut := 0x20100, chan := 0, mode := 0, rows := 1, cols := 1, age := 0,
    phase := p, fault := false, withdrawn := false, cutBytes := [], primBytes := [], prims := [], subs := [], shadesLeft := 0, bg := 0, row := 0,
    pixels := if p = .resolved then [5] else [], asked := false, leave := true }

/-- That view in flight. -/
def oneView (p : VPhase) (s : State) : State :=
  { onBlock (fun k => k.setTile 3 { k.tile 3 with st := .filling, by' := .view, vstat := 0x401 }) (oneTile 3 (camera s)) with
    views := [(0, aView p)], nextView := 1 }

/-- `VIEW`, `VSTAT`, `VCAN` and the units: R276 to R288. Witness of `ViewWordsAndEventsComplete`. -/
theorem test_views :
    (let view (x : BitVec 32) : Instr := .view (plain 15 (.t 3) (.s 4) (.s 6) 0 x)
     let s (opc : Nat) : State := setS 4 0x20000 (setS 6 0x20100 (camera (oneTile 3 (stand opc))))
     let deep (s : State) : State := me (fun t => { t with vdepth := 3 }) s
     let dfb (s : State) : State := onBlock (fun k => { k with tctl := 4 }) s
     let tile (i : Instr) (s : State) (t : TState × Word) : Bool := leads i s fun u => (u.block? 0).map (fun k => ((k.tile 3).st, (k.tile 3).vstat)) = some t
     let vcan : Instr := .vcan (plain 15 (.t 3) .absent .absent 0 0)
     let fault (s : State) : State := { s with views := s.views.map fun x => (x.1, { x.2 with fault := true }) }
     let crowded (s : State) : State := { s with views := List.replicate 256 (0, aView .sample) }
     let asking (s : State) : State := me (fun t => { t with gstate := .parked, wait := .vrec, ask := some {
       tile := 3, chan := 0, mode := 0, rows := 1, cols := 1, camAddr := 0x20000, cut := 0x20100, cam := [], age := 5 } }) s
     let cutAt (a : Dword) (s : State) : State := { s with views := s.views.map fun x => (x.1, { x.2 with cut := a }) }
     let noLeave (s : State) : State := { s with views := s.views.map fun x => (x.1, { x.2 with leave := false }) }
     [ends 0xDB (view 0) (s 0xDB) .past, ends 0xDB (view 15) (s 0xDB) .past, tile (view 15) (s 0xDB) (.filling, 0x401),
      ends 0xDB (view 15) (setS 4 0x20040 (s 0xDB)) (.trap cMISALIGN 0 0), ends 0xDB (view 15) (busyTile 3 (s 0xDB)) (.waits .tile),
      ends 0xDB (view 15) (setS 4 0x20000 (stand 0xDB)) (.trap cTILESTATE 0 0x301),
      tile (view 15) (deep (s 0xDB)) (.empty, 4), ends 0xDB (view 15) (deep (dfb (s 0xDB))) (.trap cVIEWDEPTH 0 0),
      tile (view 15) (setS 4 0x30000 (s 0xDB)) (.empty, 0x10005),
      ends 0xDB (view 15) (crowded (s 0xDB)) (.waits .vrec),
      after (view 15) (crowded (s 0xDB)) (fun u => (u.thread? (.group 0 0)).map fun t => t.ask.map fun q => (q.tile, q.cut)) =
        some (some (some (3, 0x20100))),
      tile (.viewRecordWake (.group 0 0)) (asking (s 0xDB)) (.filling, 0x401),
      leads (.viewRecordWake (.group 0 0)) (asking (setS 4 0x20000 (stand 0xDB))) (fun u => (u.thread? (.group 0 0)).any fun t =>
        t.ask = none && t.wait = .none && t.pc = 0x10000),
      ends 0xDB (view 15) (setS 4 0x40000000 (s 0xDB)) (.trap cPAGEF 2 0),
      tile (.viewDice 0) (cutAt 0x40000000 (oneView .dice (stand 0xDB))) (.filling, 0x601),
      leads (.viewDice 0) (cutAt 0x40000000 (oneView .dice (stand 0xDB))) (fun u => u.views.map (fun x => x.2.fault) = [true]),
      tile (.viewDice 0) ((oneView .dice (stand 0xDB)).putHome64 0x20100 0xFFFFFFFFFFFFFFFF) (.empty, 0x20405),
      leads (.viewRowSample 0) (noLeave (oneView .sample (stand 0xDB))) (fun u => u.views.map (fun x => x.2.asked) = [true] &&
        (u.die 0).leaves.map (fun r => r.cost) = [2]),
      leads (.viewRowSample 0) (oneView .dice (stand 0xDB)) (fun u => u = oneView .dice (stand 0xDB)),
      leads (.viewArrival 7) (stand 0xDB) (fun u => u = stand 0xDB),
      ends 0xDC (.vstat (plain 15 (.s 20) (.t 3) .absent 0 0)) (s 0xDC) .past,
      ends 0xDD vcan (s 0xDD) .past, tile vcan (oneView .sample (stand 0xDD)) (.ready, 0x403),
      tile (.viewDice 0) (oneView .dice (stand 0xDB)) (.filling, 0x401),
      leads (.viewDice 0) (oneView .dice (stand 0xDB)) (fun u => u.views.map (fun x => x.2.phase) = [.sample]),
      leads (.viewRowSample 0) (oneView .sample (stand 0xDB)) (fun u => u.views.map (fun x => (x.2.phase, x.2.pixels)) = [(.resolved, [0x7F800000])]),
      tile (.viewArrival 0) (oneView .resolved (stand 0xDB)) (.ready, 0x402),
      tile (.viewArrival 0) (oneView .sample (stand 0xDB)) (.filling, 0x401),
      tile (.viewKill 0) (fault (oneView .sample (stand 0xDB))) (.empty, 0x406),
      leads (.viewRecordWake (.group 0 0)) (me (fun t => { t with wait := .vrec, gstate := .parked }) (stand 0xDB))
        (fun u => (u.thread? (.group 0 0)).map (fun t => t.wait) = some .none)] : List Bool).all id = true := by decide +kernel

/-- Invalidations, fences, page maps and the fault buffer: R330 to R333. Witness of `TranslationWordsComplete`. -/
theorem test_translation :
    (let tv (n : BitVec 4) : Fields := { plain 15 .absent (.s 4) (.s 6) 0 0 with fn := n }
     let ent : TlbEnt := { asid := 1, base := 0x40000, size := 4096, pte := 1, pteAddr := 0x7000, level := 0, leaf := true }
     let cached (s : State) : State := onCore 0 (fun c => { c with tlb := [ent] }) s
     let left (i : Instr) (s : State) : Option Nat := after i s fun u => (u.core 0).tlb.length
     let regions (n : Nat) (s : State) : State := me (fun t => { t with regions := List.replicate n { asid := 1, base := 0x40000, size := 4096 } }) s
     let locked (s : State) : State := onDie 0 (fun d => { d with locks := [{ asid := 1, lo := 0x40FFF, hi := 0x41000, write := true, owner := .port }] }) s
     let pg : Instr := .pgmap (plain 15 (.v 12) (.v 4) .absent 0 0)
     let va (x : Dword) : State := setV 4 0 (x.setWidth 32) (setV 5 0 ((x >>> 32).setWidth 32) (lanes 1 (handler (stand 0xE2))))
     let touch (s : State) : State := ((s.putHome64 0x3008 0x4001).putHome64 0x4000 0x6001).putHome64 0x6000 0x800
     let pool (s : State) : State := (onDie 0 (fun d => { d with ftring := 0x8000, ftidx := 1 }) s).putHome64 0x8000 0x9000
     let fb : Instr := .fbpop (plain 15 (.s 20) (.s 4) (.s 6) 0 0)
     let one (s : State) : State := onDie 0 (fun d => { d with fbuf := [FaultRec.blank] }) s
     let poison (s : State) : State := { s with badLines := [0x6000 / 128] }
     let inFlight (s : State) : State := s.setQueue 0 { s.queue 0 with outst := 1, flight := [
       { idx := 0, is64 := true, va := 0x20000, phys := 0x20000, value := 5, stale := true, order := 0, page := (0x20000, 4096) }] }
     [left (.tlbiVa (tv 0)) (setS 4 1 (setS 6 0x40FFF (cached (stand 0xE0)))) = some 0,
      left (.tlbiVa (tv 0)) (setS 4 1 (setS 6 0x41000 (cached (stand 0xE0)))) = some 1,
      left (.tlbiVa (tv 0)) (setS 4 2 (setS 6 0x40000 (cached (stand 0xE0)))) = some 1, issues 0xE0 (tv 0) (cached (stand 0xE0)),
      left (.tlbiAsid { tv 1 with b := .absent }) (setS 4 1 (cached (stand 0xE0))) = some 0, left (.tlbiAll { tv 2 with a := .absent, b := .absent }) (cached (stand 0xE0)) = some 0,
      ends 0xE1 (.tfence (plain 15 (.s 20) .absent .absent 0 0)) (inFlight (stand 0xE1)) .past,
      leads (.tfence (plain 15 (.s 20) .absent .absent 0 0)) (inFlight (stand 0xE1)) (fun u => u.home64 0x20000 = 5 && (u.queue 0).flight.isEmpty),
      ends 0xE2 pg (poison (touch (va 0x40000000))) (.trap cECCU 5 0),
      ends 0xE3 fb (setS 6 0x30001 (stand 0xE3)) (.goes 0x300), ends 0xE3 fb (setS 4 17 (setS 6 0x30000 (stand 0xE3))) (.goes 0x100),
      ends 0xE0 (.tlbiVa (tv 4)) (regions 63 (stand 0xE0)) .past,
      ends 0xE0 (.tlbiVa (tv 4)) (regions 64 (stand 0xE0)) (.goes 0x1500),
      regs (.tlbiVa (tv 4)) (regions 64 (stand 0xE0)) (fun t => t.getS xsBase) = some 0x300000015,
      ends 0xE1 (.tfence (plain 15 (.s 20) .absent .absent 0 0)) (stand 0xE1) .past,
      regs (.tfence (plain 15 (.s 20) .absent .absent 0 0)) (locked (regions 2 (stand 0xE1))) (fun t => t.getS 20) = some 0x40001,
      regs (.tfence (plain 15 (.s 20) .absent .absent 0 0)) (regions 2 (stand 0xE1)) (fun t => t.getS 20) = some 0,
      ends 0xE2 pg (va 0x20000) .past, regs pg (va 0x20000) (fun t => t.getV 12 0) = some 1,
      ends 0xE2 pg (va (2 ^ 57)) (.trap cPAGEF 0x404 0), ends 0xE2 pg (va (2 ^ 57 - 1)) (.trap cPAGEF 4 0),
      ends 0xE3 fb (setS 6 0x30000 (stand 0xE3)) .past, regs fb (setS 6 0x30000 (one (stand 0xE3))) (fun t => t.getS 20) = some 1,
      issues 0xE3 (plain 15 (.s 20) (.s 4) (.s 6) 0 0) (setS 4 17 (stand 0xE3)),
      endOf fb (setS 4 16 (setS 6 0x30000 (stand 0xE3))) = .past,
      issues 0xE2 (plain 15 (.v 12) (.v 4) .absent 0 0) (touch (va 0x40000000)), ends 0xE2 pg (touch (va 0x40000000)) (.trap cPAGEF 0x300 0),
      meets 0xE2 (plain 15 (.v 12) (.v 4) .absent 0 0) (pool (touch (va 0x40000000))) (fun e =>
        (pool (touch (va 0x40000000))).walk ((pool (touch (va 0x40000000))).asidOf e.a) 0x40000000 = .invalid 0 true 0x6000 &&
          poolCount ((pool (touch (va 0x40000000))).die 0) = 1)] :
       List Bool).all id = true := by decide +kernel

/-! ### Package words -/

/-- A package with a peer table whose entry for package 5 grants everything. -/
def peered (s : State) : State :=
  { (s.putHome64 0x40050 0xFFFF000000000000).putHome64 0x40058 0xFF0001 with
    sys := { s.sys with peertab := 0x40000, fabcfg := 0x000788B500000010, portstat := [(0, 0x8000000000000000)] } }

/-- `LAUNCH`, `JOIN`, `QCTL`, `HALT` and `NSIG`: R370 to R375, R391. Witness of `PackageWordsComplete`. -/
theorem test_packageWords :
    (let launch (x : BitVec 32) : Instr := .launch (plain 15 (.s 20) (.s 4) .absent 0 x)
     let join (n : BitVec 32) : Instr := .join (plain 15 (.s 20) (.s 4) .absent 0 n)
     let child (st : Nat) (s : State) : State :=
       { onDie 0 (fun d => { d with pool := [(3, 7)], gens := [(3, 1)] }) s with
         grids := s.grids ++ [(7, { wideGrid with parent := some 0, stage := st, status := 9 })] }
     let q (n : BitVec 4) (x y : Opd) : Fields := { plain 15 (.s 20) x y 0 0 with fn := n }
     let qs : Instr := .qctlStat (q 0 (.s 4) .absent)
     let setr (n : Dword) : State := ownQueue 5 (setS 6 n (stand 0xE6))
     let res (i : Instr) (s : State) : Option Dword := regs i s fun t => t.getS 20
     let nsig : Instr := .nsig (plain 15 (.s 20) (.s 4) (.s 6) 0 15)
     let full (mine : Bool) : State :=
       let s := setS 4 5 (setS 5 0x20000 (peered (stand 0xE8)))
       let g : Frame := {
         port := 0, dmac := 0, smac := 0, etype := 0x88B5, flits := 0, src := 7, dst := 5, kind := 3, srcDie := 0, hold := false, opening := false, seq := 0, ack := 0, addr := 0, value := 0, tag := 0, openNo := 1, data := [], good := true }
       { s with sys := { s.sys with flows := [{
         die := 0, pkg := 5, openNo := 1, nextSeq := 0, timeouts := 0, port := some 0, held := false, acked := true, unsent := 0, unacked := if mine then [(g, signalOf s s.cur)] else List.replicate 256 (g, .reply (frameLock [] g)), waiting := [] }] } }
     [ends 0xE4 (launch 0) (stand 0xE4) .past, ends 0xE4 (launch 15) (setS 4 0x20000 (stand 0xE4)) .past,
      res (launch 15) (setS 4 0x20000 (stand 0xE4)) = some 0x0001000000010000, ends 0xE4 (launch 15) (setS 4 0x80 (stand 0xE4)) (.trap cMISALIGN 0 0),
      ends 0xE5 (join 1) (setS 4 0 (stand 0xE5)) .past, ends 0xE5 (join 1) (setS 4 0x0001000000010003 (child 2 (stand 0xE5))) .past,
      res (join 1) (setS 4 0x0001000000010003 (child 2 (stand 0xE5))) = some 9,
      ends 0xE5 (join 1) (setS 4 0x0001000000010003 (child 0 (stand 0xE5))) (.waits .join),
      res (join 1) (setS 4 0x0001000000020003 (child 2 (stand 0xE5))) = some 4] ++
     [ends 0xE6 qs (ownQueue 2 (stand 0xE6)) .past, res qs (ownQueue 2 (stand 0xE6)) = some 0x4000000000000000,
      ends 0xE6 qs (setS 4 63 (stand 0xE6)) (.trap cPROT 8 0), ends 0xE6 qs (setS 4 64 (stand 0xE6)) (.trap cILLOP 0 0),
      res (.qctlSetr (q 1 (.s 4) (.s 6))) (setr 16) = some 0, res (.qctlSetr (q 1 (.s 4) (.s 6))) (setr 17) = some 2,
      res (.qctlSetr (q 1 (.s 4) (.s 6))) (ownQueue 0 (stand 0xE6)) = some 1,
      res (.qctlStart (q 2 (.s 4) .absent)) (ownQueue 0 (stand 0xE6)) = some 1,
      res (.qctlStart (q 2 (.s 4) .absent)) (let s := ownQueue 5 (stand 0xE6); s.setQueue 0 { s.queue 0 with qbase := 32 }) = some 2,
      res (.qctlStop (q 3 (.s 4) .absent)) (ownQueue 5 (stand 0xE6)) = some 1, res (.qctlStop (q 3 (.s 4) .absent)) (ownQueue 4 (stand 0xE6)) = some 0,
      ends 0xE9 (.halt (plain 15 .absent .absent .absent 0 0)) (stand 0xE9) (.waits .halt),
      ends 0xE9 (.halt (plain 15 .absent .absent .absent 0 0)) (onDie 3 (fun d => { d with intpend := 1 }) (stand 0xE9)) .past,
      ends 0xE8 nsig (setS 4 5 (setS 5 0x20000 (stand 0xE8))) .past, res nsig (setS 4 5 (setS 5 0x20000 (stand 0xE8))) = some 2,
      ends 0xE8 (.nsig (plain 15 (.s 20) (.s 255) (.s 6) 0 15)) (stand 0xE8) (.trap cREGRANGE 0 1279),
      ends 0xE8 (.nsig (plain 15 (.s 20) (.s 255) (.s 6) 0 0)) (stand 0xE8) .past,
      ends 0xE8 nsig (full true) (.waits .own), ends 0xE8 nsig (full false) (.waits .own),
      ends 0xE4 (launch 15) (setS 4 0x40000000 (stand 0xE4)) (.trap cPAGEF 2 0),
      ends 0xE8 nsig (setS 4 5 (setS 5 0x20004 (stand 0xE8))) (.trap cMISALIGN 0 1),
      ends 0xE8 nsig (setS 4 5 (setS 5 (2 ^ 57) (stand 0xE8))) (.trap cPROT 4 1),
      res nsig (setS 4 5 (setS 5 0x20000 (peered (stand 0xE8)))) = some 0,
      leads nsig (setS 4 5 (setS 5 0x20000 (peered (stand 0xE8)))) (fun u => u.sys.wire.map (fun g => (g.kind, g.addr, g.dst)) = [(3, 0x20000, 5)])] :
       List Bool).all id = true := by decide +kernel

/-- The operations of a context switch: R172 to R175, R373, R376. Witness of `ContextSwitchWordsComplete`. -/
theorem test_contextSwitch :
    (let c (n : BitVec 4) (b : Opd) : Fields := { plain 15 (.s 20) (.s 4) b 0 0 with fn := n }
     let res (i : Instr) (s : State) : Option Dword := regs i s fun t => t.getS 20
     let other (s : State) : State :=
       { s with blocks := s.blocks ++ [(1, { Block.launch 1 wideGrid 0 1 0 0 0 0 with notEnded := 0, bars := [], nt := 0, ns := 0, spadBytes := 0 })],
                grids := s.grids ++ [(1, { wideGrid with recAddr := 0x30000 })] }
     let rep (pc : Dword) : Replay := { word := 0, pc := pc, lanes := 1, addrs := [], armed := false, deferred := false }
     let fault (s : State) : State := me (fun t => { t with wait := .fault, gstate := .parked, cause := 4, replay := some (rep t.pc) }) s
     let t (s : State) : Option (Wait × Dword × Option Bool) := (s.thread? s.cur).map fun t => (t.wait, t.pc, t.replay.map (fun r => r.armed))
     let area (s : State) : State := (s.putHome64 0x5048 0x80000).putHome64 0x5050 0x20000
     let full : State := setS 4 1 (other (area (stand 0xE7)))
     let evicted : State := { full with blocks := full.blocks.map fun x => if x.1 = 1 then (1, { x.2 with resident := false }) else x }
     let back : State := setS 4 0x80000 (setS 6 5 evicted)
     [ends 0xE7 (.ctxsPart (c 0 (.s 6))) (stand 0xE7) .past,
      ends 0xE7 (.ctxsFull (c 1 .absent)) (setS 4 5 (stand 0xE7)) .past, res (.ctxsFull (c 1 .absent)) (setS 4 5 (stand 0xE7)) = some 0,
      ends 0xE7 (.ctxsRest (c 2 (.s 6))) (stand 0xE7) .past, res (.ctxsRest (c 2 (.s 6))) (setS 4 0x60000 (stand 0xE7)) = some 1,
      res (.ctxsTerm (c 3 .absent)) (setS 4 0x50000 (stand 0xE7)) = some 1,
      res (.ctxsTerm (c 3 .absent)) (setS 4 0x30000 (other (stand 0xE7))) = some 0,
      (let g (n : BitVec 16) : Grid := { wideGrid with recAddr := 0x30000, asid := n }
       let two : State := { other (stand 0xE7) with grids := [(4, g 9), (5, g 1)] }
       gridAt two 0x30000 1 = some 5 && gridAt two 0x30000 9 = some 4 && gridAt two 0x30000 7 = some 4 && gridAt two 0x30008 1 = none),
      issues 0xE7 (c 2 (.s 6)) back, (savedAt back 0x80000 1).map Prod.fst = some 1,
      (evicted.block? 1).any fun k => (seatOn back 1 5 k).isSome && (readImages (back.acquire 5 .pkg) (.core 5) k).toOption.isSome,
      res (.ctxsRest (c 2 (.s 6))) (setS 4 0x80000 (setS 6 96 evicted)) = some 2,
      res (.ctxsRest (c 2 (.s 6))) (setS 4 0x80000 (setS 6 5 (onCore 5 (fun c => { c with gating := .gated }) evicted))) = some 1,
      res (.ctxsRest (c 2 (.s 6))) (setS 4 0x80000 (setS 6 2000 evicted)) = some 2,
      t (resumeThread (fault (stand 0)) (.group 0 0) 0) = some (.none, 0x10000, some true),
      t (resumeThread (fault (stand 0)) (.group 0 0) 0x40) = some (.none, 0x40, none),
      t (resumeThread (stand 0) (.group 0 0) 0x40) = some (.none, 0x10000, none)] : List Bool).all id = true := by decide +kernel

/-! ### Events -/

/-- An event of the moving agent leads to a thread with a property. -/
def then' (i : Instr) (s : State) (p : Thread → Bool) : Bool := leads i s fun u => (u.thread? s.cur).any p

/-- A group in a wait. -/
def waiting (w : Wait) (s : State) : State := me (fun t => { t with gstate := .parked, wait := w }) s

/-- Results, waits, swaps and the progress rule: R24, R142 to R148, R175, R245. Witness of `WaitEventsComplete`. -/
theorem test_waitEvents :
    (let a : Agent := .group 0 0
     let o : Outstanding :=
       { window := 1, opened := false, word := 0, pc := 0, vw := [(64 * 4 + 1, 7)], sw := [], pw := [], kw := [], flags := 1, eccu := 0, ecode := 0,
         addrs := [] }
     let out (s : State) : State := me (fun t => { t with outstanding := [o] }) s
     let due (s : State) : State := onDie 0 (fun d => { d with intpend := 1, introute := 0 }) s
     let s : State := stand 0x60
     let k : State := stand 0xE9
     let join (h : Dword) : State := me (fun t => { t with remote := some { opc := 0xE5, f := plain 15 .absent (.s 4) .absent 0 1, act := 1 } })
       (setS 4 h (waiting .join s))
     let lds : RemoteReq := { opc := 0xA2, f := plain 15 (.v 20) (.v 4) .absent 0x02 0, act := 3 }
     let none' (t : Thread) : Bool := t.wait = .none
     let pend (n : Nat) (s : State) : State :=
       { me (fun t => { t with gstate := .pending, nalloc := n }) s with threads := s.threads.map fun x => (x.1, { x.2 with gstate := .pending, nalloc := n }) }
     let two (g : Thread → Thread) (s : State) : State :=
       let u := withWaiter (pend 1024 s)
       let u := { u with blocks := u.blocks.map fun (x : Nat × Block) => (x.1, { x.2 with core := 0, base := 0 }) }
       u.modThread (.group 1 0) fun t => g { t with gstate := .active, wait := .none, clause := none, nalloc := 1024 }
     [then' (.registerResultWrite a 0 none (BitVec.allOnes 64)) (out s) (fun t => t.getV 4 1 = 7 && t.gst = 1 && t.outstanding.isEmpty),
      then' (.registerResultWrite a 0 (some 9) 3) (out s) (fun t => t.getV 4 1 = 0),
      then' (.registerResultWrite a 0 none (BitVec.allOnes 64)) (me (fun t => { t with latch := some (.v 4, 1) }) (out s)) (fun t => t.latch = none),
      then' (.registerResultWrite a 0 none (BitVec.allOnes 64)) (me (fun t => { t with latch := some (.v 5, 1) }) (out s)) (fun t => t.latch ≠ none),
      then' (.depPark a) s (fun t => t.gstate = .active),
      then' (.sleepExpiry a) (waiting .sleep s) none', then' (.sleepExpiry a) (me (fun t => { t with sleep := 1 }) (waiting .sleep s)) (fun t => t.wait = .sleep),
      then' (.joinRelease a) (join 0) (fun t => t.wait = .none && t.pc = 0x1000C), then' (.joinRelease a) s none',
      then' (.haltWake a) (due (waiting .halt k)) (fun t => t.wait = .none && t.pc = 0x1000C), then' (.haltWake a) (waiting .halt k) (fun t => t.wait = .halt),
      then' (.remoteScratchpadAccess a) (me (fun t => { t with remote := some lds }) (waiting .remote s)) (fun t => t.wait = .none && t.pc = 0x1000C),
      leads (.groupSwap 0 0) (pend 32 s) (fun u => (tlook 0 (u.core 0).swaps) = some { inn := some a, out := none }),
      leads (.groupSwap 0 0) s (fun u => (tlook 0 (u.core 0).swaps) = none),
      leads (.groupSwap 0 0) (two (fun t => { t with gstate := .parked, wait := .sleep }) s) (fun u =>
        (tlook 0 (u.core 0).swaps) = some { inn := some a, out := some (.group 1 0) } && (u.thread? (.group 1 0)).any fun t => t.gstate = .swapped),
      leads (.groupSwap 0 0) (two (fun t => { t with yielding := true }) s) (fun u => (u.thread? (.group 1 0)).any fun t => t.gstate = .pending && !t.yielding),
      leads (.groupSwap 0 0) (two id s) (fun u => u = two id s),
      leads (.swapComplete 0 0) (setSwap (pend 32 s) 0 0 (some { inn := some a, out := none })) (fun u => (u.thread? a).any fun t => t.gstate = .active),
      leads (.progressWindowExpiry 0 0) (onCore 0 (fun c => { c with noIssue := [(0, 65536)] }) s) (fun u => tget 0 0 (u.core 0).noIssue = 0),
      leads (.progressWindowExpiry 0 0) (onCore 0 (fun c => { c with noIssue := [(0, 65535)] }) s) (fun u => tget 0 0 (u.core 0).noIssue = 65535),
      leads (.evictedGroupReturn a) s (fun u => u = s)] : List Bool).all id = true := by decide +kernel

/-- The packet of a queue that is served, as four words at 0x30000, and what stands in its target. -/
def served (h addr x y : Dword) (s : State) : State :=
  let s := ((((s.putHome64 0x30000 h).putHome64 0x30008 addr).putHome64 0x30010 x).putHome64 0x30018 y)
  s.setQueue 0 { s.queue 0 with qcfg := 0x0001000100000004, qstate := 0, qbase := 0x30000 }

/-- Placement, ends, completion, packets, boot, the quote and the mark: R307, R344 to R355, R367 to R369. Witness of
`WorkEventsComplete`. -/
theorem test_workEvents :
    (let s : State := stand 0x60
     let w : Grid := { wideGrid with placed := 0, kernel := { wideKernel with nalloc := 32, ngrp := 1, nt := 0, ns := 0, spad := 0 } }
     let fresh (s : State) : State := { s with threads := [], blocks := [], grids := [(0, w)] }.putHome64 0x5058 1
     let q (s : State) : Queue := s.queue 0
     let gone (s : State) : State := { s with blocks := [], threads := [], grids := s.grids.map fun x => (x.1, { x.2 with endedBlocks := 1, recAddr := 0x20000 }) }
     let fl : InFlight := { idx := 2, is64 := true, va := 0x20000, phys := 0x20000, value := 5, stale := false, order := 0, page := (0x20000, 4096) }
     let behind (s : State) : State := s.setQueue 0 { s.queue 0 with outst := 2, flight :=
       [{ fl with idx := 9, is64 := false, va := 0x21000, phys := 0x21000, page := (0x21000, 4096) }, { fl with order := 1 }] }
     let flight (s : State) : State := s.setQueue 0 { s.queue 0 with flight := [fl], outst := 1 }
     [leads (.blockPlacement 0 0 0) (fresh s) (fun u => u.blocks.length = 1 && (u.thread? (.group 0 0)).isNone && (u.thread? (.group 1 0)).isSome),
      leads (.blockPlacement 9 0 0) s (fun u => u = s), leads (.blockEnd 9) s (fun u => u = s), leads (.blockEnd 0) s (fun u => u = s),
      leads (.blockEnd 0) (onBlock (fun k => { k with notEnded := 0 }) s) (fun u => u.blocks.isEmpty && (u.grid? 0).any fun g => g.endedBlocks = 1),
      leads (.gridComplete 0) (gone s) (fun u => (u.grid? 0).any (fun g => g.stage = 2 && g.status = 1) && u.home64 0x20018 = 1),
      leads (.gridComplete 0) s (fun u => u = s), leads (.gridComplete 9) s (fun u => u = s),
      leads (.packetCompletion 0 2) (flight s) (fun u => (q u).outst = 0 && u.home64 0x20000 = 5), leads (.packetCompletion 0 3) (flight s) (fun u => u = flight s),
      leads (.packetCompletion 0 2) (behind s) (fun u => u = behind s), leads (.packetCompletion 0 9) (behind s) (fun u => (q u).outst = 1),
      leads .firmwareStep (served 0x01 0 0 0 s) (fun u => (q u).ridx = 1 && (q u).qstate = 1 && (q u).outst = 0),
      leads .firmwareStep (served 0x21 0x20000 7 0 s) (fun u => (q u).ridx = 1 && (q u).flight.map (fun x => (x.idx, x.order, x.is64, x.phys, x.value)) = [(0, 0, true, 0x20000, 7)]),
      leads .firmwareStep (served 0x19 0x20000 0 0 s) (fun u => (q u).ridx = 1 && (q u).outst = 1),
      leads .firmwareStep (served 0x29 0x20000 1 0 s) (fun u => (q u).ridx = 1 && (q u).outst = 0),
      leads .firmwareStep (served 0x29 0x20000 1 1 s) (fun u => (q u).ridx = 0 && (q u).qstate = 2 && (q u).hcode = 2),
      leads .firmwareStep (served 0xF9 0 0 0 s) (fun u => (q u).qstate = 3), leads .firmwareStep s (fun u => u = s),
      leads .boot s (fun u => u = s), leads .boot State.reset (fun u => u.sys.booted && !u.sys.running && u.sys.bootstat = 1),
      leads .attestationQuote s (fun u => u = s), leads .attestationQuote { s with sys := { s.sys with quote := some 1 } } (fun u => u.sys.quote = none),
      leads .scPackageMark (onDie 3 (fun d => { d with scMax := [(1, { t := 5, c := 0 })] }) s) (fun u => u.sys.scMark = 5)] : List Bool).all id = true := by decide +kernel

/-- The power allowance, gating and the words of the device space: R262 to R265, R339, R349, R364, R367. Witness of
`PowerAndDeviceEventsComplete`. -/
theorem test_powerAndDevices :
    (let s : State := stand 0x60
     let lvl (n : Nat) (c : Int) : State := onDie 0 (fun d => { d with levelDue := true, level := n, count := c }) s
     let level (n : Nat) (c : Int) (m : Nat) : Bool := leads (.levelUpdate 0) (lvl n c) fun u => (u.die 0).level = m && !(u.die 0).levelDue
     let ask (cost : Nat) : State := onDie 0 (fun d => { d with leaves := [{ who := .matrix 0, cost := cost, prio := 0, wait := 0 }] })
       (onBlock (fun k => { k with mq := some { opc := 0xC5, f := plain 15 (.t 1) (.t 1) (.t 1) 0 0, pc := 0, asked := true, leave := false } }) s)
     let owing : State := onDie 0 (fun d => { d with ctxDebit := [(1, 10)] }) ((s.putHome64 0x5038 4).putHome64 0x5040 2)
     let word (i : Instr) (g : State → Dword) (v : Dword) : Bool := leads i s fun u => g u = v
     [canIssue s s.cur, !canIssue (lvl 0 65536) s.cur, !canIssue (onDie 0 (fun d => { d with level := 16 }) s) s.cur,
      leads (.leaveGrant 0 true) (onDie 0 (fun d => { d with levelDue := true }) (ask 100)) (fun u => (u.die 0).leaves.length = 1),
      level 0 65535 1, level 0 65536 0, level 16 0 16, level 3 262144 2, level 3 262143 3, level 0 262144 0,
      leads (.leaveGrant 0 true) (ask 100) (fun u => (u.die 0).debit = 100 && (u.die 0).slewHold && (u.die 0).leaves.isEmpty &&
        (u.block? 0).any fun k => k.mq.any fun m => m.leave),
      leads (.leaveGrant 0 true) s (fun u => u = s),
      leads (.allowanceRefill 0) (onDie 0 (fun d => { d with count := 5, debit := 3, clk := 63 }) s) (fun u =>
        (u.die 0).count = 12002 && (u.die 0).clk = 64 && (u.die 0).levelDue),
      leads (.energySettlement 0 1) owing (fun u => u.home64 0x5038 = 0xFFFFFFFFFFFFFFFA && stoppedOn u 0 1), leads (.energySettlement 16 1) owing (fun u => u = owing),
      leads (.leaveGrant 0 false) (onDie 0 (fun d => { d with level := 1, leaves := [{ who := .chunk 0 0 0, cost := 1, prio := 0, wait := 2048 }] }) s)
        (fun u => (u.die 0).leaves.length = 1),
      leads (.leaveGrant 0 false) (onDie 0 (fun d => { d with level := 1, leaves := [{ who := .matrix 0, cost := 1, prio := 0, wait := 2048 }] }) s)
        (fun u => (u.die 0).leaves.isEmpty),
      leads (.slewHoldEnd 0) (onDie 0 (fun d => { d with slewHold := true }) s) (fun u => !(u.die 0).slewHold),
      leads (.coreGate 5) s (fun u => (u.core 5).gating = .gating), leads (.coreGate 0) s (fun u => u = s),
      leads (.coreGate 5) (onCore 5 (fun c => { c with gating := .gating, tlb := [{ asid := 1, base := 0, size := 4096, pte := 1, pteAddr := 0, level := 0, leaf := true }] }) s)
        (fun u => (u.core 5).gating = .gated && (u.core 5).tlb.isEmpty),
      leads (.coreUngate 5) (onCore 5 (fun c => { c with gating := .gated }) s) (fun u => (u.core 5).gating = .on), leads (.coreUngate 5) s (fun u => u = s),
      word (.attcmdWrite 9) (fun u => u.sys.attcmd) 9, word (.kringWrite 15 9) (fun u => tget 0 15 u.sys.kring) 9, leads (.kringWrite 16 9) s (fun u => u = s),
      leads (.intpendWrite 16 1) (onDie 16 (fun d => { d with intpend := 3 }) s) (fun u => (u.die 16).intpend = 2), leads (.intpendWrite 17 1) s (fun u => u = s),
      leads (.fbstatWrite 0 0) (onDie 0 (fun d => { d with fbovf := true }) s) (fun u => !(u.die 0).fbovf),
      word (.pacfgWrite 0 0x0001000801001002) (fun u => (u.die 0).pacfg) 0x0001000801001002, word (.pacfgWrite 0 0x0001000801001001) (fun u => (u.die 0).pacfg) pacfgReset,
      word (.viewcfgWrite 0 0x0020012001200100) (fun u => (u.die 0).viewcfg) 0x0020012001200100, word (.viewcfgWrite 0 0x0021012001200100) (fun u => (u.die 0).viewcfg) viewcfgReset,
      word (.ftringWrite 0 0x800A) (fun u => (u.die 0).ftring) 0x800A, word (.ftringWrite 0 0x800B) (fun u => (u.die 0).ftring) 0,
      word (.registerWrite 0 0x60 0xFF) (fun u => (u.die 0).introute) 0x1F, leads (.registerWrite 0 0x7F8 9) s (fun u => u = s),
      word (.queueConfigWrite 63 false 9) (fun u => (u.queue 63).qbase) 9, word (.queueConfigWrite 0 true 16) (fun u => (u.queue 0).qcfg) 16,
      word (.queueConfigWrite 0 true 17) (fun u => (u.queue 0).qcfg) 4, word (.queueConfigWrite 0 true 3) (fun u => (u.queue 0).qcfg) 4, leads (.queueConfigWrite 64 false 9) s (fun u => u = s),
      word (.qcacheWrite 0 0x003FC04000000002) (fun u => (u.queue 0).qcache) 0x003FC04000000002, word (.qcacheWrite 0 3) (fun u => (u.queue 0).qcache) 0,
      word (.fabcfgWrite 0x00070000003F001E) (fun u => u.sys.fabcfg) 0x00070000003F001E, word (.fabcfgWrite 0x00070000003F001F) (fun u => u.sys.fabcfg) 0xFFFF88B500000010] :
       List Bool).all id = true := by decide +kernel

/-- A package that is number 7 with a peer 5 whose flow from die 2 stands at 3. -/
def peers (held : Option HeldFrame) (s : State) : State :=
  let s := peered s
  { s with sys := { s.sys with rxflows := [{ pkg := 5, die := 2, openNo := 1, expected := 3, frame := held }] } }

/-- A frame of kind `k` from it, of 8 bytes or of the value 8, to 0x20000. -/
def frame (k : BitVec 8) (seq : Word) : Frame :=
  { port := 0, dmac := 0, smac := 0, etype := 0x88B5, flits := if k = 0 then 1 else 0, src := 5, dst := 7, kind := k, srcDie := 2, hold := false,
    opening := false, seq := seq, ack := 0, addr := 0x20000, value := 8, tag := 0, openNo := 1,
    data := if k = 0 then [1, 2, 3, 4, 5, 6, 7, 8] else [], good := true }

/-- The fabric, the links, the rings and the storage port: R376 to R391. Witness of `FabricAndPortEventsComplete`. -/
theorem test_fabricAndPorts :
    (let s : State := stand 0x60
     let ps : State := peers none s
     let exp (u : State) : List Word := u.sys.rxflows.map fun x => x.expected
     let sent (u : State) : List (BitVec 8 × Word) := u.sys.wire.map fun g => (g.kind, g.ack)
     let flow (n : Nat) (held : Bool) : State :=
       { ps with sys := { ps.sys with flows := [{ die := 2, pkg := 5, openNo := 1, nextSeq := 5, timeouts := n, port := some 0, held := held, acked := true, unsent := 0,
                                                  unacked := [(frame 2 3, .reply (frameLock [] (frame 2 3))), (frame 2 4, .reply (frameLock [] (frame 2 4)))], waiting := [] }] } }
     let left (u : State) : List Nat := u.sys.flows.map fun x => x.unacked.length
     let ring (s : State) : State := { ((s.putHome64 0x20000 0x30000).putHome64 0x20008 0x31000).putHome64 0x20018 0x0000000000000001 with
       sys := { s.sys with kring := [(0, 0x20000)], ringDue := [0], portstat := [(0, 0x8000000000000000)] } }
     let rx (s : State) : State := ((ring s).putHome64 0x20020 1).putHome64 0x31000 0x32000
     let tx (s : State) : State := (((ring s).putHome64 0x30000 0x32000).putHome64 0x30008 2).putHome64 0x32000 0xBBAA
     let opens (k : BitVec 8) : Frame := { frame k 0 with opening := true, openNo := 2 }
     let other : Frame := { frame 0 3 with etype := 0x0800 }
     let long : Frame := { other with data := List.replicate 9300 0 }
     let pause : List Byte := List.replicate 12 0 ++ [0x88, 0x08, 0, 1]
     [leads (.fabricWrite { other with etype := 0x8808, src := 0x0100 }) (rx s) (fun u => u = rx s), leads (.fabricWrite long) (rx s) (fun u => u = rx s),
      leads (.fabricWrite other) (rx s) (fun u => u = ringReceive (rx s) 0 (frameBytes other) true),
      leads (.fabricWrite (opens 0)) { ps with sys := { ps.sys with rxflows := [] } } (fun u => exp u = [1] && u.home64 0x20000 = 0x0807060504030201),
      leads (.fabricWrite (opens 0)) ps (fun u => exp u = [1] && u.sys.rxflows.map (fun x => x.openNo) = [2]),
      leads (.fabricWrite { opens 0 with opening := false }) ps (fun u => u.sys.wire.any fun g => g.kind = 6 && g.ack = 0),
      leads (.fabricWrite { frame 0 3 with addr := 0x40000000 }) ps (fun u => u.sys.rxflows.any (fun x => x.frame.isSome) &&
        (u.die 16).locks.map (fun l => (l.lo, l.hi, l.write)) = [(0x40000000, 0x40000100, true)] && (u.die 16).fbuf.length = 1),
      leads (.fabricNak { frame 6 40 with value := 1 }) (flow 0 false) (fun u => u = flow 0 false),
      leads (.fabricAck { frame 5 0 with ack := 5 }) { ps with sys := { ps.sys with flows := [] } } (fun u => exp u = [3]),
      leads (.portLinkChange 1 true 5) s (fun u => u = s), leads (.kernelRingReceive 0 pause true) (rx s) (fun u => u = rx s),
      leads (.kernelRingReceive 0 (frameBytes (frame 0 3)) true) ps (fun u => exp u = [4] && u.home64 0x20000 = 0x0807060504030201),
      leads (.kernelRingReceive 0 [1] true) { s with sys := { s.sys with kring := [(0, 2 ^ 60)], ringDue := [0], portstat := [(0, 0x8000000000000000)] } }
        (fun u => u.sys.ringDue.isEmpty && ringOf u 0 = none && (u.die 16).fbuf.map (fun r => r.agent) = [5]),
      leads (.kernelRingReceive 0 [1] true) ((rx s).putHome64 0x20008 (2 ^ 60)) (fun u => (u.die 16).fbuf.map (fun r => r.agent) = [5]),
      leads (.kernelRingReceive 1 [1] true) (rx s) (fun u => u = rx s),
      leads (.storageDeviceRequest false 0x20000 8 []) { s with sys := { s.sys with spcfg := 0x0001000000000000 } } (fun u => u.threads = s.threads && u.nextBlock = s.nextBlock)] ++
     [leads (.fabricFrameLost { frame 0 3 with good := false }) ps (fun u => u.sys.lost = 1), leads (.fabricFrameLost (frame 0 3)) ps (fun u => u = ps),
      leads (.fabricWrite (frame 0 3)) ps (fun u => exp u = [4] && sent u = [(5, 4)] && u.home64 0x20000 = 0x0807060504030201),
      leads (.fabricWrite (frame 0 2)) ps (fun u => exp u = [3] && sent u = [(6, 3)]), leads (.fabricWrite (frame 1 3)) ps (fun u => u = ps),
      leads (.fabricReadRequest (frame 1 3)) ps (fun u => exp u = [4] && u.sys.wire.any fun g => g.kind = 5),
      leads (.fabricSignalSet (frame 3 3)) ps (fun u => exp u = [4] && u.home64 0x20000 = 8),
      leads (.fabricSignalAdd (frame 4 3)) (ps.putHome64 0x20000 1) (fun u => exp u = [4] && u.home64 0x20000 = 9),
      leads (.fabricSignalAdd { frame 4 3 with addr := 0x40000000 }) ps (fun u => exp u = [3] && u.sys.rxflows.any fun x => x.frame.isSome),
      leads (.fabricWrite (frame 0 3)) (peers (some { frame := frame 0 3, peer := [], lock := { asid := 1, lo := 0, hi := 0, write := true, owner := .port } }) s) (fun u => exp u = [3] && u.sys.wire.any fun g => g.kind = 6 && g.hold),
      leads (.fabricWrite (frame 0 3)) (ps.putHome64 0x40058 0x800001) (fun u => exp u = [4] && u.home64 0x20000 = 0 && u.sys.wire.any fun g => g.kind = 6),
      leads (.fabricReadData (frame 2 3)) ps (fun u => exp u = [4] && sent u = [(5, 4)]),
      leads (.fabricReadData (frame 2 3)) { ps with sys := { ps.sys with peertab := 0 } } (fun u => exp u = [4] && sent u = [(6, 4)]),
      leads (.retransmitTimeout 2 5) { flow 0 false with sys := { (flow 0 false).sys with flows := (flow 0 false).sys.flows.map fun x => { x with unsent := 1 } } }
        (fun u => u.sys.wire.length = 2 && u.sys.retx = 1 && u.sys.flows.map (fun x => x.unsent) = [0]),
      leads (.fabricAck { frame 5 0 with ack := 4 }) (flow 0 false) (fun u => left u = [1]), leads (.fabricNak { frame 6 0 with ack := 3 }) (flow 0 false) (fun u =>
        u.sys.wire.length = 2 && u.sys.retx = 2),
      leads (.fabricNak { frame 6 0 with hold := true }) (flow 0 false) (fun u => u.sys.flows.any fun x => x.held),
      leads (.fabricNak { frame 6 3 with value := 1 }) (flow 0 false) (fun u => left u = [1]),
      leads (.retransmitTimeout 2 5) (flow 62 false) (fun u => u.sys.flows.any (fun x => x.timeouts = 63) && u.sys.wire.length = 2),
      leads (.retransmitTimeout 2 5) (flow 63 false) (fun u => u.sys.flows.isEmpty && u.sys.flowfail = 1), leads (.retransmitTimeout 2 5) (flow 0 true) (fun u => u = flow 0 true),
      leads (.portLinkChange 15 true 3) s (fun u => portUp u 15), leads (.portLinkChange 0 false 0) (flow 0 false) (fun u => !portUp u 0 && u.sys.flows.all fun x => x.port ≠ some 0),
      leads (.portLinkChange 16 true 3) s (fun u => u = s),
      leads (.kernelRingReceive 0 [0xAA, 0xBB] true) (rx s) (fun u => u.home64 0x32000 = 0xBBAA && (u.die 16).intpend.getLsbD 0),
      leads (.kernelRingReceive 0 [0xAA, 0xBB] true) (ring s) (fun u => u = ringSync (ring s) 0), leads (.kernelRingTransmit 0) (tx s) (fun u => u.sys.sentRaw = [[0xAA, 0xBB]]),
      leads (.kernelRingTransmit 1) (tx s) (fun u => u = tx s), leads (.pcieLinkChange 4 6) s (fun u => u.sys.spcfg = 0x46), leads (.pcieLinkChange 5 6) s (fun u => u = s),
      leads (.pcieLinkChange 0 6) s (fun u => u = s),
      leads (.storageDeviceRequest true 0x20000 0 [0xAA, 0xBB]) { s with sys := { s.sys with spcfg := 0x0001000000000000 } } (fun u => u.home64 0x20000 = 0xBBAA),
      leads (.storageDeviceRequest true 0x20000 0 [0xAA, 0xBB]) s (fun u => u.home64 0x20000 = 0 && (u.die 16).fbuf.length = 1)] : List Bool).all id = true := by
  decide +kernel

/-! ### The issue, the step and the encoding -/

/-- Reserved opcodes at the ends of their ranges: R30. Witness of `ReservedOpcodesTrap`. -/
theorem test_reservedOpcodes :
    ([0x35, 0x3F, 0x53, 0x5F, 0x78, 0x7F, 0x8B, 0x9F, 0xB4, 0xBF, 0xDE, 0xDF, 0xEA, 0xFF].all fun o =>
      let w : BitVec 96 := BitVec.ofNat 96 (o * 2 ^ 88 + 15 * 2 ^ 79)
      decide ((decodeWord w).toOption = some (.reservedOpcode w)) && endOf (.reservedOpcode w) (stand 0x60) = .trap cILLOP 0 0 &&
        reservedRanges.any fun r => decide (r.1 ≤ opcodeOf w) && decide (opcodeOf w ≤ r.2)) = true := by decide +kernel

/-- A word without an active lane goes on whatever its fields: R31. Witness of `IdleWordIsNoOp`. -/
theorem test_idle :
    ([.fadd (plain 15 (.v 1) (.v 2) (.v 3) 0x28 0), .trap (plain 15 .absent .absent .absent 0 7), .iadd (plain 15 (.v 1023) (.q 1) (.q 2) 0 0)] :
      List Instr).all (fun i => endOf i (lanes 0 (stand 0x60)) = .past) = true := by decide +kernel

/-- The checks in their order: the profile, the fields, the privilege, the allocation: R28 to R31. Witness of `ChecksInOrder`. -/
theorem test_checks :
    (let small (s : State) : State := me (fun t => { t with nalloc := 32 }) s
     let add (d a : BitVec 10) : Instr := .iadd (plain 15 (.v d) (.v a) .immS 0 1)
     [endOf (.pend (plain 15 .absent .absent .absent 0 0)) (stand 0x60) = .trap cILLOP 0 0,
      endOf (.fadd (plain 15 (.v 1) (.v 2) (.v 3) 0x28 0)) (stand 0x20) = .trap cILLOP 0 0,
      endOf (.nop (plain 15 .absent .absent .absent 0 0)) (me (fun t => { t with vdepth := 1 }) (stand 0x60)) = .past,
      endOf (.barw (plain 15 .absent .absent .absent 0 0)) (me (fun t => { t with vdepth := 1 }) (stand 0xAE)) = .trap cILLOP 0 0,
      endOf (.eret (plain 15 .absent .absent .absent 0 0)) (stand 0x77) = .trap cPROT 0 0,
      endOf (add 31 31) (small (stand 0)) = .past, endOf (add 32 1) (small (stand 0)) = .trap cREGRANGE 0 32,
      endOf (add 1 32) (small (stand 0)) = .trap cREGRANGE 0 32] : List Bool).all id = true := by decide +kernel

/-- Reads of queue ports: R222, R223. Witness of `QueuePortReads`. -/
theorem test_queuePorts :
    (let i : Instr := .iadd (plain 15 (.v 4) (.q 3) .immS 0 1)
     let ap (es : List (List Word)) (s : State) : State := onBlock (fun k => { k with hasAp := true, ports := [(3, es)] }) s
     let ended (s : State) : State := onBlock (fun k => { k with apEnded := true }) s
     [endOf i (stand 0) = .trap cQERR 9 0, endOf i (ap [] (stand 0)) = .waits .queue, endOf i (ended (ap [] (stand 0))) = .trap cQERR 6 0,
      ends 0 i (ap [[7, 8], [9]] (stand 0)) .past, regs i (ap [[7, 8], [9]] (stand 0)) (fun t => (t.getV 4 0, t.getV 4 1)) = some (8, 9),
      after i (ap [[7, 8], [9]] (stand 0)) (fun u => (u.block? 0).map (fun k => tget [] 3 k.ports)) = some (some [[9]])] : List Bool).all id = true := by
  decide +kernel

/-- The state for the next step is one in which the word's agent is the next to issue, its bytes are read and decoded, and step runs
it, for a translated agent and for one that runs untranslated. Witness of `StepRunsDecodedWord`. -/
theorem test_step :
    (let w : Nat := 0x1D1780406E03FFD801234567
     let s : State := State.reset.withFetchWord 96 w
     let k : State := State.reset.withFetchWord 96 0xE907807FFFFFFFC000000000
     let fetched (s : State) : Bool := match s.agenda with
       | .issue a :: r =>
         match s.thread? a, fetchBytes { s with agenda := r, cur := a } a 0x10000 3 with
         | some t, .ok (bs, _) => canIssue s a && !t.lateDue && t.replay.isNone && t.pc = 0x10000 && (wordOfBytes bs).isSome && (decode bs).toOption.isSome
         | _, _ => false
       | _ => false
     [fetched s, fetched k, physicalOf k (.group 0 0), !physicalOf s (.group 0 0),
      match step s with
      | .next u => (u.thread? (.group 0 0)).any fun t => t.getS 6 = 0x0123456700000000 && t.pc = 0x1000C
      | _ => false] : List Bool).all id = true := by decide +kernel

/-- Memory in canonical form, before and after a step. Witness of `StepKeepsMemoryCanonical`. -/
theorem test_memWf :
    (State.reset.withFetchWord 96 0x1D1780406E03FFD801234567).memWf ∧
      ((match step (State.reset.withFetchWord 96 0x1D1780406E03FFD801234567) with
        | .next u => some (trising u.mem)
        | _ => none) = some true) := by decide +kernel

/-- Well-formed instructions with words, and a word that decodes. Witness of `DecodeOfEncode` and `EncodeOfDecode`. -/
theorem test_roundTrip :
    ([.iadd (plain 15 (.v 6) (.v 6) .immS 0 1), .nop (plain 15 .absent .absent .absent 0 0), .mma (plain 15 (.t 4) (.t 1) (.t 2) 0 0),
      .reservedOpcode (0x35 <<< 88)] : List Instr).all (fun i =>
      i.wf && match encode i with
        | some w => decide ((decodeWord w).toOption = some i) && decide ((decode (bytesOfWord w)).toOption = some i)
        | none => false) = true := by decide +kernel

/-- Values that meet the hypotheses of `FloatSpecialCases` and of `ExactArithmeticThenRounding`. -/
theorem test_floatWitness :
    (let z (n : Bool) : Ex := Ex.zero n
     let one : Ex := Ex.ofInt 1
     [(z true).isZero, !one.isZero, (z false).isZero, !one.sticky, Val.isSig (.fin one) = false, Val.isNan (.nan false),
      fDiv .f32 .rn false (.fin one) (.fin (z true)) = (0xFF800000, fDZ), fSub .f32 .rm false (.fin one) (.fin one) = (0x80000000, 0),
      (one.addZ one false).scaled 0 = 2, (one.mul one).scaled 0 = 1, widen .f32 0x3F800000 ≠ .inf false,
      roundVal .f32 .rz false (widen .f32 0x00000001) = (1, 0)] : List Bool).all id = true := by decide +kernel

/-! ### Values and flags that the statements fix -/

/-- Functions of R97 at values for which its table gives the result: 1 / 3, 1 / √4, 2^−149, log2 1, sines and cosines of multiples of
1/2, and of a number that is none. Witness of `FloatWordsComplete`. -/
theorem test_functionValues :
    (let fin (n : Bool) (m : Nat) (e : Int) : Val := .fin { neg := n, m := m, e := e, sticky := false }
     let fn (k : Nat) (v : Val) : Nat × Flags := fTrans .f32 false k v
     [fn 0 (fin false 3 0) = (0x3EAAAAAB, fIX), fn 1 (fin false 1 2) = (0x3F000000, 0), fn 2 (fin true 149 0) = (1, 0),
      fn 3 (fin false 1 0) = (0, 0), fn 4 (fin false 3 (-1)) = (0xBF800000, 0), fn 4 (fin true 2 0) = (0x80000000, 0),
      fn 5 (fin false 5 (-1)) = (0, 0), fn 5 (fin false 3 0) = (0xBF800000, 0), (fn 4 (fin false 1 (-2))).2 = fIX,
      fn 3 (fin true 0 0) = (0xFF800000, fDZ), fn 1 (fin true 0 0) = (0xFF800000, fDZ), fn 0 (.inf true) = (0x80000000, 0),
      fn 2 (.inf true) = (0, 0), fn 5 (.inf false) = (0x7FC00000, fIV), fn 2 (.nan true) = (0x7FC00000, fIV),
      fn 2 (.nan false) = (0x7FC00000, 0)] : List Bool).all id = true := by decide +kernel

/-- Numbers that are no multiple of 1, of 1/2. Witness of the last clauses of `functionValues`. -/
theorem test_noMultiples : (∀ i, ¬isMult (dy 1 (-1)) i 0) ∧ ∀ i, ¬isMult (dy 1 (-2)) i (-1) := by
  constructor <;> intro i h
  · have h' : (1 : Int) = i * 2 := h
    omega
  · have h' : (1 : Int) = i * 2 := h
    omega

/-- Enabled flags of the block, cross-lane and tile words: R70, R186. Witness of `BlockWordsComplete`, of the traps of the cross-lane
words and of `TileWordsComplete`. -/
theorem test_enabledFlagsElsewhere :
    (let on (s : State) : State := me (fun t => { t with gst := 0x001F0000 }) s
     let half : Instr := .bdec (plain 15 (.v 42) (.v 41) (.v 2) 0x10 0)
     let reqb : Instr := .reqb (plain 15 (.v 42) (.v 41) .immZ 0 1)
     let scl : Instr := .scl (plain 15 (.v 41) (.v 40) .immS 0 127)
     let two (opc : Nat) : State := setV 1 0 0x3F800000 (setV 1 1 0x33000000 (lanes 3 (stand opc)))
     let tile (f : TFmt) (s : State) : State := onBlock (fun k => k.setTile 1 { k.tile 1 with fmt := f }) (oneTile 1 s)
     let lrf (s : State) : State := onBlock (fun k => k.setTile 1 { k.tile 1 with fmt := .lrf, rank := 1 })
       (onBlock (fun k => { k with slots := [(4096, 1), (4098, 0x80), (4099, 0x3F), (4224, 1), (4226, 0x80), (4227, 0x3F)] }) (oneTile 1 s))
     [endOf half (on (lanes 1 (setV 41 0 0x0400C804 (encoded 0x4D)))) = .trap cFPEXC 0 (fOF ||| fIX).toNat,
      endOf (.benc (plain 15 (.v 41) (.v 40) .absent 0x20 4)) (on (lanes 0xF (fourValues 0x4E))) = .trap cFPEXC 0 fIX.toNat,
      endOf reqb (on (lanes 1 (encoded 0x4F))) = .trap cFPEXC 0 (fOF ||| fIX).toNat,
      endOf scl (on (lanes 1 (fourValues 0x52))) = .trap cFPEXC 0 (fOF ||| fIX).toNat,
      endOf (.tst (plain 15 (.t 1) (.v 4) (.s 6) 0 0)) (on (lanes 1 (setV 4 0 0x3F800001 (tile .d16b (stand 0xC2))))) =
        .trap cFPEXC 0 fIX.toNat,
      endOf (.tld (plain 15 (.v 12) (.t 1) (.s 6) 0 0)) (on (lanes 1 (lrf (stand 0xC1)))) = .trap cFPEXC 0 fIX.toNat,
      endOf (.gred { plain 15 (.s 30) (.v 1) .absent 0 0 with fn := 6 }) (on (two 0x85)) = .trap cFPEXC 0 fIX.toNat,
      endOf (.gscan { plain 15 (.v 5) (.v 1) .absent 0 0 with fn := 6 }) (on (two 0x86)) = .trap cFPEXC 0 fIX.toNat,
      endOf (.ddx (plain 15 (.v 20) (.v 1) .absent 0 0)) (on (two 0x88)) = .trap cFPEXC 0 fIX.toNat] : List Bool).all id = true := by decide +kernel

/-- Words whose lanes fail late, all at once, or on their spill area: R162, R252, R327. Witness of `FailingLanesTrapAndReplay` and of
`ClauseEntryWordsComplete`. -/
theorem test_failingElsewhere :
    (let ss (la : BitVec 4) : Fields := { plain 15 (.s 20) (.s 4) .absent 0x03 8 with la := la }
     let ld : Fields := { plain 15 (.v 20) (.v 4) .absent 0x02 0 with la := 1 }
     let rep (t : Thread) := t.replay.map fun r => r.lanes
     let poisoned : State := { atTwo 0xA0 0x20000 0x21000 with badLines := [0x20000 / 128] }
     let spill (s : State) : State := (s.putHome64 0x5020 0x40000000).putHome64 0x5028 5
     let redo (t : Thread) := (t.wait, t.pc, t.clause.map fun c => c.redo)
     let late (t : Thread) := t.outstanding.map fun o => (o.eccu, o.ecode, tget 0 0 o.addrs)
     [endOf (.st (ss 0)) (setS 4 0x3FFFFFF8 (stand 0xA1)) = .trap cPAGEF 2 1,
      regs (.st (ss 0)) (setS 4 0x3FFFFFF8 (stand 0xA1)) rep = some (some 0xFFFFFFFF),
      endOf (.ld (ss 1)) (setS 4 0x3FFFFFF8 (stand 0xA0)) = .trap cPAGEF 2 0,
      regs (.ld (ss 1)) (setS 4 0x3FFFFFF8 (stand 0xA0)) rep = some (some 0xFFFFFFFF),
      ends 0xA0 (.ld ld) poisoned .past, regs (.ld ld) poisoned late = some [(1, 1, 0x20000)],
      endOf (.ld { ld with la := 0 }) poisoned = .trap cECCU 1 0, endOf (.ld ld) (atTwo 0xA0 0x20000 0x40000000) = .trap cPAGEF 2 0,
      regs (.clent (plain 15 .absent (.v 4) .immZ 0 0)) (spill (keyed 0xB0 [])) redo = some (.clause, 0x10000, some true),
      regs (.cltry (plain 15 (.p 3) (.v 4) .immZ 0 0)) (spill (keyed 0xB1 [])) redo = some (.clause, 0x10000, some true)] :
       List Bool).all id = true := by decide +kernel

/-- A grid record at 0x20000 of one block of one group, with its descriptor at 0x24000, in a context with one save area. -/
def gridInMemory (s : State) : State :=
  ((((((s.putHome64 0x20000 0x24000).putHome64 0x20008 1).putHome64 0x20010 32).putHome64 0x24000 0x20000).putHome64 0x24018 0x400001).putHome64
    0x5050 0x100000).putHome64 0x5058 1

/-- A package without work whose queue 0 has a packet with that header and address, that record in memory. -/
def onePacket (h addr : Dword) : State := { gridInMemory (served h addr 0 0 (stand 0x60)) with threads := [], blocks := [], grids := [] }

/-- A gang record of one grid at 0x21000. -/
def gangOf (mask : Dword) (s : State) : State := ((s.putHome64 0x21000 1).putHome64 0x21010 0x20000).putHome64 0x21018 mask

/-- The grids of a package, and its queue 0. -/
def workOf (u : State) : List (Nat × BitVec 16) × BitVec 3 × BitVec 16 :=
  (u.grids.map fun x => (x.2.placed, x.2.status), (u.queue 0).qstate, (u.queue 0).outst)

/-- A firmware step takes a grid, and one whose descriptor breaks R343. Witness of `WorkEventsComplete`. -/
theorem test_gridPackets :
    ([after .firmwareStep (onePacket 0x09 0x20000) workOf = some ([(0, 0)], 1, 1),
      after .firmwareStep ((onePacket 0x09 0x20000).putHome64 0x24018 0) workOf = some ([(0, 0x103)], 1, 1)] : List Bool).all id = true := by
  decide +kernel

/-- A firmware step places a gang, fails a malformed one, and holds one without room, at its 16th attempt with its dies drained: R358,
R359. Witness of `WorkEventsComplete`. -/
theorem test_gangPackets :
    (let attempts (u : State) := ((u.queue 0).qstate, (u.queue 0).hcode, (u.queue 0).attempts, (u.queue 0).drain)
     let tried (s : State) : State := s.setQueue 0 { s.queue 0 with attempts := 15 }
     [after .firmwareStep (gangOf 1 (onePacket 0x11 0x21000)) workOf = some ([(1, 0)], 1, 1),
      after .firmwareStep (gangOf 0x10001 (onePacket 0x11 0x21000)) workOf = some ([(0, 0x403)], 1, 1),
      after .firmwareStep (tried (gangOf 1 (gridInMemory (served 0x11 0x21000 0 0 (stand 0x60))))) attempts = some (2, 3, 16, 1)] :
       List Bool).all id = true := by decide +kernel

/-- Tiles of formats and shapes that do not fit: R190, R201 to R206. Witness of `MatrixResults`. -/
theorem test_matrixShapes :
    (let f (x : BitVec 32) : Fields := plain 15 (.t 3) (.t 1) (.t 2) 0 x
     let s : State := oneTile 3 (oneTile 1 (oneTile 2 (stand 0xC5)))
     let bad (opc : Nat) (x : BitVec 32) (n : Nat) (g : Tile → Tile) (m c : Nat) : Bool :=
       (s.block? 0).any fun k => match mxGrant (k.setTile n (g (k.tile n))) opc (f x) 0 0 with
         | .error i => i = streamTrap cTILESTATE (256 * m + c)
         | .ok _ => false
     let lrf (t : Tile) : Tile := { t with fmt := .lrf }
     let tall (t : Tile) : Tile := { t with rows := 2 }
     [bad 0xC5 0 3 lrf 3 2, bad 0xC6 0 3 lrf 3 2, bad 0xC5 0 1 lrf 1 2, bad 0xC5 0 2 (fun t => { t with fmt := .d16b }) 2 2,
      bad 0xC5 0 1 tall 3 3, bad 0xC7 0 1 id 2 2, bad 0xC7 0 1 (fun t => { t with fmt := .lrf, cols := 2 }) 3 3, bad 0xC8 0 1 tall 3 3,
      bad 0xC9 0 1 id 1 2, bad 0xCB 0 1 lrf 1 2, bad 0xCB 0 2 lrf 2 2, bad 0xCB 5 1 id 3 3,
      bad 0xC5 0 1 (fun t => { t with st := .empty }) 1 1] : List Bool).all id = true := by decide +kernel

/-- Words that wait for outstanding results read what these write: R24, R121, R127. Witness of `ExitLeavesLanes` and of
`TrapWordsRaiseTheirCauses`. -/
theorem test_settledWords :
    (let o : Outstanding :=
       { window := 1, opened := false, word := 0, pc := 0x40, vw := [], sw := [(1, 0xFF)], pw := [(2, BitVec.allOnes 64, 1)], kw := [], flags := 1,
         eccu := 0, ecode := 0, addrs := [] }
     let out (o : Outstanding) (opc : Nat) : State := me (fun t => { t with outstanding := [o] }) (lanes 0xF (stand opc))
     let ex : Instr := .exit (plain 2 .absent .absent .absent 0 0)
     let sv : Instr := .exit { plain 15 .absent (.s 1) .absent 0 0x24 with fn := 1 }
     let sysc : Instr := .sysc { plain 15 (.v 2) (.v 4) .absent 0 3 with fn := 2 }
     let bkpt : Instr := .bkpt (plain 15 .absent .absent .absent 0 9)
     let done (t : Thread) := (t.exm, t.gst, t.outstanding.length)
     let late : Outstanding := { o with eccu := 1, ecode := 1 }
     [regs ex (out o 0x67) done = some (0xE, 1, 0), regs sv (out o 0x67) done = some (0xF0, 1, 0),
      endOf sysc (out o 0x75) = .trap cSYSCALL 3 0, endOf sysc (lanes 0xF (stand 0x75)) = .past,
      regs sysc (out { o with pw := [] } 0x75) done = some (0xF, 1, 0),
      endOf bkpt (out o 0x76) = .trap cBKPT 9 0, endOf ex (out late 0x67) = .trap cECCU 1 0,
      endOf sysc (out { late with pw := [] } 0x75) = .trap cECCU 1 0, endOf bkpt (out late 0x76) = .trap cECCU 1 0] :
       List Bool).all id = true := by decide +kernel

/-- A second `JOIN` of a child, a read of two ports, a device's lock, and a group of another level: R62, R216, R279, R309, R372. Witness
of `PackageWordsComplete`, `QueuePortReads`, `FabricAndPortEventsComplete` and `WaitEventsComplete`. -/
theorem test_sharedWaits :
    (let join : Instr := .join (plain 15 (.s 20) (.s 4) .absent 0 1)
     let freed (g : Nat) : State :=
       onDie 0 (fun d => { d with gens := [(3, 1)], joined := [(3, (g, 9))] }) (setS 4 0x0001000000010003 (stand 0xE5))
     let two : Instr := .iadd (plain 15 (.v 4) (.q 3) (.q 4) 0 0)
     let ports (x y : List (List Word)) : State := onBlock (fun k => { k with hasAp := true, ports := [(3, x), (4, y)] }) (stand 0)
     let left (i : Instr) (s : State) : Option (Option (Tab (List (List Word)))) := after i s fun u => (u.block? 0).map fun k => k.ports
     let device (s : State) : State := { s with sys := { s.sys with spcfg := 0x0001000000000000 } }
     let locked (s : State) : Option State := match step { device s with agenda := [.deviceLock true 0x20001 2] } with
       | .next u => some u
       | _ => none
     let sleeps (t : Thread) : Thread := { t with gstate := .active, nalloc := 1024 }
     let levels (s : State) : State :=
       let u := withWaiter (me (fun t => { t with gstate := .pending, nalloc := 1024, prio := 7 }) s)
       let u := { u with blocks := u.blocks.map fun (x : Nat × Block) => (x.1, { x.2 with core := 0, base := 0 }) }
       let u := u.modThread (.group 1 0) fun t => { t with wait := .none, clause := none, gstate := .pending, nalloc := 32, vdepth := 1 }
       { u with threads := u.threads ++ [(.group 0 1, sleeps (Thread.launch 0x20000 8 1 0))] }
     [regs join (freed 0) (fun t => t.getS 20) = some 9, regs join (freed 1) (fun t => t.getS 20) = some 4,
      endOf two (ports [[7]] []) = .waits .queue, left two (ports [[7]] []) = some (some [(3, [[7]]), (4, [])]),
      endOf two (ports [[7]] [[1], [2]]) = .past, left two (ports [[7]] [[1], [2]]) = some (some [(3, []), (4, [[2]])]),
      (locked (stand 0x60)).map (fun u => (u.die 16).locks.map fun l => (l.lo, l.hi, l.write)) = some [(0x20000, 0x20100, true)],
      (locked (stand 0x60)).any fun u => leads (.storageDeviceRequest true 0x20001 0 [0xAA, 0xBB]) u fun v =>
        (v.die 16).locks.isEmpty && v.homeByte 0x20002 = 0xBB,
      leads (.groupSwap 0 0) (levels (stand 0x60)) (fun u => (tlook 0 (u.core 0).swaps) = some { inn := some (.group 1 0), out := none })] :
       List Bool).all id = true := by decide +kernel

/-- A transfer that stops while its block is in memory is written to its block's record, and a read request keeps its lock while its
data has no port: R227, R386. Witness of `TransferEventsComplete` and `FabricAndPortEventsComplete`. -/
theorem test_recordedStops :
    (let f : Fields := { plain 15 (.s 8) (.s 9) (.s 12) 0 0 with fn := 5 }
     let l : PhSlot :=
       { opc := 0xD3, f := f, pc := 0, stopped := true, locked := true, n := 4, cursor := 2, esz := 1, dst := .spad 0x30, src := .spad 0,
         order := 0, asked := false, leave := false, sent := none }
     let s : State := stand 0xD3
     let out (l : PhSlot) : State := onBlock (fun k => { k with
         resident := false, saved := ((s.pctx 0 0).map fun p => ({
           ctx := 0, p := { p with slots := [(0, { l with cursor := 0, stopped := false })] }, t := Thread.launch 0x10000 8 1 0 } : SavedCtx)).toList })
       (onCore 0 (fun c => { c with pctx := c.pctx.map fun x => (x.1, { x.2 with slots := [(0, l)] }) }) s)
     let see (u : State) := ((u.pctx 0 0).isSome, (u.block? 0).map fun k => k.saved.map fun y => y.p.slots.map fun z => (z.2.cursor, z.2.stopped))
     let read (ports : Tab Dword) : State := let ps := peers none (stand 0x60); { ps with sys := { ps.sys with portstat := ports } }
     let locks (u : State) : List (Nat × Nat × Bool) := (u.die 16).locks.map fun l => (l.lo, l.hi, l.write)
     [settledHeader 0 3 true 4 = 0x4600000400000008, settledHeader 0 3 false 4 = 8,
      see (settleContext (out l) 0 0) = (false, some [[(2, true)]]),
      see (settleContext (out { l with stopped := false }) 0 0) = (false, some [[(2, false)]]),
      see (settleContext (out { l with sent := some 1 }) 0 0) = (true, some [[(0, false)]]),
      after (.fabricReadRequest (frame 1 3)) (read []) locks = some [(0x20000, 0x20100, false)],
      after (.fabricReadRequest (frame 1 3)) (read [(0, 0x8000000000000000)]) locks = some []] : List Bool).all id = true := by
  decide +kernel

end Sys2Proof.Tests
end

section
/-!
SUPPORT. Proofs about the control words: how a word with an operand or a guard that its entry refuses traps, what a taken branch
leaves, and from these what the words of the execution mask, of branches and of predicates do (R114 to R119, R122).
-/
namespace Sys2Proof.Machine.ControlWords

/-! ### Legality of a word that runs -/

theorem fields_of_runs {opc : Nat} {f : Fields} {s : State} {e : Env} {ports : Tab (List (List Word))}
    (h : Runs opc f s e ports) : e.f = f := by
  obtain ⟨-, -, -, -, -, hf, -⟩ := h.env
  exact hf

/-- The first check of R31: an illegal word traps `ILLOP`, whatever the other checks would say. -/
theorem checkWord_illegal {opc : Nat} {f : Fields} (h : legal opc f = false) (s : State) (a : Agent) (t : Thread) (act : Mask) :
    checkWord s a t opc f act = some (Trap.all cILLOP 0 act) := by
  simp [checkWord, h]

theorem legal_of_runs {opc : Nat} {f : Fields} {s : State} {e : Env} {ports : Tab (List (List Word))}
    (h : Runs opc f s e ports) : legal opc f = true := by
  obtain ⟨t, -, hentry, -⟩ := h
  obtain ⟨-, -, -, -, -, -, -, hcheck⟩ := entry_runs hentry
  refine Bool.of_not_eq_false fun hill => ?_
  rw [checkWord_illegal hill] at hcheck
  exact Option.some_ne_none _ hcheck

/-- The entry of a word that runs accepts the fields that the word reads. -/
theorem entryOk_of_runs {opc : Nat} {f : Fields} {s : State} {e : Env} {ports : Tab (List (List Word))}
    (h : Runs opc f s e ports) : entryOk opc e.f = true := by
  have hl := legal_of_runs h
  simp only [legal, Bool.and_eq_true] at hl
  obtain ⟨⟨⟨⟨hentry, -⟩, -⟩, -⟩, -⟩ := hl
  rw [fields_of_runs h]
  exact hentry

/-- An illegal word traps `ILLOP` where some lane is active. -/
theorem issue_illegal {opc : Nat} {f : Fields} {s : State} {t : Thread} (body : Env → State → Res)
    (ht : s.thread? s.cur = some t) (hact : activeLanes s.cur (s.lanes s.cur) t f ≠ 0) (h : legal opc f = false) :
    issue opc f s body = .next (takeTrap s s.cur (wordOf opc f) (Trap.all cILLOP 0 (activeLanes s.cur (s.lanes s.cur) t f))) :=
  issue_traps body ht ((if_neg hact).trans (by rw [checkWord_illegal h]))

/-! ### Operands -/

/-- A scalar operand is read whole, for whatever lane and at whatever width (R12). -/
theorem va_of_isS {e : Env} (h : e.f.a.isS = true) (w l : Nat) : e.va w l = e.t.getS (sIdx e.f.a) := by
  unfold Env.va
  cases ha : e.f.a <;> simp_all [Env.opnd, Opd.isS]

theorem regTarget_of_isS {e : Env} (h : e.f.a.isS = true) :
    e.regTarget = e.t.getS (sIdx e.f.a) + e.f.x.signExtend 64 := by
  rw [Env.regTarget, va_of_isS h]

theorem savedMask_of_isS {e : Env} (h : e.f.a.isS = true) :
    e.savedMask = e.t.getS (sIdx e.f.a) &&& fullMask e.n := by
  rw [Env.savedMask, va_of_isS h]

/-- A mask inverted where `b` says so, bit by bit. -/
theorem getLsbD_invert {l : Nat} (h : l < 64) (p : Mask) (b : Bool) :
    (p ^^^ if b then BitVec.allOnes 64 else 0).getLsbD l = (p.getLsbD l ^^ b) := by
  rw [BitVec.getLsbD_xor]
  cases b with
  | false => simp
  | true => rw [if_pos rfl, BitVec.getLsbD_allOnes, decide_eq_true h]

theorem invP_getLsbD {l : Nat} (h : l < 64) (e : Env) (o : Opd) (i : Nat) :
    (e.invP o i).getLsbD l = ((e.t.getP o.num).getLsbD l ^^ e.f.fn.getLsbD i) :=
  getLsbD_invert h _ _

/-- No lane of `m` has the predicate `p`, inverted where `b` says so: in all of them `p` is `b`. -/
theorem and_invert_eq_zero_iff (m p : Mask) (b : Bool) :
    m &&& (p ^^^ if b then BitVec.allOnes 64 else 0) = 0 ↔ ∀ l, m.getLsbD l = true → p.getLsbD l = b := by
  constructor
  · intro h l hl
    have hlt : l < 64 := BitVec.lt_of_getLsbD hl
    have hbit := congrArg (fun x : Mask => x.getLsbD l) h
    rw [BitVec.getLsbD_and, hl, getLsbD_invert hlt] at hbit
    simpa using hbit
  · intro h
    refine BitVec.eq_of_getLsbD_eq fun l hlt => ?_
    rw [BitVec.getLsbD_and, getLsbD_invert hlt]
    cases hl : m.getLsbD l with
    | false => simp
    | true => simp [h l hl]

/-! ### What a word leaves that writes registers or jumps -/

section
variable {opc : Nat} {f : Fields} {s : State} {e : Env} {ports : Tab (List (List Word))} {body : Env → State → Res}

/-- A word whose body changes only the registers of its agent. -/
theorem issue_modThread {g : Thread → Thread} (h : Runs opc f s e ports) (hb : body e s = .ok (s.modThread e.a g)) :
    issue opc f s body = .next (regsAfter s e ports (g e.t).advance) := by
  rw [issue_ok h hb, wordEnd_modThread h.env.1]

/-- A word whose body changes nothing. -/
theorem issue_unchanged (h : Runs opc f s e ports) (hb : body e s = .ok s) :
    issue opc f s body = .next (regsAfter s e ports e.t.advance) := by
  have ht : (popPorts s e.a e.opc e.f ports).thread? e.a = some e.t := by rw [popPorts_thread?, h.env.1]
  rw [issue_ok h hb, wordEnd, modThread_of ht, regsAfter, popPorts_setThread]

/-- The outcome `o` is that of a taken branch to `dest` which leaves the registers `u` (R114): the pc at the target with the latch
released, or, where the target is no multiple of 4, the trap at the branch. -/
def LandsAt (opc : Nat) (f : Fields) (s : State) (e : Env) (ports : Tab (List (List Word))) (dest : Dword) (u : Thread)
    (o : Host.Outcome State Fault Refusal) : Prop :=
  (dest.toNat % 4 = 0 → o = .next (regsAfter s e ports { u with pc := dest, latch := none })) ∧
    (dest.toNat % 4 ≠ 0 → NoLate e →
      o = .next (takeTrap s e.a (wordOf opc f) { Trap.all cMISALIGN 0 e.act with cdetail := 3 }))

theorem jump_aligned {dest : Dword} (h : dest.toNat % 4 = 0) (e : Env) (s : State) (g : Thread → Thread) :
    jump e s dest g = .go (s.modThread e.a fun t => { (g t) with pc := dest, latch := none }) :=
  if_neg (not_not_intro h)

theorem jump_misaligned {dest : Dword} (h : dest.toNat % 4 ≠ 0) (e : Env) (s : State) (g : Thread → Thread) :
    jump e s dest g = .trap { Trap.all cMISALIGN 0 e.act with cdetail := 3 } s :=
  if_pos h

/-- A word whose body takes a branch. -/
theorem issue_jump {dest : Dword} {g : Thread → Thread} (h : Runs opc f s e ports) (hb : body e s = jump e s dest g) :
    LandsAt opc f s e ports dest (g e.t) (issue opc f s body) := by
  constructor
  · intro hd
    rw [issue_go h (hb.trans (jump_aligned hd e s g)), wordStays_modThread h.env.1]
  · intro hd hl
    exact issue_trap h hl (hb.trans (jump_misaligned hd e s g))

end

/-! ### The execution mask (R119) -/

theorem exec_split (f : Fields) (s : State) : exec (.split f) s = execSplit f s := rfl
theorem exec_flip (f : Fields) (s : State) : exec (.flip f) s = execFlip f s := rfl
theorem exec_merge (f : Fields) (s : State) : exec (.merge f) s = execMerge f s := rfl

theorem entryOk_split (f : Fields) :
    entryOk 0x68 f = (f.fn = 0#4 && f.mod = 0#6 && f.d.isS && f.a.isP && f.b.isAbsent && !f.gn && f.gp = 15#4) := rfl
theorem entryOk_flip (f : Fields) :
    entryOk 0x69 f = (f.fn = 0#4 && f.mod = 0#6 && f.d.isAbsent && f.a.isS && f.b.isAbsent && !f.gn && f.gp = 15#4) := rfl
theorem entryOk_merge (f : Fields) :
    entryOk 0x6A f =
      (f.fn = 0#4 && f.mod = 0#6 && f.d.isAbsent && f.a.isS && f.b.isAbsent && xUnused f && !f.gn && f.gp = 15#4) := rfl

section
variable {f : Fields} {s : State} {e : Env} {ports : Tab (List (List Word))}

theorem split_keeps (h : Runs 0x68 f s e ports) (hm : e.t.exm &&& e.t.getP f.a.num ≠ 0) :
    exec (.split f) s =
      .next (regsAfter s e ports
        ({ e.t.setS (sIdx f.d) e.t.exm with exm := e.t.exm &&& e.t.getP f.a.num } : Thread).advance) := by
  rw [exec_split]
  exact issue_modThread (g := fun t => { t.setS (sIdx f.d) e.t.exm with exm := e.t.exm &&& e.t.getP f.a.num }) h (if_neg hm)

theorem split_jumps (h : Runs 0x68 f s e ports) (hm : e.t.exm &&& e.t.getP f.a.num = 0) :
    LandsAt 0x68 f s e ports e.target (e.t.setS (sIdx f.d) e.t.exm) (exec (.split f) s) := by
  rw [exec_split]
  exact issue_jump (g := fun t => t.setS (sIdx f.d) e.t.exm) h (if_pos hm)

theorem flip_keeps (h : Runs 0x69 f s e ports) (hm : e.savedMask &&& ~~~e.t.exm &&& e.t.live ≠ 0) :
    exec (.flip f) s =
      .next (regsAfter s e ports ({ e.t with exm := e.savedMask &&& ~~~e.t.exm &&& e.t.live } : Thread).advance) := by
  rw [exec_flip]
  exact issue_modThread (g := fun t => { t with exm := e.savedMask &&& ~~~e.t.exm &&& e.t.live }) h (if_pos hm)

theorem flip_traps (h : Runs 0x69 f s e ports) (hm : e.savedMask &&& ~~~e.t.exm &&& e.t.live = 0)
    (hv : e.savedMask &&& e.t.live = 0) (hl : NoLate e) :
    exec (.flip f) s = .next (takeTrap s e.a (wordOf 0x69 f) (Trap.all cILLOP 0 e.act)) := by
  rw [exec_flip]
  exact issue_trap h hl ((if_neg (not_not_intro hm)).trans (if_pos hv))

theorem flip_jumps (h : Runs 0x69 f s e ports) (hm : e.savedMask &&& ~~~e.t.exm &&& e.t.live = 0)
    (hv : e.savedMask &&& e.t.live ≠ 0) :
    LandsAt 0x69 f s e ports e.target { e.t with exm := e.savedMask &&& e.t.live } (exec (.flip f) s) := by
  rw [exec_flip]
  exact issue_jump (g := fun t => { t with exm := e.savedMask &&& e.t.live }) h ((if_neg (not_not_intro hm)).trans (if_neg hv))

theorem merge_keeps (h : Runs 0x6A f s e ports) (hm : e.savedMask &&& e.t.live ≠ 0) :
    exec (.merge f) s =
      .next (regsAfter s e ports ({ e.t with exm := e.savedMask &&& e.t.live } : Thread).advance) := by
  rw [exec_merge]
  exact issue_modThread (g := fun t => { t with exm := e.savedMask &&& e.t.live }) h (if_neg hm)

theorem merge_traps (h : Runs 0x6A f s e ports) (hm : e.savedMask &&& e.t.live = 0) (hl : NoLate e) :
    exec (.merge f) s = .next (takeTrap s e.a (wordOf 0x6A f) (Trap.all cILLOP 0 e.act)) := by
  rw [exec_merge]
  exact issue_trap h hl (if_pos hm)

theorem flip_a_isS (h : Runs 0x69 f s e ports) : e.f.a.isS = true := by
  have hok := entryOk_of_runs h
  simp only [entryOk_flip, Bool.and_eq_true] at hok
  obtain ⟨⟨⟨⟨-, hscalar⟩, -⟩, -⟩, -⟩ := hok
  exact hscalar

theorem merge_a_isS (h : Runs 0x6A f s e ports) : e.f.a.isS = true := by
  have hok := entryOk_of_runs h
  simp only [entryOk_merge, Bool.and_eq_true] at hok
  obtain ⟨⟨⟨⟨⟨-, hscalar⟩, -⟩, -⟩, -⟩, -⟩ := hok
  exact hscalar

end

/-- The mask words take no guard but `?P15` (R119). -/
theorem maskWord_illegal_of_guard {opc : Nat} {f : Fields} (ho : opc ∈ [0x68, 0x69, 0x6A]) (h : f.gn = true ∨ f.gp ≠ 15) :
    legal opc f = false := by
  refine Bool.eq_false_iff.2 fun hl => ?_
  have hg : f.gn = false ∧ f.gp = 15#4 := by
    simp only [List.mem_cons, List.not_mem_nil, or_false] at ho
    obtain rfl | rfl | rfl := ho <;>
      simp only [legal, entryOk_split, entryOk_flip, entryOk_merge, Bool.and_eq_true, Bool.not_eq_true',
        decide_eq_true_eq] at hl <;>
      obtain ⟨⟨⟨⟨⟨⟨-, hgn⟩, hgp⟩, -⟩, -⟩, -⟩, -⟩ := hl <;>
      exact ⟨hgn, hgp⟩
  obtain ⟨hgn, hgp⟩ := hg
  rcases h with h | h
  · rw [hgn] at h; exact Bool.false_ne_true h
  · exact h hgp

theorem maskWord_guard_traps {i : Instr} {opc : Nat} {f : Fields} {s : State} {t : Thread}
    (hi : (i, opc) ∈ [(Instr.split f, 0x68), (.flip f, 0x69), (.merge f, 0x6A)]) (ht : s.thread? s.cur = some t)
    (hg : f.gn = true ∨ f.gp ≠ 15) (hact : activeLanes s.cur (s.lanes s.cur) t f ≠ 0) :
    exec i s = .next (takeTrap s s.cur (wordOf opc f) (Trap.all cILLOP 0 (activeLanes s.cur (s.lanes s.cur) t f))) := by
  have hrow : instrForm i = some (opc, f) ∧ opc ∈ [0x68, 0x69, 0x6A] ∧ waitsForResults opc = false := by
    simp only [List.mem_cons, Prod.mk.injEq, List.not_mem_nil, or_false] at hi
    obtain ⟨rfl, rfl⟩ | ⟨rfl, rfl⟩ | ⟨rfl, rfl⟩ := hi <;> exact ⟨rfl, by decide, rfl⟩
  obtain ⟨hform, hopc, hwaits⟩ := hrow
  have hsettled : settledFor opc s = s := if_neg (by simp [hwaits])
  obtain ⟨body, hexec⟩ := exec_issue hform s (fun hw => absurd hw (by simp [hwaits]))
  rw [hexec, hsettled]
  exact issue_illegal body ht hact (maskWord_illegal_of_guard hopc hg)

/-- Settles O17: each word's body is one chain of conditions, whose branches are the cases of R119; a guard but `?P15` is
refused by the entry of each row. -/
theorem maskWordsSetMasks : Obligations.MaskWordsSetMasks := by
  intro f s e ports dest mis ill
  refine ⟨fun h => ?_, fun h => ?_, fun h => ?_, fun t i opc hi ht hg hact => maskWord_guard_traps hi ht hg hact⟩
  · obtain rfl := fields_of_runs h
    exact ⟨split_keeps h, fun hm => (split_jumps h hm).1, fun hm => (split_jumps h hm).2⟩
  · obtain rfl := fields_of_runs h
    rw [← savedMask_of_isS (flip_a_isS h)]
    exact ⟨flip_keeps h, flip_traps h, fun hm hv => (flip_jumps h hm hv).1, fun hm hv => (flip_jumps h hm hv).2⟩
  · obtain rfl := fields_of_runs h
    rw [← savedMask_of_isS (merge_a_isS h)]
    exact ⟨merge_keeps h, merge_traps h⟩

/-! ### Branches (R114 to R117) -/

theorem exec_nop (f : Fields) (s : State) : exec (.nop f) s = execNop f s := rfl
theorem exec_bra (f : Fields) (s : State) : exec (.bra f) s = execBra f s := rfl
theorem exec_brx (f : Fields) (s : State) : exec (.brx f) s = execBrx f s := rfl
theorem exec_brz (f : Fields) (s : State) : exec (.brz f) s = execBrz f s := rfl
theorem exec_call (f : Fields) (s : State) : exec (.call f) s = execCall f s := rfl
theorem exec_ret (f : Fields) (s : State) : exec (.ret f) s = execRet f s := rfl
theorem exec_loop (f : Fields) (s : State) : exec (.loop f) s = execLoop f s := rfl

theorem entryOk_brx (f : Fields) :
    entryOk 0x62 f = (f.fn = 0#4 && f.mod = 0#6 && f.d.isAbsent && f.a.isS && f.b.isAbsent) := rfl
theorem entryOk_brz (f : Fields) :
    entryOk 0x63 f =
      (f.mod = 0#6 && f.d.isAbsent && f.b.isAbsent && (f.a.isP && decide (f.fnn ≤ 1) || f.a.isS && f.fn = 0#4)) := rfl
theorem entryOk_call (f : Fields) :
    entryOk 0x64 f =
      (f.mod = 0#6 && f.d.isS && f.b.isAbsent && (f.fn = 0#4 && f.a.isAbsent || f.fn = 1#4 && f.a.isS)) := rfl
theorem entryOk_ret (f : Fields) :
    entryOk 0x65 f = (f.fn = 0#4 && f.mod = 0#6 && f.d.isAbsent && f.a.isS && f.b.isAbsent && xUnused f) := rfl

/-- The condition of `BRZ` in the terms of R116. -/
theorem brzTaken_iff {e : Env} (h : e.f.a.isP = true ∨ e.f.a.isS = true) :
    brzTaken e = true ↔
      (∃ n, e.f.a = .p n ∧ ∀ l, e.act.getLsbD l = true → (e.t.getP n.toNat).getLsbD l = e.f.fn.getLsbD 0) ∨
        e.f.a.isS = true ∧ e.t.getS (sIdx e.f.a) = 0 := by
  rcases h with hp | hs
  · obtain ⟨n, hn⟩ : ∃ n, e.f.a = .p n := by
      cases ha : e.f.a <;> simp_all [Opd.isP]
    have hcond := and_invert_eq_zero_iff e.act (e.t.getP n.toNat) (e.f.fn.getLsbD 0)
    simp only [brzTaken, hn, decide_eq_true_eq, hcond]
    simp [Opd.isS]
  · have hne : ∀ n, e.f.a ≠ .p n := fun n hn => by simp [hn, Opd.isS] at hs
    have hcond : brzTaken e = decide (e.va 64 e.low = 0) := by
      unfold brzTaken
      split
      · next n hn => exact absurd hn (hne n)
      · rfl
    rw [hcond, va_of_isS hs, decide_eq_true_eq]
    simp [hs, hne]

section
variable {f : Fields} {s : State} {e : Env} {ports : Tab (List (List Word))}

theorem nop_goesOn (h : Runs 0x60 f s e ports) : exec (.nop f) s = .next (regsAfter s e ports e.t.advance) := by
  rw [exec_nop]
  exact issue_unchanged h rfl

theorem bra_lands (h : Runs 0x61 f s e ports) : LandsAt 0x61 f s e ports e.target e.t (exec (.bra f) s) := by
  rw [exec_bra]
  exact issue_jump (g := id) h rfl

theorem brx_a_isS (h : Runs 0x62 f s e ports) : e.f.a.isS = true := by
  have hok := entryOk_of_runs h
  simp only [entryOk_brx, Bool.and_eq_true] at hok
  obtain ⟨⟨-, hscalar⟩, -⟩ := hok
  exact hscalar

theorem brx_lands (h : Runs 0x62 f s e ports) :
    LandsAt 0x62 f s e ports (e.t.getS (sIdx e.f.a) + e.f.x.signExtend 64) e.t (exec (.brx f) s) := by
  rw [exec_brx, ← regTarget_of_isS (brx_a_isS h)]
  exact issue_jump (g := id) h rfl

theorem brz_a_isP_or_isS (h : Runs 0x63 f s e ports) : e.f.a.isP = true ∨ e.f.a.isS = true := by
  have hok := entryOk_of_runs h
  simp only [entryOk_brz, Bool.and_eq_true, Bool.or_eq_true] at hok
  obtain ⟨-, ⟨hpred, -⟩ | ⟨hscalar, -⟩⟩ := hok
  · exact .inl hpred
  · exact .inr hscalar

theorem brz_lands (h : Runs 0x63 f s e ports) (ht : brzTaken e = true) :
    LandsAt 0x63 f s e ports e.target e.t (exec (.brz f) s) := by
  rw [exec_brz]
  exact issue_jump (g := id) h (if_pos ht)

theorem brz_goesOn (h : Runs 0x63 f s e ports) (ht : ¬brzTaken e = true) :
    exec (.brz f) s = .next (regsAfter s e ports e.t.advance) := by
  rw [exec_brz]
  exact issue_unchanged h (if_neg ht)

/-- `CALL` names a register for the target exactly where `FN` selects that form (R115). -/
theorem call_a_isS (h : Runs 0x64 f s e ports) (hf : e.f.fn.getLsbD 0 = true) : e.f.a.isS = true := by
  have hok := entryOk_of_runs h
  have hfn : e.f.fn ≠ 0#4 := fun h0 => by simp [h0] at hf
  simp only [entryOk_call, Bool.and_eq_true, Bool.or_eq_true, decide_eq_true_eq] at hok
  obtain ⟨-, ⟨h0, -⟩ | ⟨-, hscalar⟩⟩ := hok
  · exact absurd h0 hfn
  · exact hscalar

theorem call_lands (h : Runs 0x64 f s e ports) :
    LandsAt 0x64 f s e ports
      (if e.f.fn.getLsbD 0 then e.t.getS (sIdx e.f.a) + e.f.x.signExtend 64 else e.target)
      (e.t.setS (sIdx e.f.d) e.next) (exec (.call f) s) := by
  have hdest : (if e.f.fn.getLsbD 0 then e.t.getS (sIdx e.f.a) + e.f.x.signExtend 64 else e.target) =
      if e.f.fn.getLsbD 0 then e.regTarget else e.target :=
    ite_congr rfl (fun hf => (regTarget_of_isS (call_a_isS h hf)).symm) fun _ => rfl
  obtain rfl := fields_of_runs h
  rw [exec_call, hdest]
  exact issue_jump (g := fun t => t.setS (sIdx e.f.d) e.next) h rfl

theorem ret_a_isS (h : Runs 0x65 f s e ports) : e.f.a.isS = true := by
  have hok := entryOk_of_runs h
  simp only [entryOk_ret, Bool.and_eq_true] at hok
  obtain ⟨⟨⟨-, hscalar⟩, -⟩, -⟩ := hok
  exact hscalar

theorem ret_lands (h : Runs 0x65 f s e ports) :
    LandsAt 0x65 f s e ports (e.t.getS (sIdx e.f.a)) e.t (exec (.ret f) s) := by
  rw [exec_ret, ← va_of_isS (ret_a_isS h) 64 e.low]
  exact issue_jump (g := id) h rfl

theorem loop_lands (h : Runs 0x66 f s e ports) (hc : e.t.getS (sIdx f.d) - 1 ≠ 0) :
    LandsAt 0x66 f s e ports e.target (e.t.setS (sIdx f.d) (e.t.getS (sIdx f.d) - 1)) (exec (.loop f) s) := by
  rw [exec_loop]
  exact issue_jump (g := fun t => t.setS (sIdx f.d) (e.t.getS (sIdx f.d) - 1)) h (if_pos hc)

theorem loop_goesOn (h : Runs 0x66 f s e ports) (hc : e.t.getS (sIdx f.d) - 1 = 0) :
    exec (.loop f) s = .next (regsAfter s e ports (e.t.setS (sIdx f.d) 0).advance) := by
  rw [exec_loop, ← hc]
  exact issue_modThread (g := fun t => t.setS (sIdx f.d) (e.t.getS (sIdx f.d) - 1)) h (if_neg (not_not_intro hc))

end

/-- Settles O20: every word but `NOP` is the one taken branch (`issue_jump`), with its own target and register, where its
condition holds. -/
theorem branchWordsMoveThePc : Obligations.BranchWordsMoveThePc := by
  intro f s e ports next target reg lands
  refine ⟨nop_goesOn, fun h => ?_, fun h => ?_, fun h => ?_, fun h => ?_, fun h => ?_, fun h => ?_⟩
  all_goals obtain rfl := fields_of_runs h
  · exact bra_lands h
  · exact brx_lands h
  · have htaken := brzTaken_iff (brz_a_isP_or_isS h)
    exact ⟨fun hempty => brz_lands h (htaken.2 hempty), fun hfull => brz_goesOn h (mt htaken.1 hfull)⟩
  · exact call_lands h
  · exact ret_lands h
  · exact ⟨loop_lands h, loop_goesOn h⟩

/-! ### Predicates (R122) -/

theorem exec_pand (f : Fields) (s : State) : exec (.pand f) s = execPand f s := rfl
theorem exec_por (f : Fields) (s : State) : exec (.por f) s = execPor f s := rfl
theorem exec_pxor (f : Fields) (s : State) : exec (.pxor f) s = execPxor f s := rfl
theorem exec_pset (f : Fields) (s : State) : exec (.pset f) s = execPset f s := rfl
theorem exec_pmov (f : Fields) (s : State) : exec (.pmov f) s = execPmov f s := rfl

/-- A predicate after a write of the mask `v` in the lanes of `m`, lane by lane (R61). -/
theorem getP_setP_getLsbD (t : Thread) (n : Nat) (m v : Mask) {l : Nat} (h : l < 64) :
    ((t.setP n m v).getP n).getLsbD l =
      if n = 15 then true else if m.getLsbD l then v.getLsbD l else (t.getP n).getLsbD l := by
  rw [Thread.getP_setP_same]
  by_cases hn : n = 15
  · rw [if_pos hn, if_pos hn, BitVec.getLsbD_allOnes, decide_eq_true h]
  · rw [if_neg hn, if_neg hn, BitVec.getLsbD_or, BitVec.getLsbD_and, BitVec.getLsbD_and, BitVec.getLsbD_not]
    cases m.getLsbD l <;> simp [h]

section
variable {opc : Nat} {f : Fields} {s : State} {e : Env} {ports : Tab (List (List Word))} {body : Env → State → Res}

/-- The outcome `o` is that of a word which writes, in its active lanes, the bits `g` of the predicate `f.d`. -/
def WritesPredicate (f : Fields) (s : State) (e : Env) (ports : Tab (List (List Word))) (g : Nat → Bool)
    (o : Host.Outcome State Fault Refusal) : Prop :=
  ∃ m : Mask, o = .next (regsAfter s e ports (e.t.setP f.d.num e.act m).advance) ∧
    (∀ l ∈ e.lanes, m.getLsbD l = g l) ∧
    ∀ l, l < 64 → ((e.t.setP f.d.num e.act m).getP f.d.num).getLsbD l =
      if f.d.num = 15 then true else if e.act.getLsbD l then m.getLsbD l else (e.t.getP f.d.num).getLsbD l

/-- A word whose body writes the mask `m` to its predicate in the active lanes. -/
theorem issue_writesPredicate {m : Mask} {g : Nat → Bool} (h : Runs opc f s e ports)
    (hb : body e s = .ok (s.modThread e.a fun t => t.setP f.d.num e.act m)) (hm : ∀ l ∈ e.lanes, m.getLsbD l = g l) :
    WritesPredicate f s e ports g (issue opc f s body) :=
  ⟨m, issue_modThread (g := fun t => t.setP f.d.num e.act m) h hb, hm, fun _ hl => getP_setP_getLsbD e.t _ _ _ hl⟩

/-- A word on two predicates, for an operation `op` of masks that is `g` in each lane. -/
theorem issue_predOp {op : Mask → Mask → Mask} {g : Bool → Bool → Bool} (h : Runs opc f s e ports)
    (hop : ∀ x y l, (op x y).getLsbD l = g (x.getLsbD l) (y.getLsbD l)) :
    WritesPredicate f s e ports
      (fun l => g ((e.t.getP f.a.num).getLsbD l ^^ f.fn.getLsbD 0) ((e.t.getP f.b.num).getLsbD l ^^ f.fn.getLsbD 1))
      (issue opc f s (predOp op)) := by
  obtain rfl := fields_of_runs h
  refine issue_writesPredicate (m := op (e.invP e.f.a 0) (e.invP e.f.b 1)) h rfl fun l hl => ?_
  have hlt := h.lane_lt l hl
  rw [hop, invP_getLsbD hlt, invP_getLsbD hlt]

end

/-- Settles O21: the three words on two predicates are one shape (`issue_predOp`); `PSET` writes its operand as the mask, and
`PMOV` a scalar register. -/
theorem predicateWords : Obligations.PredicateWords := by
  intro f s e ports pa pb writes
  refine ⟨fun h => ?_, fun h => ?_, fun h => ?_, fun h => ?_, fun h => ?_⟩
  · show WritesPredicate f s e ports (fun l => pa l && pb l) (exec (.pand f) s)
    rw [exec_pand]
    exact issue_predOp (g := and) h fun x y l => BitVec.getLsbD_and
  · show WritesPredicate f s e ports (fun l => pa l || pb l) (exec (.por f) s)
    rw [exec_por]
    exact issue_predOp (g := or) h fun x y l => BitVec.getLsbD_or
  · show WritesPredicate f s e ports (fun l => pa l ^^ pb l) (exec (.pxor f) s)
    rw [exec_pxor]
    exact issue_predOp (g := xor) h fun x y l => BitVec.getLsbD_xor
  · show WritesPredicate f s e ports (fun l => (e.va 64 e.low).getLsbD l) (exec (.pset f) s)
    rw [exec_pset]
    exact issue_writesPredicate (m := e.va 64 e.low) h rfl fun _ _ => rfl
  · rw [exec_pmov]
    exact issue_modThread (g := fun t => t.setS (sIdx f.d) (e.t.getP f.a.num &&& e.t.live &&& fullMask e.n)) h rfl

end Sys2Proof.Machine.ControlWords
end
